-- ==== Sys2Proof/Word.lean ====
section
/-! DEFINITION. The word types of the NZ960 model (R5 to R8): plain bit vectors, so that the library's lemmas apply. -/

namespace Sys2Proof

/-- One byte of any memory (R7). -/
abbrev Byte := BitVec 8
/-- A 16-bit code-stream halfword (R66). -/
abbrev Half := BitVec 16
/-- A 32-bit element or register half. -/
abbrev Word32 := BitVec 32
/-- A scalar register, a control register, a physical word (R25). -/
abbrev Word := BitVec 64
/-- The whole of one vector register: 512 lanes of 32 bits, lane i in bits 32i+31:32i (R30). -/
abbrev VReg := BitVec 16384
/-- One predicate register: bit i governs lane i (R31). -/
abbrev PReg := BitVec 512
/-- One accumulator tile: 128 rows of 128 elements of 32 bits, element (i, j) at bits 32(128i+j) (R32). -/
abbrev AccTile := BitVec 524288
/-- One bundle, bit 383 its leftmost (R6, R74). -/
abbrev Bundle := BitVec 384
/-- One micro-instruction (R233). -/
abbrev MicroWord := BitVec 128

end Sys2Proof
end

