-- ==== Sys2Proof/Syntax.lean ====
section
/-! DEFINITION. The steps of the NZ960, one constructor of Instr for each row of the table of operations and events:
the instructions of the nine slots, the micro-operations of the matrix sequencer, and the device's own events.
An instruction carries its operands as the encodings of chapter 02 give them. An event has no encoding; what the part of
the device that causes it knows stands in State's ev while it runs. The instructions stand first: they alone have operands. -/

namespace Sys2Proof

/-- The sixteen element formats of R108, code 15 apart. -/
inductive Fmt where
  | fp32 | bf16 | fp16 | e4m3 | e5m2 | e2m1 | l8 | l4 | i32 | i16 | i8 | i4 | n32 | n16 | n8
  deriving DecidableEq, Repr

/-- The rounding sub-field (R83): the mode of fmt.rm, or a named mode. -/
inductive RSel where
  | rm | rne | rtz | rup | rdn | rst
  deriving DecidableEq, Repr

/-- The integer condition codes (R84), with the unsigned four last. -/
inductive ICond where
  | eq | ne | lt | le | gt | ge | ltn | len | gtn | gen
  deriving DecidableEq, Repr

/-- The float condition codes (R84). -/
inductive FCond where
  | eq | ne | lt | le | gt | ge | uo | or
  deriving DecidableEq, Repr

/-- The condition codes of VCMPT (R200). -/
inductive PCond where
  | eq | ne | lt | le | gt | ge
  deriving DecidableEq, Repr

/-- A shift amount of SHL, SHR, SAR and ROT: a scalar register or an immediate (R85, R146). -/
inductive ShAmt where
  | reg (rb : BitVec 6)
  | imm (n : BitVec 6)
  deriving DecidableEq, Repr

/-- The operation of AMOS (R152). -/
inductive AmosOp where
  | add | min | max | minn | maxn | xchg | cas | and | or
  deriving DecidableEq, Repr

/-- The operation of AMO (R278). -/
inductive AmoOp where
  | add | fadd | min | max | minn | maxn | xchg | cas | and | or
  deriving DecidableEq, Repr

/-- The scalar types of CVT (R155). -/
inductive CvtTy where
  | fp32 | fp64 | i32 | n32 | i64 | n64
  deriving DecidableEq, Repr

/-- The query codes of HQRY (R160). -/
inductive HQuery where
  | home | rights | live | res | shape | ver | size
  deriving DecidableEq, Repr

/-- The combining operations of scans, FRECVA and collectives (R86, R87, R294). -/
inductive CombOp where
  | add | max | min
  deriving DecidableEq, Repr

/-- The scopes of RELV and ACQV (R279). -/
inductive Scope where
  | core | cluster | die | package | system
  deriving DecidableEq, Repr

/-- A predicate guard (R80): predicate number 0-31, complemented, zeroing. -/
structure Guard where
  gp : BitVec 5
  gn : Bool
  gz : Bool
  deriving DecidableEq, Repr

/-- Destination, two sources, modifiers and guard of a vector instruction (R79). -/
structure VOp where
  vd : BitVec 9
  va : BitVec 9
  vb : BitVec 9
  ma : BitVec 3
  mb : BitVec 3
  g  : Option Guard
  deriving DecidableEq, Repr

/-- The operand fields of the tile transfers of format MA (R82, R266). -/
structure TileOp where
  td : BitVec 6
  hh : BitVec 5
  sx : BitVec 6
  sy : BitVec 6
  gg : BitVec 3
  tr : Bool
  cst : BitVec 5
  deriving DecidableEq, Repr

/-- The indexing fields of a micro-instruction (R234, R236): ix and mpx. -/
structure MIdx where
  ix  : Bool
  mpx : BitVec 3
  deriving DecidableEq, Repr

/-- The steps of the part, one constructor for each row of the table of operations and events. -/
inductive Instr where
  -- SA and SB: integer
  | add (rd ra rb : BitVec 6)
  | sub (rd ra rb : BitVec 6)
  | addi (rd ra : BitVec 6) (imm : BitVec 21)
  | mul (rd ra rb : BitVec 6)
  | mulh (n : Bool) (rd ra rb : BitVec 6)
  | div (n : Bool) (rd ra rb : BitVec 6)
  | rem (n : Bool) (rd ra rb : BitVec 6)
  | and (rd ra rb : BitVec 6)
  | or (rd ra rb : BitVec 6)
  | xor (rd ra rb : BitVec 6)
  | andn (rd ra rb : BitVec 6)
  | shl (rd ra : BitVec 6) (amt : ShAmt)
  | shr (rd ra : BitVec 6) (amt : ShAmt)
  | sar (rd ra : BitVec 6) (amt : ShAmt)
  | rot (rd ra : BitVec 6) (amt : ShAmt)
  | clz (rd ra : BitVec 6)
  | ctz (rd ra : BitVec 6)
  | popc (rd ra : BitVec 6)
  | min (n : Bool) (rd ra rb : BitVec 6)
  | max (n : Bool) (rd ra rb : BitVec 6)
  | cmp (c : ICond) (rd ra rb : BitVec 6)
  | sel (rd ra rb rc : BitVec 6)
  | movi (rd : BitVec 6) (imm : BitVec 27)
  | movhi (rd : BitVec 6) (imm : BitVec 27)
  | bfx (signed : Bool) (rd ra pos len1 : BitVec 6)
  | bfi (rd ra pos len1 : BitVec 6)
  | lds (rd ra : BitVec 6) (sz : BitVec 2) (sx : Bool) (disp : BitVec 18)
  | sts (rd ra : BitVec 6) (sz : BitVec 2) (disp : BitVec 18)
  | amos (op : AmosOp) (w64 : Bool) (rd ra rb rc : BitVec 6)
  -- SA and SB: floating point
  | fadd (dbl : Bool) (r : RSel) (rd ra rb : BitVec 6)
  | fsub (dbl : Bool) (r : RSel) (rd ra rb : BitVec 6)
  | fmul (dbl : Bool) (r : RSel) (rd ra rb : BitVec 6)
  | ffma (dbl : Bool) (r : RSel) (rd ra rb rc : BitVec 6)
  | fdiv (dbl : Bool) (r : RSel) (rd ra rb : BitVec 6)
  | fsqrt (dbl : Bool) (r : RSel) (rd ra : BitVec 6)
  | fcmp (c : FCond) (dbl : Bool) (rd ra rb : BitVec 6)
  | cvt (dst src : CvtTy) (r : RSel) (rd ra : BitVec 6)
  -- SA and SB: control registers, handles, generators, tiles, matrix parameters
  | mfc (rd : BitVec 6) (cr : BitVec 8)
  | mtc (cr : BitVec 8) (rd : BitVec 6)
  | hbind (hd : BitVec 5) (ra : BitVec 6) (mask : Option (BitVec 6))
  | hmov (hd ha : BitVec 5)
  | hqry (q : HQuery) (rd : BitVec 6) (ha : BitVec 5)
  | gset (gg w : BitVec 3) (ra : BitVec 6)
  | tset (td : BitVec 6) (w : BitVec 3) (ra : BitVec 6)
  | mpset (mp : BitVec 3) (ra : BitVec 6)
  -- VX and VY: arithmetic
  | vadd (f : Fmt) (r : RSel) (o : VOp)
  | vsub (f : Fmt) (r : RSel) (o : VOp)
  | vmul (f : Fmt) (r : RSel) (o : VOp)
  | vfma (f : Fmt) (r : RSel) (o : VOp)
  | vmin (f : Fmt) (o : VOp)
  | vmax (f : Fmt) (o : VOp)
  | vabs (f : Fmt) (o : VOp)
  | vneg (f : Fmt) (o : VOp)
  | vmulh (f : Fmt) (o : VOp)
  | vdot4 (f : Fmt) (o : VOp)
  -- VX and VY: logic, shifts, compares, selects
  | vand (o : VOp)
  | vor (o : VOp)
  | vxor (o : VOp)
  | vnot (o : VOp)
  | vshl (f : Fmt) (imm : Bool) (o : VOp)
  | vshr (f : Fmt) (imm : Bool) (o : VOp)
  | vsar (f : Fmt) (imm : Bool) (o : VOp)
  | vcmp (f : Fmt) (code : BitVec 4) (o : VOp)
  | vcmpt (f : Fmt) (c : PCond) (o : VOp)
  | vsel (p : BitVec 5) (o : VOp)
  | vcas (f : Fmt) (pd : BitVec 4) (o : VOp)
  -- VX and VY: moves and permutes
  | vmov (f : Fmt) (o : VOp)
  | vbcast (f : Fmt) (o : VOp)
  | vidx (f : Fmt) (o : VOp)
  | vperm (o : VOp)
  | vrot (imm : Bool) (o : VOp)
  | vshuf (o : VOp)
  -- VX and VY: reductions, scans, special functions
  | vredadd (f : Fmt) (r : RSel) (o : VOp)
  | vredmax (f : Fmt) (o : VOp)
  | vredmin (f : Fmt) (o : VOp)
  | vscan (op : CombOp) (f : Fmt) (r : RSel) (o : VOp)
  | vexp2 (f : Fmt) (r : RSel) (o : VOp)
  | vlog2 (f : Fmt) (r : RSel) (o : VOp)
  | vrcp (f : Fmt) (r : RSel) (o : VOp)
  | vrsq (f : Fmt) (r : RSel) (o : VOp)
  -- VX and VY: conversions
  | vcvt (dst src : Fmt) (r : RSel) (o : VOp)
  | vqnt (f : Fmt) (zp : Bool) (r : RSel) (o : VOp)
  | vdq (f : Fmt) (zp : Bool) (r : RSel) (o : VOp)
  | vsat (f : Fmt) (o : VOp)
  | vpack (f : Fmt) (o : VOp)
  | vunpk (f : Fmt) (hi : Bool) (o : VOp)
  | vlmul (f : Fmt) (o : VOp)
  | vllin (f : Fmt) (o : VOp)
  -- VX and VY: predicates, tiles, scratchpad, decoder FIFO
  | vpand (o : VOp)
  | vpor (o : VOp)
  | vpnot (o : VOp)
  | vpcnt (o : VOp)
  | vpfst (o : VOp)
  | vld (o : VOp)
  | vst (o : VOp)
  | vgath (f : Fmt) (o : VOp)
  | vscat (f : Fmt) (o : VOp)
  | vpop (o : VOp)
  -- XF
  | xexp (ta : BitVec 6) (nb : BitVec 4) (codec : BitVec 3)
  | xratio (q : BitVec 16)
  | xtrn (td ta : BitVec 6)
  | xcvt (td ta : BitVec 6) (dst : Fmt) (r : RSel)
  | xpack (td ta : BitVec 6) (dst : Fmt) (r : RSel)
  -- MEM
  | ldt (step flt : Bool) (o : TileOp)
  | ldts (step flt : Bool) (o : TileOp)
  | stt (o : TileOp)
  | chkpT (td sx sy : BitVec 6)
  | chkpQ (td sx sy : BitVec 6) (off8 : BitVec 18)
  | pft (o : TileOp)
  | tmovIn (td sx sy : BitVec 6) (gg : BitVec 3)
  | tmovOut (td sx sy : BitVec 6) (gg : BitVec 3)
  | amo (op : AmoOp) (w64 nr : Bool) (hh : BitVec 5) (sx sy : BitVec 6) (tile : BitVec 6) (word : BitVec 12)
  | relv (sc : Scope) (hh : BitVec 5) (sy : BitVec 6)
  | acqv (sc : Scope) (hh : BitVec 5) (sy : BitVec 6) (tile : BitVec 6) (k : BitVec 7)
  | bari (hh : BitVec 5) (sx sy : BitVec 6) (n : BitVec 17)
  | bara (bytes poison : Bool) (hh : BitVec 5) (sx sy : BitVec 6)
  | xcopy (td : BitVec 6)
  | xchain (td : BitVec 6)
  | xgath (td : BitVec 6)
  | xcoll (td : BitVec 6)
  | gstep (td : BitVec 6)
  | qput (sx sy : BitVec 6) (q : BitVec 3)
  | qget (q : BitVec 3) (sx : BitVec 6) (imm : BitVec 18)
  | rput (ccw : Bool) (lane : BitVec 3) (tap : BitVec 6) (td sx : BitVec 6) (j : BitVec 9)
  | rtap (ccw : Bool) (lane : BitVec 3) (tap : BitVec 6) (td sx : BitVec 6) (j : BitVec 9)
  | pfxlook (sh : Bool) (n1 : BitVec 8) (td : BitVec 6) (hh : BitVec 5) (sx sy : BitVec 6)
  | tlbi (kind : BitVec 2) (pkg : Bool) (sx sy : BitVec 6) (n1 : BitVec 17)
  | otw (sx sy : BitVec 6)
  | oti (sy : BitVec 6)
  | ota (compressed dedup : Bool) (sy : BitVec 6)
  | ctxsave (hh : BitVec 5) (sx sy : BitVec 6)
  | ctxrest (hh : BitVec 5) (sx sy : BitVec 6)
  | ldp (size : BitVec 3) (sx sy : BitVec 6) (disp : BitVec 18)
  | stp (size : BitVec 3) (sx sy : BitVec 6) (disp : BitVec 18)
  | keyw (sx sy : BitVec 6) (tag : BitVec 16)
  | keyz (all : Bool) (sx : BitVec 6)
  -- MX
  | mcall (ua : BitVec 9)
  | mcallw (ua : BitVec 9)
  | mldstore (ua : BitVec 9) (td : BitVec 6) (n1 : BitVec 9)
  -- FAB
  | fsend (sc : BitVec 6) (off : BitVec 12) (td : BitVec 6) (n1 : BitVec 4)
  | frecv (sc : BitVec 6) (off : BitVec 12) (td : BitVec 6) (n1 : BitVec 4)
  | frecva (op : CombOp) (sc : BitVec 6) (off : BitVec 12) (td : BitVec 6) (n1 : BitVec 2)
  | fmark (sc : BitVec 6) (k : BitVec 7) (td : BitVec 6)
  | frdv (sc : BitVec 6) (off : BitVec 12)
  | fctlSync (k : BitVec 7) (td : BitVec 6)
  | fctlStat (k : BitVec 7) (td : BitVec 6)
  -- CTL
  | br (c : ICond) (sc : BitVec 6) (disp : BitVec 24)
  | brp (p : BitVec 5) (pol : Bool) (disp : BitVec 24)
  | jmp (tgt : Option (BitVec 6)) (disp : BitVec 24)
  | call (tgt : Option (BitVec 6)) (disp : BitVec 24)
  | ret
  | loop (sc : BitVec 6) (disp : BitVec 18)
  | loopi (cnt : BitVec 16) (disp : BitVec 18)
  | lbrk (c : ICond) (sc : BitVec 6)
  | fmtset (sc : BitVec 6)
  | fmtseti (imm : Word32)
  | waitb (hh : BitVec 5) (sx : BitVec 6) (ph : Bool)
  | waitc (sc : BitVec 6) (imm : BitVec 28)
  | yield
  | halt
  | trap (code : BitVec 16)
  | kcall (code : BitVec 16)
  | kret
  | wfi
  | ipi (sc : BitVec 6) (code : BitVec 16)
  | jarm (sc : BitVec 6)
  -- micro-operations
  | mma (i : MIdx) (acc ta : BitVec 6) (wg : BitVec 9) (ka : BitVec 10) (kb : BitVec 11) (kn : BitVec 10) (adv : Bool)
  | mmas (i : MIdx) (acc ta : BitVec 6) (wg : BitVec 9) (ka : BitVec 10) (kb : BitVec 11) (kn : BitVec 10) (adv : Bool)
      (st sacc : BitVec 6)
  | mldw (i : MIdx) (ts : BitVec 6) (wg : BitVec 9) (form : BitVec 2) (sc : Bool) (kn : BitVec 11)
  | mzero (i : MIdx) (acc : BitVec 6)
  | mdrain (i : MIdx) (acc td : BitVec 6) (c0 : BitVec 10) (r : RSel) (ar : Bool) (tag : BitVec 12) (q : Bool)
      (qs : BitVec 6)
  | msumrow (i : MIdx) (b : Bool) (acc ta : BitVec 6) (wg : BitVec 9)
  | macc (i : MIdx) (mode : BitVec 2) (acc ta acc2 : BitVec 6)
  | mloop (i : MIdx) (cnt : BitVec 12) (last : BitVec 9)
  | mwaitt (i : MIdx) (ta : BitVec 6) (first cm : BitVec 7)
  | mwaitb (i : MIdx) (hh : BitVec 5) (idx : BitVec 16) (ph : Bool)
  | msets (i : MIdx) (tsa tsb : Word32)
  | mend
  -- decode, traps and machine checks
  | decodeBundle
  | loopCountExpiry
  | preemptionOverrun
  | trapEntry
  | machineCheck
  | stopTaken
  | timedInstructionLate
  | signalLands
  -- the handle unit, tiles, reports and atomics
  | handleResolution
  | tileChunkLands
  | faultRecordPost
  | reportLands
  | atomicApply
  | acquireComplete
  | writebackRetry
  -- segments and detected errors
  | segmentEntry
  | compareMismatch
  | residueMismatch
  | arrayEccError
  | queueEntryLands
  -- the sequencer and the transform units
  | routineEnd
  | microLoopExit
  | transformBeat
  | xexpBlockLands
  -- leaving a core
  | yieldRelease
  | streamRetire
  -- engines
  | jobStart
  | jobComplete
  | chainCardRead
  | collectiveStep
  | haloDelivery
  | stepLoadRetest
  | fqresume
  | fqabort
  | coreres
  -- launches
  | csprodWrite
  | admission
  | launchLoad
  | coreStart
  | stopreq
  | releaseWrite
  | gangHoldSend
  | gangAbort
  | rendezvousHold
  -- the fabric
  | portTraining
  | scheduledFlitArrival
  | flitForward
  | readRequest
  | readResponse
  | writeBackData
  | atomicRequest
  | atomicResponse
  | acquireRequest
  | acquireResponse
  | viewUpdate
  | forwardedResolution
  | endToEndAcknowledgement
  | e2eAckSend
  | marker
  | markerAckSend
  | nakReceived
  | linkReplayResend
  | linkAcknowledgement
  | e2eTimerExpiry
  | portFail
  | controlFlit
  | hold
  | gangAbortMessage
  | ready
  | markerAcknowledgement
  | errorReport
  | frameTableWrite
  | portMapWrite
  | portStateWrite
  | portEnWrite
  -- the object manager
  | mgo
  | moveExtent
  | msput
  | mpput
  -- the jack trigger
  | jcycWrite
  | jackTrigger
  -- coolant
  | sensorSample
  | zoneFill
  | zoneDrain
  | zoneOff
  | zoneClear
  | fillTimeout
  | drainStepComplete
  | drainStepTimeout
  | allocWrite
  | minfWrite
  | regulatorStep
  | railFault
  -- reset, host and attestation
  | packageReset
  | garmWrite
  | gsyncEdge
  | rstreq
  | hprodWrite
  | dconsWrite
  | bulkAccess
  | spdmRequest
  | rsplenWrite
  -- the crypto engine, measurements and fuses
  | sha384
  | ed25519Verify
  | mlDsa65Verify
  | signWithDeviceKey
  | devicePublicKey
  | extendMeasurementRegister
  | randomBytes
  | cryptoCommandComplete
  | kext
  | kextComplete
  | mlockWrite
  | lcadv
  | svnadv
  | lcsWrite
  | dbgenWrite
  | registerWrite
  -- the link's slot, idle flits, the system cores' start
  | flitSlotSend
  | idleFlitArrival
  | systemCoreStart
  deriving DecidableEq, Repr

end Sys2Proof
end

