-- ==== Sys2Proof/Config.lean ====
section
/-! DEFINITION. What the manual leaves open, as constants without a body: nothing in Lean can evaluate them or prove a
value of them. Each is applied to the clock tick and to a key of the place that asks, so that every use is a value of
its own. Named in the assumption log. -/

namespace Sys2Proof

/-- A free latency: how many cycles beyond the least one the manual gives an asynchronous operation takes, at a tick,
for a key (R271, R326, R344, R425 and the other ranges of cycles). -/
opaque Config.delay : Nat → Nat → Nat

/-- A free choice among the values that a cross-slot read may return (R100): the tick, the slot, the register key. -/
opaque Config.pick : Nat → Nat → Nat → Nat

/-- A free 64-bit word for a byte or word the manual leaves without a value: the tick and a key. -/
opaque Config.word : Nat → Nat → BitVec 64

/-- A byte of the entropy source (R527, op 7): the tick and the byte's place. -/
opaque Config.entropy : Nat → Nat → BitVec 8

/-- Whether an Ed25519 signature verifies (RFC 8032, pure): message, public key, signature. -/
opaque Config.ed25519Verify : List Byte → List Byte → List Byte → Bool

/-- Whether an ML-DSA-65 signature verifies (FIPS 204, pure, empty context): message, public key, signature. -/
opaque Config.mlDsa65Verify : List Byte → List Byte → List Byte → Bool

/-- The Ed25519 signature (RFC 8032) of a message under a private key seed: seed, message. -/
opaque Config.ed25519Sign : List Byte → List Byte → List Byte

/-- The hedged ML-DSA-65 signature (FIPS 204) of a message: key-generation seed, random input, message. -/
opaque Config.mlDsa65Sign : List Byte → List Byte → List Byte → List Byte

/-- The Ed25519 public key of a private key seed (RFC 8032). -/
opaque Config.ed25519Public : List Byte → List Byte

/-- The ML-DSA-65 public key of a key-generation seed (FIPS 204). -/
opaque Config.mlDsa65Public : List Byte → List Byte

end Sys2Proof
end

