-- ==== Sys2Proof/Machine/Tbl.lean ====
section
/-! DEFINITION. Sparse tables: a list of (key, value) pairs with keys strictly rising and no entry equal to what an
unlisted key reads as. Memories, scratchpads and register files are such tables. -/

namespace Sys2Proof.Machine

/-- A table keyed by natural numbers. -/
abbrev Tbl (α : Type) := List (Nat × α)

/-- What key k reads as, d being what an unlisted key reads as. -/
def tblGet {α : Type} (d : α) (t : Tbl α) (k : Nat) : α :=
  match t with
  | [] => d
  | (j, v) :: r => if j = k then v else tblGet d r k

/-- The entry of key k, if it is listed. -/
def tblFind {α : Type} (t : Tbl α) (k : Nat) : Option α :=
  match t with
  | [] => none
  | (j, v) :: r => if j = k then some v else tblFind r k

/-- The table without key k. -/
def tblDel {α : Type} (t : Tbl α) (k : Nat) : Tbl α :=
  match t with
  | [] => []
  | (j, v) :: r => if j = k then tblDel r k else (j, v) :: tblDel r k

/-- Inserts an entry before the first key above its own. -/
def tblIns {α : Type} (t : Tbl α) (k : Nat) (v : α) : Tbl α :=
  match t with
  | [] => [(k, v)]
  | (j, w) :: r => if k < j then (k, v) :: (j, w) :: r else (j, w) :: tblIns r k v

/-- Writes key k, listing the entry whatever its value. -/
def tblPut {α : Type} (t : Tbl α) (k : Nat) (v : α) : Tbl α := tblIns (tblDel t k) k v

/-- Writes key k in the canonical form: an entry equal to the default is not listed. -/
def tblSet {α : Type} [DecidableEq α] (d : α) (t : Tbl α) (k : Nat) (v : α) : Tbl α :=
  if v = d then tblDel t k else tblPut t k v

/-- The keys rise strictly from above lo, and no listed value is the default. -/
def tblWfFrom {α : Type} [DecidableEq α] (d : α) : Option Nat → Tbl α → Bool
  | _, [] => true
  | lo, (k, v) :: r =>
    (match lo with | none => true | some l => decide (l < k)) && decide (v ≠ d) && tblWfFrom d (some k) r

/-- The canonical form of a table whose unlisted keys read as d. -/
def tblWf {α : Type} [DecidableEq α] (d : α) (t : Tbl α) : Bool := tblWfFrom d none t

end Sys2Proof.Machine
end

