-- ==== Sys2Proof/Machine/State.lean ====
section
/-! DEFINITION. The state of one NZ960 package, as plain data: the clock, 449 cores (384 compute, 64 system, 1 root),
the units of the four compute dies, physical memory, the fabric ports, the coolant zones, the host link, the crypto
engine, measurements and fuses. Fields marked MODEL are the model's own bookkeeping and not the manual's. -/

namespace Sys2Proof.Machine

/-- A byte-addressed memory: canonical cells of Host.Cell (strictly rising, no zero listed). -/
abbrev Mem := List Host.Cell

/-- The form of Mem: addresses strictly rising and no listed byte equal to what an unlisted address reads as, zero. -/
abbrev Memory.wf (m : Mem) : Bool := tblWf (0 : Byte) m

/-- A fabric flit (R447): the fields of its header beat, and the payload. -/
structure Flit where
  crc : BitVec 32
  dpkg : BitVec 12
  ddie : BitVec 2
  dcore : BitVec 7
  cls  : BitVec 2
  kind : BitVec 4
  seq  : BitVec 24
  oslot : BitVec 11
  rp   : Bool
  spkg : BitVec 12
  sdie : BitVec 2
  nv   : Bool
  nslot : BitVec 11
  csrc : BitVec 3
  ccnt : BitVec 4
  payload : BitVec 1024
  deriving DecidableEq, Repr

/-- One sensor sample of one zone (R510, R511), with the leak sensor and the rail reading in mV. -/
structure ZoneSample where
  tin : BitVec 16
  tout : BitVec 16
  flow : BitVec 16
  tj : BitVec 16
  press : BitVec 16
  leak : Bool
  deriving DecidableEq, Repr


/-- What the cause of an event knows (the flit that arrived, the value written to a register, the request, job or launch
concerned, the samples of the sensors). mv: the object on whose move the event waits (R401). MODEL: the arguments of the events of the
table. -/
structure Ev where
  core : Nat
  die : Nat
  id : Nat
  n : Nat
  port : Nat
  slot : Nat
  tile : BitVec 6
  flag : Bool
  flag2 : Bool
  code : BitVec 16
  w : Word
  w2 : Word
  flit : Option Flit
  bytes : List Byte
  samples : List ZoneSample
  mv : Option Nat
  deriving DecidableEq, Repr

/-- No arguments. -/
def Ev.none : Ev :=
  { core := 0, die := 0, id := 0, n := 0, port := 0, slot := 0, tile := 0, flag := false, flag2 := false, code := 0,
    w := 0, w2 := 0, flit := Option.none, bytes := [], samples := [], mv := Option.none }

/-! ## The core -/

/-- Who owns the bits of a tile that are still to come (R37). MODEL: the manual names the producer, not its record. -/
inductive Producer where
  | none
  | request (id : Nat)
  | fabric
  | ring
  | drain
  | transform
  | tmov
  | job (die id : Nat)
  | report
  deriving DecidableEq, Repr

/-- A tile descriptor (R34, R36): control word, completion map, poison map. MODEL: the producer, whether the first read still has to compare seq with exp (R38), the sub-block map of R302 and R307, whether the
producer was armed in the open segment (R497), and the next arriving flit sets seq (R307). -/
structure Tile where
  ctl  : Word
  map  : BitVec 128
  pois : BitVec 128
  prod : Producer
  cmp  : Bool
  sub  : BitVec 512
  inSeg : Bool
  seqNext : Bool
  deriving DecidableEq, Repr

/-- The launch value of a tile descriptor (R25). -/
def Tile.reset : Tile :=
  { ctl := 0, map := 0, pois := 0, prod := .none, cmp := false, sub := 0, inSeg := false, seqNext := false }

/-- A register write on its way (R94). Vector and predicate writes carry the lanes they touch. The Bool names the
stream whose copy is written: true for the secondary (R59). -/
inductive RegWrite where
  | s (sec : Bool) (i : Nat) (v : Word)
  | v (i : Nat) (lanes : PReg) (val : VReg)
  | p (i : Nat) (lanes : PReg) (val : PReg)
  | h (i : Nat) (v : Word)
  | g (sec : Bool) (gg w : Nat) (v : Word)
  | t (i w : Nat) (v : Word)
  | arm (i : Nat) (p : Producer) (seq : Option (BitVec 12)) (seqNext : Bool)
  | clearBits (i : Nat) (bits : BitVec 128)
  | mp (i : Nat) (v : Word)
  | link (sec : Bool) (v : Word)
  | fmt (sec : Bool) (v : Word32)
  | xratio (q : BitVec 16)
  | cr (sec : Bool) (n : Nat) (v : Word)
  deriving DecidableEq, Repr

/-- A register write in flight: the tick at which it lands, the bundle's age, the slot and the stream that issued it (R94, R96,
R107). -/
structure Landing where
  due : Nat
  age : Nat
  slot : Nat
  sec : Bool
  w : RegWrite
  deriving DecidableEq, Repr

/-- A scratchpad sample or another read that a unit makes at its fixed cycle. -/
inductive Sample where
  | lds (sec : Bool) (rd addr nb : Nat) (sx : Bool)
  | vld (vd addr n : Nat) (g : PReg) (gz : Bool)
  | vgath (vd nb : Nat) (sx : Bool) (g : PReg) (gz : Bool) (accs : List (Nat × Nat))
  | sttRow (req lo hi : Nat)
  | tmov (out : Bool) (tile : Nat) (ctl : Word) (lo hi : Nat) (rows : List Nat)
  | card (job : Nat)
  | otw (addr : Nat) (identity : Word)
  | stp (addr nb : Nat) (pa : Nat)
  | keyw (addr slot : Nat) (tag : BitVec 16)
  | rput (lane : Nat) (ccw : Bool) (addr : Nat)
  | pfxlook (req addr n : Nat)
  | fsend (port id addr : Nat) (tag : BitVec 12) (ent : Word)
  deriving DecidableEq, Repr

/-- A sample due at a tick; its register result lands at the tick land, or, where a trap has withheld it (R104), at that
distance from redispatch. age and slot order its landing (R96). -/
structure PendSample where
  due : Nat
  land : Nat
  held : Bool
  age : Nat
  slot : Nat
  sec : Bool
  k : Sample
  deriving DecidableEq, Repr

/-- A write to a scratchpad at its fixed cycle. ring, fabric, arrival, drain, beat and slot are the groups of R351. -/
inductive StoreKind where
  | bytes (addr : Nat) (data : List Byte)
  | cells (cs : List (Nat × List Byte))
  | amos (sec : Bool) (rd addr nb : Nat) (op : AmosOp) (b c : Word) (land : Nat) (held : Bool)
  | comb (tile : BitVec 6) (sub : Nat) (addr : Nat) (op : CombOp) (mode : RSel) (fmt : Word32) (last : Bool) (data : List Byte)
  | tileBits (tile : BitVec 6) (bits : BitVec 128)
  | subBlock (tile : BitVec 6) (sub : Nat) (addr : Nat) (tag : Option Nat) (data : List Byte)
  | bits (l : List (Nat × Nat × Nat × Nat))
  deriving DecidableEq, Repr

/-- A pending store: due tick, group of R351, order within the group, the stream of a slot's write (R107), what it writes. -/
structure Store where
  due : Nat
  group : Nat
  order : Nat
  sec : Bool
  k : StoreKind
  deriving DecidableEq, Repr

/-- A bundle dispatched into the nine slot queues (R90, R106). MODEL: for a merged bundle both offsets are given and
secMask says which slots hold the secondary stream's fields, done
which slots had issued the bundle before a trap (R104), entry whether a segment begins at it (R495), halt whether its
HALT has issued and its stream has not retired (R179), pre each stream's loop
stack and lsp before decode acted on it (R496). -/
structure Disp where
  bits : Bundle
  pri : Option Nat
  sec : Option Nat
  secMask : BitVec 9
  done : BitVec 9
  lit : Bool
  secLit : Bool
  tick : Nat
  age : Nat
  entry : Bool
  halt : Bool
  pre : List (Tbl Word × Nat)
  deriving DecidableEq, Repr

/-- Why decode does not dispatch the next bundle of a stream (R91, R170, R426). -/
inductive Hold where
  | none
  | ctl
  | ps
  | until (tick : Nat)
  | ended
  deriving DecidableEq, Repr

/-- A precise fault that decode met, taken once every slot has issued every earlier bundle (R69, R73). -/
structure DecFault where
  cause : Nat
  slot : Nat
  info : Word
  off : Nat
  deriving DecidableEq, Repr

/-- The state of one code stream: the registers that R59 gives each stream, and its decoder's position. endId and endAge are the
next number of the package and the bundle's age when its HALT or last YIELD issued.
pend: LOOPs whose count is still to be read, and the last body bundle's loop test left pending (R170). -/
structure Strm where
  s : Tbl Word
  g : Tbl Word
  fmt : Word32
  link : Word
  loops : Tbl Word
  lsp : Nat
  pcbase : Nat
  segbase : Nat
  live : Bool
  halted : Bool
  yielded : Bool
  next : Nat
  hold : Hold
  half : Bool
  segNext : Bool
  endId : Nat
  endAge : Nat
  fault : Option DecFault
  deriving DecidableEq, Repr

/-- The launch value of a stream's registers (R25, R45). -/
def Strm.reset : Strm :=
  { s := [], g := [], fmt := 0x11004000#32, link := 0, loops := [], lsp := 0, pcbase := 0, segbase := 0, live := false,
    halted := false, yielded := false, next := 0, hold := .none, half := false, segNext := false,
    endId := 0, endAge := 0, fault := none }

/-- A micro-loop entry (R232). -/
structure MLoopEnt where
  count : Nat
  index : Nat
  stop : Nat
  start : Nat
  deriving DecidableEq, Repr

/-- When each byte of a read that R252 or R254 leaves open is sampled: in some cycle from the reader's start to a last one,
or, for a transform, to the cycle before the first beat whose output depends on the byte. For conv and trn: the first beat, the
cycles from beat to beat, the tile's base, row bytes and element width of the source, those of the destination, and for conv whether a whole block of
32 decides each element. -/
inductive Window where
  | upTo (last : Nat)
  | conv (first gap base rb w rbd wd : Nat) (blk : Bool)
  | trn (first gap base rb w rbd wd : Nat)
  deriving DecidableEq, Repr

/-- A reader whose bytes are sampled at free cycles of its window (R252, R254): the scratchpad as it sees it. MODEL. -/
structure Reader where
  key : Nat
  start : Nat
  win : Window
  mem : Mem
  deriving DecidableEq, Repr

/-- A micro-operation that has started and not completed (R251). MODEL: what it writes at its last occupied cycle, from the
operands formed under R236 and the descriptors it met. -/
inductive MicroWork where
  | mma (scaled : Bool) (acc : Nat) (ta : Word) (wg ka kb n : Nat) (st : Word) (sacc : Nat)
  | mldw (ts : Word) (wg form : Nat) (sc : Bool) (k : Nat)
  | mzero (acc : Nat)
  | mdrain (acc : Nat) (td : BitVec 6) (ctl : Word) (c0 : Nat) (mode : RSel) (tsa tsb : Word32) (qs : Option Word)
  | msumA (acc : Nat) (ta : Word)
  | msumB (acc wg : Nat)
  | maccA (acc acc2 : Nat)
  | maccT (load : Bool) (acc : Nat) (ta : Word)
  deriving DecidableEq, Repr

/-- A micro-operation in flight: its work, its last occupied cycle and its completion, the accumulators and weight-buffer
byte ranges (first, count) it reads and writes, and its reader. -/
structure Fly where
  work : MicroWork
  last : Nat
  done : Nat
  rAcc : List Nat
  wAcc : List Nat
  rWb : List (Nat × Nat)
  wWb : List (Nat × Nat)
  mma : Bool
  key : Nat
  deriving DecidableEq, Repr

/-- An MLDSTORE whose entries are being sampled (R230): its reader, first micro-address, count, tile base and last cycle. -/
structure StoreLoad where
  key : Nat
  ua : Nat
  n : Nat
  base : Nat
  last : Nat
  deriving DecidableEq, Repr

/-- The matrix sequencer (R227, R232): the micro-state and the parameter latch. MODEL: whether the secondary stream or a
handler started the routine, the level at which an MCALLW holds MX, the first cycle in which the next micro-operation may
start, the cycle MEND started, what is in flight, the first free cycle of each unit, an MLDSTORE in progress, the barrier
wait's request, and whether it is stopped before a waiting micro-operation (R253). -/
structure Sequencer where
  fmts : Word32
  state : Nat
  upc : Nat
  tsa : Word32
  tsb : Word32
  loops : List MLoopEnt
  latch : Tbl Word
  bySec : Bool
  byHandler : Bool
  hold : Option Nat
  nextStart : Nat
  mend : Option Nat
  fly : List Fly
  arrayFree : Nat
  fillFree : Nat
  accFree : Nat
  drainFree : Nat
  load : Option StoreLoad
  req : Option Nat
  waiting : Bool
  deriving DecidableEq, Repr

/-- The sequencer as a launch leaves it (R228): idle, tsa and tsb 1.0. -/
def Sequencer.reset : Sequencer :=
  { fmts := 0, state := 0, upc := 0, tsa := 0x3F800000#32, tsb := 0x3F800000#32, loops := [], latch := [],
    bySec := false, byHandler := false, hold := none, nextStart := 0, mend := none, fly := [], arrayFree := 0,
    fillFree := 0, accFree := 0, drainFree := 0, load := none, req := none, waiting := false }

/-- A transform in progress (R254 to R257): the instruction, its tiles' control words at issue, the rounding it met, the
state of seedxf before its draws, the cycles from beat to beat (R518) and its reader. -/
structure XfJob where
  key : Nat
  instr : Instr
  ta : Word
  td : Word
  td1 : Word
  mode : RSel
  fmt : Word32
  seed : Word
  gap : Nat
  deriving DecidableEq, Repr

/-- An XEXP whose blocks land (R260, R261): the decoded blocks still to land. -/
structure ExpJob where
  key : Nat
  blocks : List (BitVec 4096)
  deriving DecidableEq, Repr

/-- The architected state of a core that a segment records at its entry and a rewind restores (R496). -/
structure Arch where
  pri : Strm
  sec : Strm
  secOn : Bool
  v : Tbl VReg
  p : Tbl PReg
  acc : Tbl AccTile
  tiles : Tbl Tile
  h : Tbl Word
  mp : Tbl Word
  xratio : BitVec 16
  seeds : Tbl Word
  seq : Sequencer
  fifo : List (BitVec 4096)
  scratch : Mem
  wbuf : Mem
  deriving DecidableEq, Repr

/-- Launch values of the registers of R25 and R45. -/
def Arch.reset : Arch :=
  { pri := Strm.reset, sec := Strm.reset, secOn := false, v := [], p := [], acc := [], tiles := [], h := [], mp := [],
    xratio := 0x0100#16, seeds := [], seq := Sequencer.reset, fifo := [], scratch := [], wbuf := [] }

/-- A trap being raised (R313, R314, R316). wait: a held fault that waits for a KRET (R231, R265, R320). -/
structure Trap where
  cause : Nat
  slot : Nat
  sec : Bool
  off : Nat
  info0 : Word
  info1 : Word
  info2 : Word
  info3 : Word
  late : Bool
  rt : Bool
  age : Nat
  wait : Bool
  deriving DecidableEq, Repr

/-- A pending asynchronous trap (R21): its cause and information words, in arrival order. -/
structure Pend where
  cause : Nat
  info0 : Word
  info2 : Word
  info3 : Word
  deriving DecidableEq, Repr

/-- An entry of an inbound queue (R296): its reservation ticket, its value once landed, the tick it landed in, and the tick
of the QGET that removed it, whose position counts as held in that cycle (R297). -/
structure QEntry where
  ticket : Nat
  value : Option Word
  landed : Nat
  taken : Option Nat
  deriving DecidableEq, Repr

/-- An effect of R268 that waits for its segment to commit. -/
inductive Leaving where
  | qput (target : Nat) (q : BitVec 3) (ticket : Nat) (value : Word)
  | request (id : Nat)
  | job (die id : Nat)
  | marker (id : Nat) (tile : BitVec 6) (chunk : Nat) (pkg : BitVec 12)
  deriving DecidableEq, Repr

/-- A flit that a receive still expects: logical port, tick at which its slot begins, sub-block. -/
structure RecvSlot where
  port : Nat
  at_ : Nat
  sub : Nat
  deriving DecidableEq, Repr

/-- An FRECV or FRECVA in progress: its tile, the flits still to come, whether it armed the tile, and how they combine. -/
structure Recv where
  tile : BitVec 6
  slots : List RecvSlot
  arms : Bool
  comb : Option (CombOp × RSel × Word32)
  deriving DecidableEq, Repr

/-- What a core is doing. -/
inductive Run where
  | free
  | loading
  | running
  | machineChecked
  | stopped
  | yielding
  deriving DecidableEq, Repr

/-- The marionette's copies (R58): csw, the control state of the primary stream and the dispatch queue, two cycles behind the
primary's, and the words of the commit signature that it forms of that cycle (R490). MODEL: due, the cycle at which the
marionette reaches the state. -/
structure Shadow where
  due : Nat
  csw : Word
  pcbase : Nat
  segbase : Nat
  loops : Tbl Word
  link : Word
  s : Tbl Word
  g : Tbl Word
  queue : List Disp
  pos : List Nat
  issues : List (Nat × Nat × Bool)
  sigWords : List (Nat × Word)
  deriving DecidableEq, Repr

/-- One core. The fields of arch are those a segment records; undo is their record at the entry of the open segment,
kept current under R497. waiting, waiting2: csw.wait of each stream; shadows: the marionette's copies, and those it reaches in the
next two cycles; dropAge: results of bundles of a lower age no longer land (R105). gangWait: a gang core's first rendezvous has still to issue (R439); away: for each handler entered,
whether each stream was live and had yielded; sends: the numbers of the FSEND flits that the link has not acknowledged;
syncs: the tile, chunk and bound of each FCTL.sync that waits for them; born: the next number of the package when the core was last freed or
loaded, below which a request is an earlier occupant's. -/
structure Core where
  run : Run
  level : BitVec 2
  mode : Bool
  ie : Bool
  intrap : Bool
  arch : Arch
  undo : Arch
  stopS : Bool
  stopWhy : BitVec 8
  stopCount : Option Nat
  pbound : Word32
  lbound : Word32
  ktvb : Word
  dom : BitVec 16
  htb : Word
  trapinfo : Tbl Word
  dict : Tbl Bundle
  ustore : Tbl MicroWord
  phys : List (Nat × Nat)
  codeImg : Mem
  imgLen : Nat
  issueFrom : Nat
  hstore : Tbl Word
  hcount : Nat
  hReload : Nat
  queue : List Disp
  pos : List Nat
  waiting : BitVec 9
  waiting2 : BitVec 9
  dropAge : Nat
  shadows : List Shadow
  age : Nat
  secWait : Nat
  alignHist : List (Nat × Nat × Nat)
  landing : List Landing
  withheld : List Landing
  samples : List PendSample
  stores : List Store
  readers : List Reader
  xfTrn : Nat
  xfCvt : Nat
  xfExp : Nat
  xfJobs : List XfJob
  expJobs : List ExpJob
  fifoPop : Nat
  memHold : Option Nat
  slotHold : List (Nat × Nat)
  reports : Tbl Nat
  inq : Tbl (List QEntry)
  sigRes : Nat
  pend : List Pend
  ptrap : Option Trap
  rewAsk : Option (Option (Nat × Nat))
  lateHeld : List Trap
  rtHeld : Option Trap
  rtDue : Option (Nat × Trap)
  segPause : Bool
  lastIssue : Nat
  endSeg : Bool
  appPath : List Disp
  segOpen : Bool
  segNew : Bool
  segAge : Nat
  undoStores : List Store
  issues : List (Nat × Nat × Bool)
  sigWords : List (Nat × Word)
  undoV : List Nat
  undoA : List Nat
  undoG : List Nat
  undoW : List Nat
  noRewind : Bool
  heldStt : List Nat
  leaving : List Leaving
  rewinds : Nat
  place : Option (Word32 × Nat)
  rewound : Bool
  gangWait : Bool
  away : List ((Bool × Bool) × (Bool × Bool))
  nrv : Option Word
  rvDone : Bool
  holdShift : Nat
  sends : List Nat
  syncs : List (BitVec 6 × Nat × Nat)
  recvs : List Recv
  statLate : Word
  statReplay : Word
  statSched : Word
  statLast : Word
  launch : Option Nat
  icore : Nat
  born : Nat
  named : List (Nat × Nat × Nat)
  waitReq : Option Nat
  memReq : Option Nat
  deriving DecidableEq, Repr

/-- A core at package reset: free, at its launch values; ie is 1 (R46). -/
def Core.reset : Core :=
  { run := .free, level := 0, mode := false, ie := true, intrap := false, arch := Arch.reset, undo := Arch.reset,
    stopS := false, stopWhy := 0, stopCount := none, pbound := 0, lbound := 0, ktvb := 0, dom := 0, htb := 0,
    trapinfo := [], dict := [], ustore := [], phys := [], codeImg := [], imgLen := 0, issueFrom := 0, hstore := [],
    hcount := 0, hReload := 0, queue := [], pos := List.replicate 9 0, waiting := 0, waiting2 := 0, dropAge := 0, shadows := [], age := 0, secWait := 0, alignHist := [], landing := [], withheld := [],
    samples := [], stores := [], readers := [], xfTrn := 0, xfCvt := 0, xfExp := 0, xfJobs := [], expJobs := [], fifoPop := 0, memHold := none,
    slotHold := [], reports := [], inq := [], sigRes := 0, pend := [], ptrap := none, rewAsk := none, lateHeld := [],
    rtHeld := none, rtDue := none, segPause := false, lastIssue := 0, endSeg := false,
    appPath := [], segOpen := false, segNew := false, segAge := 0, undoStores := [], issues := [], sigWords := [], undoV := [], undoA := [], undoG := [], undoW := [],
    noRewind := false, heldStt := [], leaving := [], rewinds := 0, place := none, rewound := false, gangWait := false, away := [],
    nrv := none, rvDone := false, holdShift := 0, sends := [], syncs := [], recvs := [], statLate := 0, statReplay := 0,
    statSched := 0, statLast := 0, launch := none, icore := 0, born := 0, named := [], waitReq := none, memReq := none }

/-! ## The dies -/

/-- What a request to the handle unit does once it is resolved. -/
inductive ReqOp where
  | ldt (spec : Bool) (step : Option (Word32 × Bool)) (tile : BitVec 6)
  | stt (tile : BitVec 6)
  | pft
  | amo (op : AmoOp) (w64 nr : Bool) (off a b : Word) (tile : BitVec 6) (word : Nat)
  | acqv (sc : Scope) (ver : Word) (tile : BitVec 6) (chunk : Nat)
  | relv (sc : Scope) (ver : Word)
  | bari (elem : Word) (bytes : Word) (n : Nat)
  | bara (bytes poison : Bool) (elem sy : Word)
  | waitb (elem : Word) (ph : Bool)
  | mwaitb (elem : Word) (ph : Bool)
  | pfxlook (sh : Bool) (tile : BitVec 6) (hashes : List Word) (pos : Word)
  | ctxsave (sx sy : Word)
  | ctxrest (sx sy : Word)
  | ldp (pa nb addr : Nat)
  | stp (pa nb addr : Nat) (data : List Byte)
  | tlbi (kind : Nat) (pkg : Bool) (identity off : Word) (n : Nat)
  | oti (identity : Word)
  | ota (identity : Word) (attrs : BitVec 2)
  | fetch
  | entry
  | depb (elem : Word) (ph : Bool)
  | jobRead
  | jobWrite
  | halo (phase slot step ord : Nat)
  deriving DecidableEq, Repr

/-- Where a request stands. -/
inductive ReqSt where
  | held
  | issued
  | parked (token : Word)
  | waitMv
  | stepWait
  | farWait
  | landing
  | atUnit
  | remote
  | answered (w : Word)
  | failed (cause : Nat)
  | ended
  | resolvedDetached
  | abortedDetached
  deriving DecidableEq, Repr

/-- A record for a fault ring that has not been posted (R345). -/
structure FRec where
  kind : Nat
  code : Nat
  unit : Nat
  num : Nat
  die : Nat
  handle : Word
  off : Word
  prog : Word
  token : Word
  src : Word
  deriving DecidableEq, Repr

/-- The engine job that a request serves: its die and number, the unit and src fields of its records (R345), and for the
poisoning of a failed job's barrier, poison, and the record to post behind it (R344). -/
structure Eng where
  die : Nat
  job : Nat
  unit : Nat
  num : Nat
  src : Word
  poison : Bool
  fail : Option FRec
  deriving DecidableEq, Repr

/-- A request to the handle unit on behalf of a core or an engine (R264, R342, R393). elems pairs each tile element
number with the object element it names (R266); data holds the elements' codes of a store. MODEL, for a request that another
package answers (R393): the elements it found not resident, the failure it reported with its byte offset, the answers still
to come, the 128-byte lines of a read whose answers are still to come, each with the bits that its request asks for, and the chunks or
elements that came poisoned. -/
structure Req where
  id : Nat
  core : Nat
  sec : Bool
  off : Nat
  handler : Bool
  die : Nat
  dom : BitVec 16
  handle : Word
  op : ReqOp
  w : Nat
  elems : List (Nat × Int)
  data : List (Nat × Word32)
  left : List Nat
  ready : Nat
  rdAt : Option (Nat × Nat)
  st : ReqSt
  eng : Option Eng
  det : Option (Nat × Nat)
  miss : List (Nat × Int)
  bad : Option (Nat × Nat)
  asks : Nat
  want : List (Nat × Nat × Nat)
  bads : List Nat
  deriving DecidableEq, Repr

/-- The states of a job (R423). -/
inductive JobSt where
  | accepting | accepted | waiting | ready | running | parked (token : Word) | done | resolvedDetached | abortedDetached
  deriving DecidableEq, Repr

/-- An engine job (R285, R286, R423): its card, the issuer's domain, handle store, fmt.rm, fmt.sat and fmt.ftz at issue, the handle and
byte offset a parked one waits at, the
jobs it waits for, its unit's number, the bytes it has written, the destination chunks that met poison, the elements
read or the codes still to land, its cursor. MODEL: for a chain the next card and the card now run, the reader and the bases of its source and index
tiles, the count of the store, the bounding range of a gather's source, how far a chain's card is (1 its copy is done, 2 its word 0 is
being written), and for a collective its group entry (words), the bytes received of the incoming segments, and whether one is being
applied (phase 1). -/
structure Job where
  id : Nat
  core : Nat
  sec : Bool
  off : Nat
  tile : BitVec 6
  kind : Nat
  card : List Word
  dom : BitVec 16
  store : Tbl Word
  mode : Nat
  sat : Bool
  ftz : Bool
  st : JobSt
  accTick : Nat
  edges : List Nat
  chan : Nat
  done : Nat
  pois : BitVec 128
  reads : List (Nat × Word32)
  bads : List Nat
  step : Nat
  arrived : Bool
  nxt : Nat × Nat
  words : List Word
  key : Nat
  sbase : Nat
  ibase : Nat
  cnt : Nat
  inb : List Byte
  wait : Word
  woff : Nat
  span : Int × Int
  phase : Nat
  det : Option (Nat × Nat)
  deriving DecidableEq, Repr

/-- A 512-byte line of an object cache (R369): the object, the stored block, which bytes the die has written, their
values, and the attributes and layout generation of its tag. A line that is full holds a copy of the whole block beside the
written bytes. ent: the table entry that came with the object of another package (R393), else nothing. -/
structure Line where
  obj : Nat
  shard : Nat
  blk : Nat
  mask : BitVec 512
  data : BitVec 4096
  full : Bool
  attr : Nat
  lgen : Nat
  ent : List Word
  deriving DecidableEq, Repr

/-- A version view of one object: the version and the holding dies (R362). -/
structure View where
  obj : Nat
  ver : Word
  hold : BitVec 4
  deriving DecidableEq, Repr

/-- One translation (R394): home package and index, layout generation, shard, extent, the extent entry's words. -/
structure Xlat where
  obj : Nat
  lgen : BitVec 4
  shard : Nat
  ext : Nat
  w0 : Word
  w1 : Word
  deriving DecidableEq, Repr

/-- A launch that the command stream has admitted (R416 to R419): its record's address and words, its cores with their image
core numbers, its start cycle once its load has ended, the grant of each cluster (R517), the frame-table entries it
fills (R450), and the status of each core freed (R417). -/
structure Launch where
  id : Nat
  recPa : Nat
  words : List Word
  cores : List (Nat × Nat)
  start : Word
  loaded : Bool
  started : Bool
  grants : List (Nat × Nat)
  frames : List Nat
  finals : List Nat
  deriving DecidableEq, Repr

/-- A linked image or a context image of another package that a command stream or a restore reads (R393, R411, R435): the words of
its launch record, the handle and domain, for a context the offsets of primary and mirror, the request now out, how many parts have
come, the bytes, the places that came poisoned, whether the read failed, whether all is there. MODEL. -/
structure FarImg where
  words : List Word
  handle : Word
  dom : Nat
  at_ : Option (Nat × Nat)
  req : Nat
  stage : Nat
  mem : Mem
  bads : List Nat
  bad : Bool
  done : Bool
  deriving DecidableEq, Repr

/-- The report of a load that failed its validation (R73, R228): the core, the table (0 dictionary, 1 kernel partition, 2 microprogram
store), the entry's index or micro-address, the slot, and the check's number. -/
structure LoadReport where
  core : Nat
  table : Nat
  entry : Nat
  slot : Nat
  check : Nat
  deriving DecidableEq, Repr

/-- A gang of a die's records (R437 to R440, R505): the holds it has sent and received, those since its last rendezvous, the
sender and frame of each, for each sender that has held in every frame since t the last one (R438), and whether it aborts at the next
frame. -/
structure Gang where
  gang : Nat
  total : Nat
  count : Nat
  heard : List (Nat × Nat)
  chain : List (Nat × Nat)
  abort : Bool
  deriving DecidableEq, Repr

/-- One compute die's units: fault queue (R343), object manager (R402), command stream (R415), error log (R509), object
cache, views, translations (xlats: the last-level TLB, tlbs: the first-level TLB of each ring cluster, R394), requests and jobs. report: the last load that failed its validation (R73, R228). images and
depReqs: what the command stream reads of other packages: images, and the requests for the barriers of waiting records. -/
structure Die where
  fqbase : Word
  fqctl : Word
  fqprod : Word
  fqcons : Word
  recs : List FRec
  mobj : Word
  mext : Word
  mdst : Word
  mstat : Word
  mCur : Nat
  motb : Word
  msstk : Word
  msfree : Word
  mpstk : Word
  mpfree : Word
  mpidx : Word
  mdidx : Word
  csbase : Tbl Word
  csprod : Tbl Word
  cscons : Tbl Word
  kdpa : Word
  kdn : Word
  svcyc : Word
  sv : Tbl Word
  busyCores : List Nat
  launches : List Launch
  gangs : List Gang
  trans : Word
  last : Word
  corr : Word
  pois : Word
  lnext : Word
  ent : Tbl (Word × Word)
  lines : List Line
  views : List View
  pkgViews : List View
  sysViews : List View
  xlats : List Xlat
  tlbs : Tbl (List Xlat)
  rescache : List (Nat × List Word)
  jobs : List Job
  held : List Line
  coll : List (Nat × Nat × List Byte)
  ring : List (Nat × Nat × Nat × BitVec 1024)
  snap : Tbl Word
  report : Option LoadReport
  images : List FarImg
  depReqs : List (List Word × Nat × Nat)
  deriving DecidableEq, Repr

/-- A die at package reset (R343, R402, R415, R509). -/
def Die.reset : Die :=
  { fqbase := 0, fqctl := 0, fqprod := 0, fqcons := 0, recs := [], mobj := 0, mext := 0, mdst := 0, mstat := 0,
    mCur := 0, motb := 0, msstk := 0, msfree := 0, mpstk := 0, mpfree := 0, mpidx := 0, mdidx := 0, csbase := [],
    csprod := [], cscons := [], kdpa := 0, kdn := 0, svcyc := 0, sv := [], busyCores := [], launches := [], gangs := [], trans := 0,
    last := 0, corr := 0, pois := 0, lnext := 0, ent := [], lines := [], views := [], pkgViews := [], sysViews := [],
    xlats := [], tlbs := [], rescache := [], jobs := [], held := [], coll := [], ring := [], snap := [], report := none, images := [], depReqs := [] }

/-! ## The fabric -/

/-- A flit the sender keeps for replay (R455): its slot, the flit, the tick of its last send and how often it was
NAKed without a successful send between (R457), whether it waits for a replay slot and from which tick, and the core and number
of an FSEND's flit. -/
structure Kept where
  oslot : BitVec 11
  flit : Flit
  sent : Nat
  naks : Nat
  waiting : Bool
  ready : Nat
  owner : Option (Nat × Nat)
  deriving DecidableEq, Repr

/-- One physical port (R469) with its credits (R453, R464), kept flits and NAKs (R455): each NAK's slot, the tick from which it
may be sent and that of its first sending. credits: held per source; taken: received since up; gave, owe: returned and still to be
returned; outq: open flits of the transit source and the link die, a transit flit with the port and source whose buffer it holds (R454);
ctlq: control messages; wire: the flit last sent; train: the training flit last sent, its gcyc, package and logical port (R444). -/
structure Port where
  en : Bool
  pmerr : Bool
  state : Nat
  skew : Word32
  lat : BitVec 10
  ppkg : BitVec 12
  pport : BitVec 8
  csent : BitVec 24
  cacc : BitVec 24
  crcerr : Word
  replays : Word
  rxerr : Word
  credits : Tbl Nat
  taken : Tbl Nat
  gave : Tbl Nat
  owe : Tbl Nat
  kept : List Kept
  naks : List (BitVec 11 × Nat × Option Nat)
  badRun : Nat
  outq : List (Nat × Flit × Option (Nat × Nat))
  ctlq : List Word
  wire : Option Flit
  train : Option (Word × Nat × Option Nat)
  deriving DecidableEq, Repr

/-- A physical port at package reset (R469). -/
def Port.reset : Port :=
  { en := false, pmerr := false, state := 0, skew := 0, lat := 0, ppkg := 0, pport := 0, csent := 0, cacc := 0,
    crcerr := 0, replays := 0, rxerr := 0, credits := [], taken := [], gave := [], owe := [], kept := [], naks := [],
    badRun := 0, outq := [], ctlq := [], wire := none, train := none }

/-- An unacknowledged packet of a source endpoint (R458, R460): number, flits, the tick its timer runs from, the path it
last took, expiries, the request it carries, and how many of its flits this send has put out. -/
structure Pkt where
  die : Nat
  dpkg : BitVec 12
  ddie : BitVec 2
  seq : BitVec 24
  flits : List Flit
  sent : Nat
  path : Nat
  expiries : Nat
  req : Option Nat
  next : Nat
  deriving DecidableEq, Repr

/-- A destination endpoint's record of one source endpoint (R459): base, map, packets held for order, last answer due. -/
structure Rx where
  die : Nat
  spkg : BitVec 12
  sdie : BitVec 2
  base : BitVec 24
  map : BitVec 256
  held : List (Nat × Flit)
  deriving DecidableEq, Repr

/-- An FMARK in progress (R309, R462, R463): the core, report tile and chunk, the target, the number below which the core's requests came
before it, the dies that have acknowledged. -/
structure Mark where
  core : Nat
  tile : BitVec 6
  chunk : Nat
  pkg : BitVec 12
  upto : Nat
  acks : BitVec 4
  deriving DecidableEq, Repr

/-- Marker copies received by a die (R463): source, issuing core, last packet number, copies. -/
structure MarkRx where
  die : Nat
  spkg : BitVec 12
  sdie : BitVec 2
  score : BitVec 7
  n : BitVec 24
  copies : Nat
  deriving DecidableEq, Repr

/-! ## Coolant zones -/

/-- One zone of the sluice table (R512), with the valves of R510 and the counts of R515, R518 and R521. -/
structure Zone where
  state : Nat
  clamp : Nat
  leak : Bool
  vpos : BitVec 8
  dstep : Nat
  dflt : Bool
  lk : Bool
  lkStep : Bool
  granted : Nat
  tflow : Nat
  alloc : Nat
  minf : Nat
  ramp : Nat
  tolim : Nat
  tjlim : Nat
  tjcrit : Nat
  dtlim : Nat
  flolo : Nat
  pdry : Nat
  tin : Nat
  tout : Nat
  flow : Nat
  tj : Nat
  press : Nat
  dcyc : BitVec 48
  tst : BitVec 8
  vset : BitVec 16
  volt : Nat
  outlet : Bool
  purge : Bool
  power : Bool
  crossRun : Nat
  runTicks : Nat
  stepTick : Nat
  fromDry : Bool
  deriving DecidableEq, Repr

/-- A zone at package reset (R512). -/
def Zone.reset : Zone :=
  { state := 0, clamp := 0, leak := false, vpos := 0, dstep := 0, dflt := false, lk := false, lkStep := false,
    granted := 0, tflow := 0, alloc := 0, minf := 0, ramp := 0, tolim := 0xFFFF, tjlim := 0xFFFF, tjcrit := 0xFFFF,
    dtlim := 0xFFFF, flolo := 0, pdry := 0, tin := 0, tout := 0, flow := 0, tj := 0, press := 0, dcyc := 0, tst := 0,
    vset := 500, volt := 0, outlet := false, purge := false, power := false, crossRun := 0, runTicks := 0, stepTick := 0,
    fromDry := false }

/-! ## The package -/

/-- A key slot (R339): data key, tweak key, domain tag. -/
structure Key where
  data : BitVec 256
  tweak : BitVec 256
  tag : BitVec 16
  deriving DecidableEq, Repr

/-- The crypto engine (R526), the measurement block (R529 to R531) and the fuses (R533). -/
structure Secure where
  src : Word
  len : Word
  pk : Word
  sig : Word
  dst : Word
  busy : Bool
  res : BitVec 3
  seq : Word32
  meas : Tbl (BitVec 384)
  mlock : BitVec 4
  kbusy : Bool
  kres : BitVec 3
  kcnt : Word32
  devid : BitVec 128
  lc : BitVec 3
  lcs : BitVec 3
  thermo : Word
  uds : BitVec 256
  bked : BitVec 384
  bkml : BitVec 384
  dked : BitVec 384
  dkml : BitVec 384
  lcNext : BitVec 3
  dnonce : BitVec 256
  dnonceSet : Bool
  dbgen : Bool
  seedEd : List Byte
  seedMl : List Byte
  deriving DecidableEq, Repr

/-- The security state before any fuse is blown and any command has run. -/
def Secure.reset : Secure :=
  { src := 0, len := 0, pk := 0, sig := 0, dst := 0, busy := false, res := 0, seq := 0, meas := [], mlock := 0, kbusy := false, kres := 0, kcnt := 0, devid := 0,
    lc := 0, lcs := 0, thermo := 0, uds := 0, bked := 0, bkml := 0, dked := 0, dkml := 0, lcNext := 0, dnonce := 0,
    dnonceSet := false, dbgen := false, seedEd := [], seedMl := [] }

/-- The host port (R538) and the SPDM exchange registers (R574). -/
structure HostPort where
  bstat : BitVec 4
  hbase : Word
  hprod : Word
  hcons : Word
  dbase : Word
  dprod : Word
  dcons : Word
  berr : Word
  bmap : Tbl Word
  garm : Bool
  rqseq : Word
  tp : Bool
  rqlen : Nat
  rspseq : Word
  rqbuf : Mem
  rspbuf : Mem
  sent : List (Bool × List Byte)
  readOut : List Byte
  uncorrectable : Bool
  waiting : List (Bool × List Byte)
  deriving DecidableEq, Repr

/-- The host port at package reset (R538, R574). -/
def HostPort.reset : HostPort :=
  { bstat := 0, hbase := 0, hprod := 0, hcons := 0, dbase := 0, dprod := 0, dcons := 0, berr := 0, bmap := [],
    garm := false, rqseq := 0, tp := false, rqlen := 0, rspseq := 0, rqbuf := [], rspbuf := [], sent := [],
    readOut := [], uncorrectable := false, waiting := [] }

/-- Who acts in a step: the core, the stream, the slot, the code offset of the bundle, its age and its
place in the queue. MODEL. -/
structure Ctx where
  core : Nat
  sec : Bool
  slot : Nat
  off : Nat
  age : Nat
  idx : Nat
  lit : Bool
  deriving DecidableEq, Repr

/-- An event of the device or of the world outside it, its arguments and the tick at which it happens. MODEL. -/
structure Event where
  due : Nat
  instr : Instr
  ev : Ev
  deriving DecidableEq, Repr

/-- What is still to be done in the current cycle (R92, R90, R251): a slot issues its next bundle, the sequencer starts its
next micro-operation, or an event of this cycle. MODEL. -/
inductive Work where
  | issue (core slot : Nat)
  | micro (core : Nat)
  | event (e : Event)
  deriving DecidableEq, Repr

/-- The state of the package. -/
structure State where
  tick : Nat
  gcyc : Word
  pkg : BitVec 12
  cur : Ctx
  ev : Ev
  work : List Work
  agenda : List Event
  cores : Tbl Core
  dies : Tbl Die
  mem : Mem
  keys : Tbl Key
  reqs : List Req
  nextId : Nat
  ports : Tbl Port
  lmap : Tbl Nat
  lbind : List (Nat × Nat)
  readys : List (Nat × Word)
  frame : Tbl Word
  frameOld : List (Nat × Word)
  eto : Word32
  txNext : List (Nat × BitVec 12 × BitVec 2 × BitVec 24)
  pkts : List Pkt
  rxs : List Rx
  marks : List Mark
  markRxs : List MarkRx
  zones : Tbl Zone
  ccore : Word
  cerr : Bool
  ctab : Tbl Word
  jcyc : Word
  jearm : Bool
  jdone : Bool
  jarmed : Bool
  jcore : Option Nat
  lcyc : Word
  psnap : Tbl Word
  secure : Secure
  host : HostPort
  stopped : Bool
  flash : Mem
  token : Word
  uncorr : List Nat
  barLog : List (Nat × Nat × Nat × Word)
  deriving DecidableEq, Repr

/-- Why a step ends in a fault: nothing does. Every trap, rewind and machine check of the manual has an effect, and is a next
state. -/
inductive Fault where
  deriving DecidableEq, Repr

/-- Why an instruction has no meaning here. -/
inductive Refusal where
  /-- An instruction of the table that has not been given its meaning yet. Raised by exec's own arms; safe. -/
  | notModelled (mnemonic : String)
  deriving DecidableEq, Repr

/-- The context of a step that no core takes. -/
def Ctx.none : Ctx := { core := 0, sec := false, slot := 0, off := 0, age := 0, idx := 0, lit := false }

/-- The machine right after package reset: no core runs, memory lists nothing, every register at its reset value. The
next step of the machine's own is the release of the reset pin (R536). -/
def State.reset : State :=
  { tick := 0, gcyc := 0, pkg := 0, cur := Ctx.none, ev := Ev.none, work := [], agenda := [], cores := [], dies := [], mem := [],
    keys := [], reqs := [], nextId := 1, ports := [], lmap := [], lbind := [], readys := [], frame := [], frameOld := [],
    eto := 96000#32, txNext := [], pkts := [], rxs := [], marks := [], markRxs := [], zones := [], ccore := 0,
    cerr := false, ctab := [], jcyc := 0, jearm := false, jdone := false, jarmed := false, jcore := none, lcyc := 0,
    psnap := [], secure := Secure.reset, host := HostPort.reset, stopped := false, flash := [],
    token := 1, uncorr := [], barLog := [] }

end Sys2Proof.Machine
end

