-- ==== Sys2Proof/Machine/Flags.lean ====
section
/-! DEFINITION. Numbers, rounding and the conversions between formats (chapter 03): exact values, the rounding modes and
saturation that fmt selects, and every helper function of R142 that computes on numbers. The device keeps no
floating-point flags (R113); what stands here is what decides a result's code. -/

namespace Sys2Proof.Machine

/-- The rounding modes of R13. -/
inductive RM where
  | rne | rtz | rup | rdn | rst
  deriving DecidableEq, Repr

/-- The floating-point formats of R110. -/
inductive FF where
  | fp64 | fp32 | bf16 | fp16 | e4m3 | e5m2 | e2m1
  deriving DecidableEq, Repr

/-- A format as the arithmetic sees it: floating point, log (L8 or L4), or an integer with its sign and width. -/
inductive NTy where
  | flt (f : FF)
  | l8
  | l4
  | int (signed : Bool) (w : Nat)
  deriving DecidableEq, Repr

/-- An exact value (R142). fin is ±(n/d)·2^e with n, d > 0; where irr holds, d is 1 and the value lies strictly between
n·2^e and (n+1)·2^e, with n given to at least 16 bits below any unit it is rounded to. -/
inductive Num where
  | nan
  | inf (neg : Bool)
  | zero (neg : Bool)
  | fin (neg : Bool) (n d : Nat) (e : Int) (irr : Bool)
  deriving DecidableEq, Repr

/-- What rounds a result: mode, fmt.sat, fmt.ftz, and the element's rng (R122 to R126). -/
structure Rnd where
  mode : RM
  sat : Bool
  ftz : Bool
  rng : Nat
  deriving DecidableEq, Repr

/-- The format of a Fmt code (R108). -/
def fmtNty : Fmt → NTy
  | .fp32 => .flt .fp32 | .bf16 => .flt .bf16 | .fp16 => .flt .fp16 | .e4m3 => .flt .e4m3 | .e5m2 => .flt .e5m2
  | .e2m1 => .flt .e2m1 | .l8 => .l8 | .l4 => .l4 | .i32 => .int true 32 | .i16 => .int true 16 | .i8 => .int true 8
  | .i4 => .int true 4 | .n32 => .int false 32 | .n16 => .int false 16 | .n8 => .int false 8

/-- The format of a scalar conversion type (R155). -/
def cvtNty : CvtTy → NTy
  | .fp32 => .flt .fp32 | .fp64 => .flt .fp64 | .i32 => .int true 32 | .n32 => .int false 32 | .i64 => .int true 64
  | .n64 => .int false 64

/-- Fraction bits (R110). -/
def FF.fbits : FF → Nat
  | .fp64 => 52 | .fp32 => 23 | .bf16 => 7 | .fp16 => 10 | .e4m3 => 3 | .e5m2 => 2 | .e2m1 => 1

/-- Exponent bits (R110). -/
def FF.ebits : FF → Nat
  | .fp64 => 11 | .fp32 => 8 | .bf16 => 8 | .fp16 => 5 | .e4m3 => 4 | .e5m2 => 5 | .e2m1 => 2

/-- Exponent bias (R110). -/
def FF.bias : FF → Nat
  | .fp64 => 1023 | .fp32 => 127 | .bf16 => 127 | .fp16 => 15 | .e4m3 => 7 | .e5m2 => 15 | .e2m1 => 1

/-- Width in bits (R110). -/
def FF.width (f : FF) : Nat := 1 + f.ebits + f.fbits

/-- The exponent of the smallest normal value (R143). -/
def FF.emin (f : FF) : Int := 1 - (f.bias : Int)

/-- The magnitude code of the largest finite value (R110). -/
def FF.maxMag : FF → Nat
  | .fp64 => 0x7FEFFFFFFFFFFFFF | .fp32 => 0x7F7FFFFF | .bf16 => 0x7F7F | .fp16 => 0x7BFF | .e4m3 => 0x7E
  | .e5m2 => 0x7B | .e2m1 => 7

/-- The canonical NaN code (R112); E2M1 has none and gives 0 (R128). -/
def FF.nan : FF → Nat
  | .fp64 => 0x7FF8000000000000 | .fp32 => 0x7FC00000 | .bf16 => 0x7FC0 | .fp16 => 0x7E00 | .e4m3 => 0x7F
  | .e5m2 => 0x7E | .e2m1 => 0

/-- The magnitude code of infinity, where the format has one (R110). -/
def FF.infMag : FF → Option Nat
  | .fp64 => some 0x7FF0000000000000 | .fp32 => some 0x7F800000 | .bf16 => some 0x7F80 | .fp16 => some 0x7C00
  | .e5m2 => some 0x7C | .e4m3 => none | .e2m1 => none

/-- The formats that fmt.ftz flushes (R124). -/
def FF.flushable : FF → Bool
  | .fp64 => true | .fp32 => true | .bf16 => true | .fp16 => true | .e4m3 => false | .e5m2 => false | .e2m1 => false

/-- Width of a format in bits (R108). -/
def NTy.width : NTy → Nat
  | .flt f => f.width
  | .l8 => 8
  | .l4 => 4
  | .int _ w => w

/-- An exact non-zero rational, normalised to a zero where n is 0. -/
def Num.mk (neg : Bool) (n d : Nat) (e : Int) : Num := if n = 0 then .zero neg else .fin neg n d e false

/-- The value of an integer. -/
def Num.ofInt (i : Int) : Num := Num.mk (decide (i < 0)) i.natAbs 1 0

/-- Reads a floating-point code (R111, R112), flushing a subnormal where ftz says so (R124). -/
def decodeFlt (f : FF) (ftz : Bool) (code : Nat) : Num :=
  let c := code % 2 ^ f.width
  let neg := decide (c ≥ 2 ^ (f.width - 1))
  let mag := c % 2 ^ (f.width - 1)
  let m := mag % 2 ^ f.fbits
  let e := mag / 2 ^ f.fbits
  match f.infMag with
  | some i =>
    if mag > i then .nan else if mag = i then .inf neg
    else if e = 0 then (if ftz && f.flushable then .zero neg else Num.mk neg m 1 (f.emin - f.fbits))
    else .fin neg (2 ^ f.fbits + m) 1 ((e : Int) - f.bias - f.fbits) false
  | none =>
    if f = .e4m3 ∧ mag = 0x7F then .nan
    else if e = 0 then Num.mk neg m 1 (f.emin - f.fbits)
    else .fin neg (2 ^ f.fbits + m) 1 ((e : Int) - f.bias - f.fbits) false

/-- The significand table of R117. -/
def logTbl (f : Nat) : Nat :=
  match f with
  | 0 => 0x800000 | 1 => 0x8B95C2 | 2 => 0x9837F0 | 3 => 0xA5FED7 | 4 => 0xB504F3 | 5 => 0xC56342 | 6 => 0xD744FD
  | _ => 0xEAC0C7

/-- An L4 code as its L8 code (R116). -/
def l4ToL8 (code : Nat) : Nat :=
  let mu := code % 8
  if mu = 0 then 0 else (code / 8 % 2) * 128 + (4 * mu + 48)

/-- The linear value of an L8 code (R115, R117). -/
def decodeL8 (code : Nat) : Num :=
  let c := code % 256
  if c = 0 then .zero false else if c = 0x80 then .nan
  else .fin (decide (c ≥ 128)) (logTbl (c % 128 % 8)) 1 ((c % 128 / 8 : Nat) - 31) false

/-- The linear value of an L4 code (R116, R117): its zeros keep their sign. -/
def decodeL4 (code : Nat) : Num :=
  let c := code % 16
  if c % 8 = 0 then .zero (decide (c = 8)) else decodeL8 (l4ToL8 c)

/-- The value of an integer code (R114). -/
def intOf (signed : Bool) (w : Nat) (code : Nat) : Int :=
  let c := code % 2 ^ w
  if signed && decide (c ≥ 2 ^ (w - 1)) then (c : Int) - (2 ^ w : Nat) else c

/-- The exact value of a code (decode of R142). -/
def decodeNum (t : NTy) (ftz : Bool) (code : Nat) : Num :=
  match t with
  | .flt f => decodeFlt f ftz code
  | .l8 => decodeL8 code
  | .l4 => decodeL4 code
  | .int s w => Num.ofInt (intOf s w code)

/-! ## Exact arithmetic -/

/-- The sign of a value; NaN has none. -/
def Num.neg? : Num → Bool
  | .nan => false
  | .inf s => s
  | .zero s => s
  | .fin s .. => s

/-- Negation: a sign flip. -/
def Num.negate : Num → Num
  | .nan => .nan
  | .inf s => .inf (!s)
  | .zero s => .zero (!s)
  | .fin s n d e i => .fin (!s) n d e i

/-- An integer times a power of two, 2^k for k ≥ 0. -/
def shl (n : Nat) (k : Int) : Nat := n * 2 ^ k.toNat

/-- Exact sum with IEEE 754 zeros: an exact zero sum of opposite signs is +0, and −0 under rdn. -/
def Num.add (m : RM) (a b : Num) : Num :=
  match a, b with
  | .nan, _ => .nan
  | _, .nan => .nan
  | .inf s, .inf t => if s = t then .inf s else .nan
  | .inf s, _ => .inf s
  | _, .inf t => .inf t
  | .zero s, .zero t => if s = t then .zero s else .zero (decide (m = .rdn))
  | .zero _, x => x
  | x, .zero _ => x
  | .fin s n d e _, .fin t n' d' e' _ =>
    let k := min e e'
    let x : Int := (shl (n * d') (e - k) : Nat)
    let y : Int := (shl (n' * d) (e' - k) : Nat)
    let r := (if s then -x else x) + (if t then -y else y)
    if r = 0 then .zero (decide (m = .rdn)) else .fin (decide (r < 0)) r.natAbs (d * d') k false

/-- Exact product with IEEE 754 special cases. -/
def Num.mul (a b : Num) : Num :=
  match a, b with
  | .nan, _ => .nan
  | _, .nan => .nan
  | .inf _, .zero _ => .nan
  | .zero _, .inf _ => .nan
  | .inf s, x => .inf (xor s x.neg?)
  | x, .inf t => .inf (xor x.neg? t)
  | .zero s, x => .zero (xor s x.neg?)
  | x, .zero t => .zero (xor x.neg? t)
  | .fin s n d e _, .fin t n' d' e' _ => .fin (xor s t) (n * n') (d * d') (e + e') false

/-- Exact quotient with IEEE 754 special cases. -/
def Num.div (a b : Num) : Num :=
  match a, b with
  | .nan, _ => .nan
  | _, .nan => .nan
  | .inf _, .inf _ => .nan
  | .zero _, .zero _ => .nan
  | .inf s, x => .inf (xor s x.neg?)
  | x, .inf t => .zero (xor x.neg? t)
  | .zero s, x => .zero (xor s x.neg?)
  | x, .zero t => .inf (xor x.neg? t)
  | .fin s n d e _, .fin t n' d' e' _ => .fin (xor s t) (n * d') (d * n') (e - e') false

/-- Order of two values that are not NaN: −1, 0 or 1. The zeros are equal (R154). -/
def Num.cmp (a b : Num) : Int :=
  match Num.add .rne a b.negate with
  | .fin s .. => if s then -1 else 1
  | .inf s => if s then -1 else 1
  | .zero _ => 0
  | .nan =>
    -- two infinities of one sign
    0

/-- Whether a value is NaN. -/
def Num.isNan : Num → Bool
  | .nan => true
  | _ => false

/-- Whether a value is a zero. -/
def Num.isZero : Num → Bool
  | .zero _ => true
  | _ => false

/-- Integer square root by Newton's iteration from above. -/
def isqrtFrom (n : Nat) (fuel : Nat) (x : Nat) : Nat :=
  match fuel with
  | 0 => x
  | f + 1 => let y := (x + n / x) / 2; if y < x then isqrtFrom n f y else x

/-- The floor of the square root of n. -/
def isqrt (n : Nat) : Nat := if n = 0 then 0 else isqrtFrom n (Nat.log2 n + 8) (2 ^ (Nat.log2 n / 2 + 1))

/-- floor(n/d · 2^k) and whether it is exact. -/
def scaleFloor (n d : Nat) (k : Int) : Nat × Bool :=
  let a := if k ≥ 0 then shl n k else n
  let b := if k ≥ 0 then d else shl d (-k)
  (a / b, decide (a % b = 0))

/-- floor(log2(n/d · 2^e)) for n, d > 0. -/
def floorLog2 (n d : Nat) (e : Int) : Int :=
  let l : Int := (Nat.log2 n : Int) - (Nat.log2 d : Int)
  let ok := if l ≥ 0 then decide (shl d l ≤ n) else decide (d ≤ shl n (-l))
  (if ok then l else l - 1) + e

/-- Exact square root (R153): −0 of −0, NaN of any other negative value. -/
def Num.sqrt (a : Num) : Num :=
  match a with
  | .nan => .nan
  | .inf s => if s then .nan else .inf false
  | .zero s => .zero s
  | .fin s n d e _ =>
    if s then .nan else
      let k : Int := 300 - floorLog2 n d 0
      let k := if (k + e) % 2 = 0 then k else k + 1
      -- n/d · 2^e = (n/d · 2^k) · 2^(e−k), with e − k even
      let q := scaleFloor n d k
      let r := isqrt q.1
      .fin false r 1 ((e - k) / 2) (!(q.2 && decide (r * r = q.1)))

/-- The bits of log2 of a mantissa interval [lo, hi]/2^p in [1, 2]: at most b bits, or none where the interval does not
decide a bit. -/
def log2Bits (p : Nat) (b : Nat) (lo hi acc : Nat) : Option Nat :=
  match b with
  | 0 => some acc
  | b + 1 =>
    let l := lo * lo / 2 ^ p
    let h := hi * hi / 2 ^ p + 1
    if l ≥ 2 ^ (p + 1) then log2Bits p b (l / 2) (h / 2 + 1) (2 * acc + 1)
    else if h < 2 ^ (p + 1) then log2Bits p b l h (2 * acc)
    else none

/-- floor(log2(n/d · 2^e) · 2^96), and whether it is exact, which holds only at powers of two. Guard bits rise from 256
until the interval decides; the last width stands where it would not. -/
def log2Fix (n d : Nat) (e : Int) : Int × Bool :=
  let l := floorLog2 n d e
  let q (p : Nat) := scaleFloor n d (e - l + p)
  if (q 256).2 && decide ((q 256).1 = 2 ^ 256) then (l * 2 ^ 96, true)
  else
    let try1 (p : Nat) := log2Bits p 96 (q p).1 ((q p).1 + 1) 0
    let f := match try1 256 with
      | some f => f
      | none => match try1 1024 with
        | some f => f
        | none => 0
    (l * 2 ^ 96 + f, false)

/-- An exact or nearly given fixed-point number v/2^k as a value: where exact is false it lies between v and v + 1. -/
def Num.ofFix (v : Int) (k : Nat) (exact : Bool) : Num :=
  if exact then Num.mk (decide (v < 0)) v.natAbs 1 (-(k : Int))
  else if v ≥ 0 then .fin false v.natAbs 1 (-(k : Int)) true
  else .fin true (v.natAbs - 1) 1 (-(k : Int)) true

/-- Base-2 logarithm (R210): of a zero −∞, of a negative value NaN. -/
def Num.log2 (a : Num) : Num :=
  match a with
  | .nan => .nan
  | .inf s => if s then .nan else .inf false
  | .zero _ => .inf true
  | .fin s n d e _ =>
    if s then .nan else
      let r := log2Fix n d e
      if r.1 = 0 ∧ r.2 then .zero false else Num.ofFix r.1 96 r.2

/-- An interval for 2^(f/2^b), f of b bits read from the highest, with p fractional bits: c is the interval of the root
that the next bit stands for. -/
def exp2Bits (p : Nat) (b : Nat) (f : Nat) (c lo hi : Nat × Nat) : Nat × Nat :=
  match b with
  | 0 => (lo.1, hi.1)
  | b + 1 =>
    let r := (isqrt (c.1 * 2 ^ p), isqrt (c.2 * 2 ^ p) + 1)
    if f / 2 ^ b % 2 = 1 then
      exp2Bits p b f r (lo.1 * r.1 / 2 ^ p, 0) (hi.1 * r.2 / 2 ^ p + 1, 0)
    else exp2Bits p b f r lo hi

/-- Base-2 exponential (R210). The argument's fraction has at most 160 bits; 2^x is irrational unless x is an integer. Beyond
2^8192 either way the exponent says no more, and only the significand, on which R122's draw depends, is kept. -/
def Num.exp2 (a : Num) : Num :=
  match a with
  | .nan => .nan
  | .inf s => if s then .zero false else .inf false
  | .zero _ => .fin false 1 1 0 false
  | .fin s n d e _ =>
    let q := scaleFloor n d (e + 160)
    let v : Int := if s then -(q.1 : Int) - (if q.2 then 0 else 1) else q.1
    let i := max (-8192) (min 8192 (v.ediv (2 ^ 160)))
    let f := (v.emod (2 ^ 160)).natAbs
    if f = 0 ∧ q.2 then .fin false 1 1 i false
    else
      let r := exp2Bits 640 160 f (2 ^ 641, 2 ^ 641) (2 ^ 640, 0) (2 ^ 640, 0)
      .fin false (r.1 / 2 ^ 384) 1 (i - 256) true

/-- Reciprocal (R210): of a zero an infinity, of an infinity a zero. -/
def Num.rcp (a : Num) : Num := Num.div (.fin false 1 1 0 false) a

/-- Reciprocal square root (R210): of a zero an infinity of its sign, of a negative value NaN. -/
def Num.rsq (a : Num) : Num :=
  match a with
  | .nan => .nan
  | .inf s => if s then .nan else .zero false
  | .zero s => .inf s
  | .fin s n d e i => if s then .nan else Num.sqrt (.fin false d n (-e) i)

/-! ## Rounding -/

/-- up of R122, from the remainder r of D, whether something lies beyond it, and the parity of lo. -/
def roundUp (c : Rnd) (neg : Bool) (lo r dd : Nat) (irr : Bool) : Bool :=
  match c.mode with
  | .rne => decide (2 * r > dd) || (decide (2 * r = dd) && (irr || decide (lo % 2 = 1)))
  | .rtz => false
  | .rup => (decide (r > 0) || irr) && !neg
  | .rdn => (decide (r > 0) || irr) && neg
  | .rst => decide (r * 2 ^ 16 / dd + c.rng ≥ 2 ^ 16)

/-- |x| in units of 2^q: floor, and the rounding's up (R122). -/
def roundAt (c : Rnd) (neg : Bool) (n d : Nat) (e : Int) (irr : Bool) (q : Int) : Nat × Bool :=
  let k := e - q
  let a := if k ≥ 0 then shl n k else n
  let b := if k ≥ 0 then d else shl d (-k)
  (a / b, roundUp c neg (a / b) (a % b) b irr)

/-- Whether the FP32 rule of R123 sends an overflow to infinity. -/
def overflowAway (c : Rnd) (neg up : Bool) : Bool :=
  match c.mode with
  | .rne => true
  | .rtz => false
  | .rup => !neg
  | .rdn => neg
  | .rst => up

/-- The sign bit of a code of f. -/
def FF.sign (f : FF) (neg : Bool) : Nat := if neg then 2 ^ (f.width - 1) else 0

/-- overflow_rule of R143 (R123). -/
def overflowCode (f : FF) (c : Rnd) (neg up : Bool) : Nat :=
  match f with
  | .fp64 | .fp32 => f.sign neg + (if overflowAway c neg up then f.infMag.getD 0 else f.maxMag)
  | .bf16 | .fp16 | .e5m2 =>
    f.sign neg + (if !c.sat && overflowAway c neg up then f.infMag.getD 0 else f.maxMag)
  | .e4m3 => if !c.sat && overflowAway c neg up then f.nan else f.sign neg + f.maxMag
  | .e2m1 => f.sign neg + f.maxMag

/-- inf_rule of R143 (R123). -/
def infCode (f : FF) (sat neg : Bool) : Nat :=
  match f with
  | .fp64 | .fp32 => f.sign neg + f.infMag.getD 0
  | .bf16 | .fp16 | .e5m2 => f.sign neg + (if sat then f.maxMag else f.infMag.getD 0)
  | .e4m3 => if sat then f.sign neg + f.maxMag else f.nan
  | .e2m1 => f.sign neg + f.maxMag

/-- encode of R143 on a floating-point destination. -/
def encodeFlt (f : FF) (c : Rnd) (x : Num) : Nat :=
  match x with
  | .nan => f.nan
  | .inf s => infCode f c.sat s
  | .zero s => f.sign s
  | .fin s n d e irr =>
    let l := floorLog2 n d e
    if c.ftz && f.flushable && decide (l < f.emin) then f.sign s
    else
      let ex := max l f.emin
      let r := roundAt c s n d e irr (ex - f.fbits)
      let mag := (ex - f.emin).toNat * 2 ^ f.fbits + r.1 + (if r.2 then 1 else 0)
      if mag > f.maxMag then overflowCode f c s r.2 else f.sign s + mag

/-- The ends of an integer format's range (R114). -/
def intMin (signed : Bool) (w : Nat) : Int := if signed then -(2 ^ (w - 1) : Nat) else 0

/-- The upper end of an integer format's range. -/
def intMax (signed : Bool) (w : Nat) : Int := if signed then (2 ^ (w - 1) : Nat) - 1 else (2 ^ w : Nat) - 1

/-- sat_int of R142. -/
def satInt (signed : Bool) (w : Nat) (v : Int) : Int := max (intMin signed w) (min (intMax signed w) v)

/-- The code of an integer value: its low w bits. -/
def intCode (w : Nat) (v : Int) : Nat := (v.emod ((2 ^ w : Nat) : Int)).toNat

/-- Rounding to an integer (R122 with q = 1). -/
def roundInt (c : Rnd) (neg : Bool) (n d : Nat) (e : Int) (irr : Bool) : Int :=
  let r := roundAt c neg n d e irr 0
  let m : Int := (r.1 + (if r.2 then 1 else 0) : Nat)
  if neg then -m else m

/-- encode on an integer destination: round once, then clamp, whatever sat holds (R129). -/
def encodeInt (signed : Bool) (w : Nat) (c : Rnd) (x : Num) : Nat :=
  match x with
  | .nan => 0
  | .inf s => intCode w (if s then intMin signed w else intMax signed w)
  | .zero _ => 0
  | .fin s n d e irr =>
    if floorLog2 n d e ≥ 80 then intCode w (if s then intMin signed w else intMax signed w)
    else intCode w (satInt signed w (roundInt c s n d e irr))

/-- The log field of |x| rounded as R131 gives: k·log2|x| + off, with the sign of x directing rup and rdn. -/
def logField (c : Rnd) (s : Bool) (n d : Nat) (e : Int) (k off : Int) : Int :=
  let r := log2Fix n d e
  let y := k * r.1 + off * 2 ^ 96
  let lo := y.ediv (2 ^ 96)
  let rem := (y.emod (2 ^ 96)).toNat
  lo + (if roundUp c s (lo.emod 2).toNat rem (2 ^ 96) (!r.2) then 1 else 0)

/-- Conversion into L8 (R131). -/
def encodeL8 (c : Rnd) (x : Num) : Nat :=
  match x with
  | .nan => 0x80
  | .zero _ => 0
  | .inf s => (if s then 128 else 0) + 127
  | .fin s n d e _ =>
    let f := logField c s n d e 8 64
    if f < 1 then 0 else (if s then 128 else 0) + (min f 127).toNat

/-- Conversion into L4 (R131). -/
def encodeL4 (c : Rnd) (x : Num) : Nat :=
  match x with
  | .nan => 0
  | .zero s => if s then 8 else 0
  | .inf s => (if s then 8 else 0) + 7
  | .fin s n d e _ =>
    let f := logField c s n d e 2 4
    (if s then 8 else 0) + (if f < 1 then 0 else (min f 7).toNat)

/-- encode of R142. -/
def encodeNum (t : NTy) (c : Rnd) (x : Num) : Nat :=
  match t with
  | .flt f => encodeFlt f c x
  | .l8 => encodeL8 c x
  | .l4 => encodeL4 c x
  | .int s w => encodeInt s w c x

/-- round_fp of R142: encode followed by decode. -/
def roundFp (f : FF) (c : Rnd) (x : Num) : Num := decodeFlt f false (encodeFlt f c x)

/-- A conversion of a code from one format to another (R128 to R132): between integer formats it clamps or keeps low
bits, L4 to L8 is the exact widening, a log code keeps itself in its own format. -/
def convert (dst src : NTy) (c : Rnd) (code : Nat) : Nat :=
  match dst, src with
  | .int s w, .int s' w' =>
    let v := intOf s' w' code
    if s = s' ∧ w = w' then intCode w v else intCode w (if c.sat then satInt s w v else v)
  | .l8, .l4 => l4ToL8 code
  | .l8, .l8 => code % 256
  | .l4, .l4 => code % 16
  | dst, .l4 => encodeNum dst c (decodeL8 (l4ToL8 code))
  | _, _ => encodeNum dst c (decodeNum src c.ftz code)

/-- Whether a format is an integer format. -/
def NTy.isInt : NTy → Bool
  | .int .. => true
  | _ => false

/-- Whether a format is a log format. -/
def NTy.isLog : NTy → Bool
  | .l8 => true
  | .l4 => true
  | _ => false

/-- The conversions that round nothing: exactly the pairs of R584. -/
def roundsNothing (dst src : NTy) : Bool :=
  if dst = src then true else
  match src, dst with
  | .int .., .int .. => true
  | .l4, .l8 => true
  | .flt .bf16, .flt .fp32 | .flt .fp16, .flt .fp32 => true
  | .flt .e4m3, .flt f | .flt .e5m2, .flt f => f == .fp32 || f == .bf16 || f == .fp16
  | .flt .e2m1, .flt f => f == .fp32 || f == .bf16 || f == .fp16 || f == .e4m3 || f == .e5m2
  | .l8, .flt f | .l4, .flt f => f == .fp32
  | .int true 16, .flt f | .int false 16, .flt f => f == .fp32
  | .int true 8, .flt f | .int false 8, .flt f => f == .fp32 || f == .bf16 || f == .fp16
  | .int true 4, .flt f => f == .fp32 || f == .bf16 || f == .fp16 || f == .e4m3 || f == .e5m2
  | .int true 32, .flt f | .int false 32, .flt f => f == .fp64
  | _, _ => false

/-- FP32 to FP64 rounds nothing in CVT (R584). -/
def cvtRoundsNothing (dst src : CvtTy) : Bool :=
  roundsNothing (cvtNty dst) (cvtNty src) || decide (dst = .fp64 ∧ src = .fp32)

/-- log_product of R142 (R118): the value of the product of two log codes, L4 widened. -/
def logProduct (fa fb : NTy) (a b : Nat) : Num :=
  let x := if fa = .l4 then l4ToL8 a else a % 256
  let y := if fb = .l4 then l4ToL8 b else b % 256
  if x = 0x80 ∨ y = 0x80 then .nan
  else if x = 0 ∨ y = 0 then .zero false
  else
    let sf := x % 128 + y % 128
    .fin (xor (decide (x ≥ 128)) (decide (y ≥ 128))) (logTbl (sf % 8)) 1 ((sf / 8 : Nat) - 39) false

/-- The value of a UE5M3 scale (R120). -/
def decodeScale (code : Nat) : Num :=
  let c := code % 256
  if c = 0xFF then .nan
  else if c / 8 = 0 then Num.mk false (c % 8) 1 (-17)
  else .fin false (8 + c % 8) 1 ((c / 8 : Nat) - 18) false

/-- quantize of R139: x / s + z exact, rounded once. -/
def quantize (t : NTy) (c : Rnd) (x s : Num) (z : Int) : Nat :=
  encodeNum t c (if z = 0 then Num.div x s else Num.add c.mode (Num.div x s) (Num.ofInt z))

/-- dequantize of R140: s × (q − z) exact, rounded once. A difference of zero has the sign of an exact sum under the mode where z is
not 0 and is positive where z is 0 (DESIGN CHOICE, see the log). -/
def dequantize (t : NTy) (c : Rnd) (s q : Num) (z : Int) : Nat :=
  encodeNum t c (Num.mul s (if z = 0 then q else Num.add c.mode q (Num.ofInt (-z))))

/-! ## Random bits -/

/-- xorshift_step of R125. -/
def xorshiftStep (x : Word) : Word :=
  let x := x ^^^ (x <<< 13)
  let x := x ^^^ (x >>> 7)
  x ^^^ (x <<< 17)

/-- The first n draws of a generator and the state it is left in (R126). -/
def draws (n : Nat) (x : Word) : List Word × Word :=
  match n with
  | 0 => ([], x)
  | n + 1 =>
    let y := xorshiftStep x
    let r := draws n y
    (y :: r.1, r.2)

/-- rng of element i of an instruction's results (R126): bits 16j+15:16j of its group's draw. -/
def rngAt (ds : List Word) (i : Nat) : Nat := ((ds.getD (i / 4) 0) >>> (16 * (i % 4))).toNat % 65536

/-! ## fmt -/

/-- fmt.af as a code (R49). -/
def fmtAf (f : Word32) : Nat := f.toNat / 2 ^ 28
/-- fmt.bf as a code. -/
def fmtBf (f : Word32) : Nat := f.toNat / 2 ^ 24 % 16
/-- fmt.cf as a code. -/
def fmtCf (f : Word32) : Nat := f.toNat / 2 ^ 20 % 16
/-- fmt.bsm. -/
def fmtBsm (f : Word32) : Nat := f.toNat / 2 ^ 18 % 4
/-- fmt.rm. -/
def fmtRm (f : Word32) : Nat := f.toNat / 2 ^ 15 % 8
/-- fmt.sat. -/
def fmtSat (f : Word32) : Bool := decide (f.toNat / 2 ^ 14 % 2 = 1)
/-- fmt.ftz. -/
def fmtFtz (f : Word32) : Bool := decide (f.toNat / 2 ^ 13 % 2 = 1)

/-- The mode a rounding sub-field selects under fmt (R83); none for fmt.rm 5 to 7 (R50). -/
def resolveRm (r : RSel) (f : Word32) : Option RM :=
  match r with
  | .rne => some .rne
  | .rtz => some .rtz
  | .rup => some .rup
  | .rdn => some .rdn
  | .rst => some .rst
  | .rm =>
    match fmtRm f with
    | 0 => some .rne
    | 1 => some .rtz
    | 2 => some .rup
    | 3 => some .rdn
    | 4 => some .rst
    | _ => none

/-- The rounding of one element under fmt. -/
def rndOf (m : RM) (f : Word32) (rng : Nat) : Rnd := { mode := m, sat := fmtSat f, ftz := fmtFtz f, rng := rng }

end Sys2Proof.Machine
end

