-- ==== Sys2Proof/Machine/Legal.lean ====
section
/-! DEFINITION. Which operands the encodings admit (R89): the formats an instruction accepts, the modifier codes of each
element width, the sub-fields that must be zero. An event has no encoding and is always legal. -/

namespace Sys2Proof.Machine

/-- Element width in bits of a format (R108). -/
def fmtWidth (f : Fmt) : Nat := (fmtNty f).width

/-- The formats of VADD, VSUB, VMUL, VMIN and VMAX (R191). -/
def isArith (f : Fmt) : Bool :=
  match f with
  | .fp32 | .bf16 | .fp16 | .i32 | .n32 | .i16 | .n16 | .i8 | .n8 => true
  | _ => false

/-- FP32, BF16, FP16 (R191, R210). -/
def isWideFlt (f : Fmt) : Bool :=
  match f with
  | .fp32 | .bf16 | .fp16 => true
  | _ => false

/-- The integer formats of 8 to 32 bits (R191, R197). -/
def isByteInt (f : Fmt) : Bool :=
  match f with
  | .i32 | .n32 | .i16 | .n16 | .i8 | .n8 => true
  | _ => false

/-- FP32, I32 and N32 (R198, R200, R202). -/
def isLane (f : Fmt) : Bool :=
  match f with
  | .fp32 | .i32 | .n32 => true
  | _ => false

/-- The formats of reductions and scans (R208). -/
def isReduce (f : Fmt) : Bool :=
  match f with
  | .fp32 | .bf16 | .fp16 | .i32 | .n32 | .i16 | .n16 => true
  | _ => false

/-- The narrow formats of VQNT and VDQ (R212). -/
def isNarrow (f : Fmt) : Bool :=
  match f with
  | .bf16 | .fp16 | .e4m3 | .e5m2 | .e2m1 | .l8 | .l4 | .i16 | .i8 | .i4 | .n16 | .n8 => true
  | _ => false

/-- The target ranges of VSAT (R214). -/
def isSat (f : Fmt) : Bool :=
  match f with
  | .i16 | .i8 | .i4 | .n32 | .n16 | .n8 | .bf16 | .fp16 | .e4m3 | .e5m2 | .e2m1 => true
  | _ => false

/-- The formats of VGATH and VSCAT (R223). -/
def isGath (f : Fmt) : Bool :=
  match f with
  | .fp32 | .i32 | .n32 | .bf16 | .fp16 | .i16 | .n16 | .e4m3 | .e5m2 | .l8 | .i8 | .n8 => true
  | _ => false

/-- The destinations of XPACK (R257). -/
def isPack (f : Fmt) : Bool :=
  match f with
  | .e4m3 | .e5m2 | .e2m1 | .l8 | .l4 | .i8 | .i4 | .n8 => true
  | _ => false

/-- Whether a format is an integer format. -/
def isInt (f : Fmt) : Bool := (fmtNty f).isInt

/-- Modifier codes of the column for element width w (R81). -/
def modOk (w : Nat) (m : BitVec 3) : Bool :=
  if w = 32 then decide (m.toNat ≤ 6) else if w = 16 then decide (m.toNat ≤ 3) else true

/-- Both modifiers in the column of width w. -/
def modsOk (w : Nat) (o : VOp) : Bool := modOk w o.ma && modOk w o.mb

/-- The operand forms that leave vb and mb unused. -/
def unary (o : VOp) : Bool := decide (o.vb = 0) && decide (o.mb = 0)

/-- No modifiers. -/
def noMods (o : VOp) : Bool := decide (o.ma = 0) && decide (o.mb = 0)

/-- A rounding sub-field is used only where the result rounds (R187). -/
def rndOk (f : Fmt) (r : RSel) : Bool := !(isInt f) || decide (r = .rm)

/-- Whether a register number stands in the low n bits of a 9-bit sub-field (R77). -/
def low9 (n : Nat) (x : BitVec 9) : Bool := decide (x.toNat < 2 ^ n)

/-- Whether a condition code lies in the column that a VCMP of format f uses (R198). -/
def vcmpCodeOk (f : Fmt) (c : BitVec 4) : Bool := if isInt f then decide (c.toNat ≤ 9) else decide (c.toNat ≤ 7)

/-- The legality of an encoded instruction's operands (R89, R235). MLOOP's last is also checked against its own
micro-address, which the instruction does not hold (microEntryOk). -/
def legal (i : Instr) : Bool :=
  match i with
  | .bfx _ _ _ pos len1 => decide (pos.toNat + len1.toNat + 1 ≤ 64)
  | .bfi _ _ pos len1 => decide (pos.toNat + len1.toNat + 1 ≤ 64)
  | .amos op _ _ _ _ rc => decide (op = .cas) || decide (rc = 0)
  | .cvt dst src r _ _ => !(cvtRoundsNothing dst src) || decide (r = .rm)
  | .tset _ w _ => decide (w.toNat ≤ 4)
  | .mfc _ cr | .mtc cr _ =>
    let n := cr.toNat
    decide (n ≤ 0x0C) || (decide (0x10 ≤ n) && decide (n ≤ 0x1B)) || (decide (0x20 ≤ n) && decide (n ≤ 0x23)) ||
      (decide (0x28 ≤ n) && decide (n ≤ 0x2E))
  | .vadd f r o | .vsub f r o | .vmul f r o => isArith f && rndOk f r && modsOk (fmtWidth f) o
  | .vfma f _ o => isWideFlt f && modsOk (fmtWidth f) o
  | .vmin f o | .vmax f o => isArith f && modsOk (fmtWidth f) o
  | .vabs f o | .vneg f o =>
    (isWideFlt f || decide (f = .i32) || decide (f = .i16) || decide (f = .i8)) && unary o && modOk (fmtWidth f) o.ma
  | .vmulh f o => isByteInt f && modsOk (fmtWidth f) o
  | .vdot4 f o => (decide (f = .i8) || decide (f = .n8) || decide (f = .i4)) && modsOk (fmtWidth f) o
  | .vand o | .vor o | .vxor o => noMods o
  | .vnot o => noMods o && decide (o.vb = 0)
  | .vshl f imm o | .vshr f imm o | .vsar f imm o =>
    isByteInt f && modsOk (fmtWidth f) o && (!imm || (low9 5 o.vb && decide (o.mb = 0)))
  | .vcmp f c o => isLane f && low9 4 o.vd && modsOk 32 o && vcmpCodeOk f c
  | .vcmpt f _ o => isLane f && low9 4 o.vd && modsOk 32 o
  | .vsel _ o => noMods o
  | .vcas f _ o => isLane f && noMods o && decide (o.vd ≠ o.va) && decide (o.vb.toNat % 2 = 0) &&
      decide (o.vd.toNat / 2 ≠ o.vb.toNat / 2) && decide (o.va.toNat / 2 ≠ o.vb.toNat / 2)
  | .vmov f o => unary o && modOk (fmtWidth f) o.ma
  | .vbcast _ o => low9 6 o.va && decide (o.vb = 0) && noMods o
  | .vidx f o =>
    (decide (f = .i32) || decide (f = .n32) || decide (f = .i16) || decide (f = .n16)) && decide (o.va = 0) &&
      decide (o.vb = 0) && noMods o
  | .vperm o => noMods o
  | .vrot imm o => noMods o && (imm || low9 6 o.vb)
  | .vshuf o => noMods o && decide (o.vb.toNat ≤ 12)
  | .vredadd f r o => isReduce f && rndOk f r && unary o && modOk (fmtWidth f) o.ma
  | .vredmax f o | .vredmin f o => isReduce f && unary o && modOk (fmtWidth f) o.ma
  | .vscan op f r o =>
    isReduce f && rndOk f r && (decide (op = .add) || decide (r = .rm)) && unary o && modOk (fmtWidth f) o.ma
  | .vexp2 f _ o | .vlog2 f _ o | .vrcp f _ o | .vrsq f _ o => isWideFlt f && unary o && modOk (fmtWidth f) o.ma
  | .vcvt dst src r o =>
    unary o && (if fmtWidth src = 32 then decide (o.ma = 0) else modOk (fmtWidth src) o.ma) &&
      (!(roundsNothing (fmtNty dst) (fmtNty src)) || decide (r = .rm))
  | .vqnt f zp _ o => isNarrow f && (!zp || isInt f) && modsOk 32 o
  | .vdq f zp _ o => isNarrow f && (!zp || isInt f) && modOk (fmtWidth f) o.ma && modOk 32 o.mb
  | .vsat f o => isSat f && unary o && modOk 32 o.ma
  | .vpack f o => decide (fmtWidth f ≠ 32) && noMods o
  | .vunpk f _ o => decide (fmtWidth f ≠ 32) && noMods o && decide (o.vb = 0)
  | .vlmul f _ => decide (f = .l8) || decide (f = .l4)
  | .vllin f o =>
    (decide (f = .l8) || decide (f = .l4)) && unary o && (if f = .l8 then decide (o.ma.toNat ≤ 3) else true)
  | .vpand o | .vpor o => low9 4 o.vd && low9 5 o.va && low9 5 o.vb && noMods o
  | .vpnot o => low9 4 o.vd && low9 5 o.va && decide (o.vb = 0) && noMods o
  | .vpcnt o | .vpfst o => low9 5 o.va && decide (o.vb = 0) && noMods o
  | .vld o | .vst o => low9 6 o.va && low9 6 o.vb && noMods o
  | .vgath f o => isGath f && low9 6 o.vb && noMods o
  | .vscat f o => isGath f && low9 6 o.vb && noMods o &&
      (match o.g with | none => true | some g => !g.gz)
  | .vpop o => decide (o.va = 0) && decide (o.vb = 0) && noMods o
  | .xexp _ _ codec => decide (codec.toNat ≤ 2)
  | .xratio q => decide (0x80 ≤ q.toNat) && decide (q.toNat ≤ 0x1000)
  | .xpack td _ dst _ => isPack dst && decide (td.toNat % 2 = 0)
  | .ldt step flt _ | .ldts step flt _ => !flt || step
  | .amo op _ nr _ _ sy tile word =>
    (decide (op ≠ .cas) || decide (sy.toNat % 2 = 0)) && (!nr || (decide (tile = 0) && decide (word = 0)))
  | .tlbi kind _ sx sy n1 =>
    decide (kind.toNat ≤ 2) && (decide (kind = 2) || (decide (sx = 0) && decide (n1 = 0))) &&
      (decide (kind ≠ 0) || decide (sy = 0))
  | .ldp size _ _ _ | .stp size _ _ _ => decide (size.toNat ≤ 6)
  | .keyz all sx => !all || decide (sx = 0)
  | .mldstore ua _ n1 => decide (ua.toNat + n1.toNat + 1 ≤ 512)
  | .loop _ disp | .loopi _ disp => decide (disp.toNat ≥ 1)
  | .jmp (some _) disp | .call (some _) disp => decide (disp = 0)
  | .mma i acc _ _ _ _ _ _ => (i.ix || decide (i.mpx = 0)) && decide (acc.toNat ≤ 47)
  | .mmas i acc _ _ _ _ _ _ _ sacc =>
    (i.ix || decide (i.mpx = 0)) && decide (acc.toNat ≤ 47) && decide (sacc.toNat ≤ 47)
  | .mldw i _ _ form _ _ => (i.ix || decide (i.mpx = 0)) && decide (form.toNat ≤ 2)
  | .mzero i acc => (i.ix || decide (i.mpx = 0)) && decide (acc.toNat ≤ 47)
  | .mdrain i acc _ _ _ _ _ _ _ => (i.ix || decide (i.mpx = 0)) && decide (acc.toNat ≤ 47)
  | .msumrow i b acc ta wg =>
    (i.ix || decide (i.mpx = 0)) && decide (acc.toNat ≤ 47) && (if b then decide (ta = 0) else decide (wg = 0))
  | .macc i mode acc ta acc2 =>
    (i.ix || decide (i.mpx = 0)) && decide (acc.toNat ≤ 47) && decide (acc2.toNat ≤ 47) && decide (mode.toNat ≤ 2) &&
      (if mode = 0 then decide (ta = 0) else decide (acc2 = 0))
  | .mloop i cnt _ => (i.ix || decide (i.mpx = 0)) && (!i.ix || decide (cnt = 0))
  | .mwaitt i _ first cm => (i.ix || decide (i.mpx = 0)) && decide (first.toNat + cm.toNat + 1 ≤ 128)
  | .mwaitb i _ _ _ => i.ix || decide (i.mpx = 0)
  | .msets i tsa tsb =>
    (i.ix || decide (i.mpx = 0)) && (!i.ix || (decide (tsa = 0) && decide (tsb = 0)))
  | _ => true

end Sys2Proof.Machine
end

