-- ==== Sys2Proof/WellFormed.lean ====
section
/-! DEFINITION. Well-formed instructions: those whose operands an encoding of the manual admits (R89, R235). -/

namespace Sys2Proof

/-- An instruction is well formed when its operands are legal. Events are always well formed. -/
def Instr.WellFormed (i : Instr) : Prop := Machine.legal i = true

end Sys2Proof
end

