-- ==== Sys2Proof/Decode.lean ====
section
/-! DEFINITION. Decoding of the slot fields and micro-instructions (R76 to R89, R233 to R235), total on any bits: a field
that no map assigns, a non-zero sub-field that must be zero and an operand that is not legal are refused. After it the
encoder, written from the same tables. -/

namespace Sys2Proof

open Machine (legal)

/-- The encoded words of an instruction: a slot field, or a micro-instruction. -/
inductive Field where
  | sa (f : BitVec 40)
  | v (f : BitVec 56)
  | xf (f : BitVec 24)
  | mem (f : BitVec 48)
  | mx (f : BitVec 32)
  | fab (f : BitVec 32)
  | ctl (f : BitVec 40)
  | micro (f : BitVec 128)
  deriving DecidableEq, Repr

/-- Format codes (R108). -/
def fmtOf (c : BitVec 4) : Option Fmt :=
  match c.toNat with
  | 0 => some .fp32 | 1 => some .bf16 | 2 => some .fp16 | 3 => some .e4m3 | 4 => some .e5m2 | 5 => some .e2m1
  | 6 => some .l8 | 7 => some .l4 | 8 => some .i32 | 9 => some .i16 | 10 => some .i8 | 11 => some .i4
  | 12 => some .n32 | 13 => some .n16 | 14 => some .n8 | _ => none

/-- The code of a format (R108). -/
def fmtCode (f : Fmt) : BitVec 4 :=
  match f with
  | .fp32 => 0 | .bf16 => 1 | .fp16 => 2 | .e4m3 => 3 | .e5m2 => 4 | .e2m1 => 5 | .l8 => 6 | .l4 => 7 | .i32 => 8
  | .i16 => 9 | .i8 => 10 | .i4 => 11 | .n32 => 12 | .n16 => 13 | .n8 => 14

/-- The rounding sub-field (R83). -/
def rselOf (c : BitVec 3) : Option RSel :=
  match c.toNat with
  | 0 => some .rm | 1 => some .rne | 2 => some .rtz | 3 => some .rup | 4 => some .rdn | 5 => some .rst | _ => none

/-- The code of a rounding selection (R83). -/
def rselCode (r : RSel) : BitVec 3 :=
  match r with
  | .rm => 0 | .rne => 1 | .rtz => 2 | .rup => 3 | .rdn => 4 | .rst => 5

/-- Integer condition codes (R84). -/
def icondOf (c : BitVec 4) : Option ICond :=
  match c.toNat with
  | 0 => some .eq | 1 => some .ne | 2 => some .lt | 3 => some .le | 4 => some .gt | 5 => some .ge | 6 => some .ltn
  | 7 => some .len | 8 => some .gtn | 9 => some .gen | _ => none

/-- The code of an integer condition (R84). -/
def icondCode (c : ICond) : BitVec 4 :=
  match c with
  | .eq => 0 | .ne => 1 | .lt => 2 | .le => 3 | .gt => 4 | .ge => 5 | .ltn => 6 | .len => 7 | .gtn => 8 | .gen => 9

/-- Float condition codes (R84). -/
def fcondOf (c : BitVec 4) : Option FCond :=
  match c.toNat with
  | 0 => some .eq | 1 => some .ne | 2 => some .lt | 3 => some .le | 4 => some .gt | 5 => some .ge | 6 => some .uo
  | 7 => some .or | _ => none

/-- The code of a float condition (R84). -/
def fcondCode (c : FCond) : BitVec 4 :=
  match c with
  | .eq => 0 | .ne => 1 | .lt => 2 | .le => 3 | .gt => 4 | .ge => 5 | .uo => 6 | .or => 7

/-- VCMPT's codes (R200). -/
def pcondOf (c : BitVec 4) : Option PCond :=
  match c.toNat with
  | 0 => some .eq | 1 => some .ne | 2 => some .lt | 3 => some .le | 4 => some .gt | 5 => some .ge | _ => none

/-- The code of a pair condition (R200). -/
def pcondCode (c : PCond) : BitVec 4 :=
  match c with
  | .eq => 0 | .ne => 1 | .lt => 2 | .le => 3 | .gt => 4 | .ge => 5

/-- AMOS operations (R85). -/
def amosOf (c : BitVec 4) : Option AmosOp :=
  match c.toNat with
  | 0 => some .add | 1 => some .min | 2 => some .max | 3 => some .minn | 4 => some .maxn | 5 => some .xchg
  | 6 => some .cas | 7 => some .and | 8 => some .or | _ => none

/-- The code of an AMOS operation (R85). -/
def amosCode (c : AmosOp) : BitVec 4 :=
  match c with
  | .add => 0 | .min => 1 | .max => 2 | .minn => 3 | .maxn => 4 | .xchg => 5 | .cas => 6 | .and => 7 | .or => 8

/-- AMO operations (R278). -/
def amoOf (c : BitVec 4) : Option AmoOp :=
  match c.toNat with
  | 0 => some .add | 1 => some .fadd | 2 => some .min | 3 => some .max | 4 => some .minn | 5 => some .maxn
  | 6 => some .xchg | 7 => some .cas | 8 => some .and | 9 => some .or | _ => none

/-- The code of an AMO operation (R278). -/
def amoCode (c : AmoOp) : BitVec 4 :=
  match c with
  | .add => 0 | .fadd => 1 | .min => 2 | .max => 3 | .minn => 4 | .maxn => 5 | .xchg => 6 | .cas => 7 | .and => 8
  | .or => 9

/-- Scalar conversion types (R155). -/
def cvtTyOf (c : BitVec 3) : Option CvtTy :=
  match c.toNat with
  | 0 => some .fp32 | 1 => some .fp64 | 2 => some .i32 | 3 => some .n32 | 4 => some .i64 | 5 => some .n64 | _ => none

/-- The code of a conversion type (R155). -/
def cvtTyCode (c : CvtTy) : BitVec 3 :=
  match c with
  | .fp32 => 0 | .fp64 => 1 | .i32 => 2 | .n32 => 3 | .i64 => 4 | .n64 => 5

/-- Handle queries (R160). -/
def hqOf (c : BitVec 3) : Option HQuery :=
  match c.toNat with
  | 0 => some .home | 1 => some .rights | 2 => some .live | 3 => some .res | 4 => some .shape | 5 => some .ver
  | 6 => some .size | _ => none

/-- The code of a handle query (R160). -/
def hqCode (c : HQuery) : BitVec 3 :=
  match c with
  | .home => 0 | .rights => 1 | .live => 2 | .res => 3 | .shape => 4 | .ver => 5 | .size => 6

/-- Combining operations (R86, R87). -/
def combOf (c : BitVec 2) : Option CombOp :=
  match c.toNat with
  | 0 => some .add | 1 => some .max | 2 => some .min | _ => none

/-- The code of a combining operation (R86, R87). -/
def combCode (c : CombOp) : BitVec 2 :=
  match c with
  | .add => 0 | .max => 1 | .min => 2

/-- Scopes (R279). -/
def scopeOf (c : BitVec 6) : Option Scope :=
  match c.toNat with
  | 0 => some .core | 1 => some .cluster | 2 => some .die | 3 => some .package | 4 => some .system | _ => none

/-- The code of a scope (R279). -/
def scopeCode (c : Scope) : BitVec 6 :=
  match c with
  | .core => 0 | .cluster => 1 | .die => 2 | .package => 3 | .system => 4

/-- One bit as a Bool. -/
def bit1 (b : Bool) : BitVec 1 := BitVec.ofBool b

/-- Bit i of a field. -/
def bitAt {n : Nat} (f : BitVec n) (i : Nat) : Bool := f.getLsbD i

/-- The instruction, where its unused sub-fields are zero and its operands are legal. -/
def gate (c : Bool) (i : Instr) : Option Instr := if c && legal i then some i else none

/-! ## Layouts (R78, R79, R82, R234) -/

/-- Format R of SA and SB. -/
def packR (op : BitVec 7) (rd ra rb rc : BitVec 6) (fn : BitVec 9) : BitVec 40 := op ++ rd ++ ra ++ rb ++ rc ++ fn
/-- Format I of SA and SB. -/
def packI (op : BitVec 7) (rd ra : BitVec 6) (imm : BitVec 21) : BitVec 40 := op ++ rd ++ ra ++ imm
/-- Format L of SA and SB. -/
def packL (op : BitVec 7) (rd : BitVec 6) (imm : BitVec 27) : BitVec 40 := op ++ rd ++ imm
/-- Format M of SA and SB. -/
def packM (op : BitVec 7) (rd ra : BitVec 6) (sz : BitVec 2) (sx : BitVec 1) (disp : BitVec 18) : BitVec 40 :=
  op ++ rd ++ ra ++ sz ++ sx ++ disp
/-- Format C of SA and SB. -/
def packC (op : BitVec 7) (rd : BitVec 6) (cr : BitVec 8) : BitVec 40 := op ++ rd ++ cr ++ 0#19

/-- The guard sub-fields gp, gn, gz, ge (R80). -/
def packG (g : Option Guard) : BitVec 8 :=
  match g with
  | none => 0
  | some g => g.gp ++ bit1 g.gn ++ bit1 g.gz ++ 1#1

/-- The guard of the sub-fields; with ge 0 the others must be zero (R80). -/
def guardOf (c : BitVec 8) : Option (Option Guard) :=
  if bitAt c 0 then some (some { gp := c.extractLsb' 3 5, gn := bitAt c 2, gz := bitAt c 1 })
  else if c = 0 then some none else none

/-- Format V of VX and VY: op, vd, va, vb, ma, mb, guard, and bits 7:0. -/
def packV (op : BitVec 7) (o : VOp) (low : BitVec 8) : BitVec 56 :=
  op ++ o.vd ++ o.va ++ o.vb ++ o.ma ++ o.mb ++ packG o.g ++ low

/-- The low byte of a V field: fc 7:4, rnd 3:1, x 0. -/
def packFRX (f : BitVec 4) (r : BitVec 3) (x : Bool) : BitVec 8 := f ++ r ++ bit1 x

/-- Format X of XF. -/
def packX (op : BitVec 5) (td ta : BitVec 6) (fn : BitVec 7) : BitVec 24 := op ++ td ++ ta ++ fn
/-- Format XI of XF. -/
def packXI (op : BitVec 5) (q : BitVec 16) : BitVec 24 := op ++ q ++ 0#3

/-- Format MA of MEM. -/
def packMA (op : BitVec 7) (td : BitVec 6) (hh : BitVec 5) (sx sy : BitVec 6) (gg : BitVec 3) (tr : BitVec 1)
    (cst : BitVec 5) (fl : BitVec 9) : BitVec 48 :=
  op ++ td ++ hh ++ sx ++ sy ++ gg ++ tr ++ cst ++ fl
/-- Format MB of MEM. -/
def packMB (op : BitVec 7) (fn : BitVec 6) (hh : BitVec 5) (sx sy : BitVec 6) (imm : BitVec 18) : BitVec 48 :=
  op ++ fn ++ hh ++ sx ++ sy ++ imm
/-- Format MR of MEM. -/
def packMR (op : BitVec 7) (dir : BitVec 1) (lane : BitVec 3) (tap td sx : BitVec 6) (imm : BitVec 19) : BitVec 48 :=
  op ++ dir ++ lane ++ tap ++ td ++ sx ++ imm
/-- Format M of MX. -/
def packMX (op : BitVec 5) (ua : BitVec 9) (td : BitVec 6) (fn : BitVec 12) : BitVec 32 := op ++ ua ++ td ++ fn
/-- Format F of FAB. -/
def packF (op : BitVec 4) (sc : BitVec 6) (off : BitVec 12) (td : BitVec 6) (fn : BitVec 4) : BitVec 32 :=
  op ++ sc ++ off ++ td ++ fn
/-- Format CB of CTL. -/
def packCB (op sc : BitVec 6) (cond : BitVec 4) (disp : BitVec 24) : BitVec 40 := op ++ sc ++ cond ++ disp
/-- Format CP of CTL. -/
def packCP (op : BitVec 6) (p : BitVec 5) (pol : BitVec 1) (disp : BitVec 24) : BitVec 40 :=
  op ++ p ++ pol ++ 0#4 ++ disp
/-- Format CL of CTL. -/
def packCL (op sc : BitVec 6) (disp : BitVec 18) : BitVec 40 := op ++ sc ++ 0#10 ++ disp
/-- Format CLI of CTL. -/
def packCLI (op : BitVec 6) (cnt : BitVec 16) (disp : BitVec 18) : BitVec 40 := op ++ cnt ++ disp
/-- Format CI of CTL. -/
def packCI (op : BitVec 6) (imm : BitVec 32) : BitVec 40 := op ++ 0#2 ++ imm
/-- Format CS of CTL. -/
def packCS (op sc : BitVec 6) (imm : BitVec 28) : BitVec 40 := op ++ sc ++ imm
/-- Format CW of CTL. -/
def packCW (op : BitVec 6) (hh : BitVec 5) (sx : BitVec 6) (ph : BitVec 1) : BitVec 40 := op ++ hh ++ sx ++ ph ++ 0#22
/-- Format CZ of CTL. -/
def packCZ (op : BitVec 6) : BitVec 40 := op ++ 0#34


/-- The SA and SB map (R78, R85). -/
def decodeSA (f : BitVec 40) : Option Instr :=
  let rd := f.extractLsb' 27 6
  let ra := f.extractLsb' 21 6
  let rb := f.extractLsb' 15 6
  let rc := f.extractLsb' 9 6
  let fn := f.extractLsb' 0 9
  match (f.extractLsb' 33 7).toNat with
  | 0x01 =>
    gate (rc == 0 && fn == 0) (.add rd ra rb)
  | 0x02 =>
    gate (rc == 0 && fn == 0) (.sub rd ra rb)
  | 0x03 =>
    gate true (.addi rd ra (f.extractLsb' 0 21))
  | 0x04 =>
    gate (rc == 0 && fn == 0) (.mul rd ra rb)
  | 0x05 =>
    gate (rc == 0 && fn.extractLsb' 1 8 == 0) (.mulh (bitAt fn 0) rd ra rb)
  | 0x06 =>
    gate (rc == 0 && fn.extractLsb' 1 8 == 0) (.div (bitAt fn 0) rd ra rb)
  | 0x07 =>
    gate (rc == 0 && fn.extractLsb' 1 8 == 0) (.rem (bitAt fn 0) rd ra rb)
  | 0x08 =>
    gate (rc == 0 && fn == 0) (.and rd ra rb)
  | 0x09 =>
    gate (rc == 0 && fn == 0) (.or rd ra rb)
  | 0x0A =>
    gate (rc == 0 && fn == 0) (.xor rd ra rb)
  | 0x0B =>
    gate (rc == 0 && fn == 0) (.andn rd ra rb)
  | 0x0C =>
    if bitAt fn 0 then gate (rb == 0 && fn.extractLsb' 1 8 == 0) (.shl rd ra (.imm rc))
      else gate (rc == 0 && fn.extractLsb' 1 8 == 0) (.shl rd ra (.reg rb))
  | 0x0D =>
    if bitAt fn 0 then gate (rb == 0 && fn.extractLsb' 1 8 == 0) (.shr rd ra (.imm rc))
      else gate (rc == 0 && fn.extractLsb' 1 8 == 0) (.shr rd ra (.reg rb))
  | 0x0E =>
    if bitAt fn 0 then gate (rb == 0 && fn.extractLsb' 1 8 == 0) (.sar rd ra (.imm rc))
      else gate (rc == 0 && fn.extractLsb' 1 8 == 0) (.sar rd ra (.reg rb))
  | 0x0F =>
    if bitAt fn 0 then gate (rb == 0 && fn.extractLsb' 1 8 == 0) (.rot rd ra (.imm rc))
      else gate (rc == 0 && fn.extractLsb' 1 8 == 0) (.rot rd ra (.reg rb))
  | 0x10 =>
    gate (rb == 0 && rc == 0 && fn == 0) (.clz rd ra)
  | 0x11 =>
    gate (rb == 0 && rc == 0 && fn == 0) (.ctz rd ra)
  | 0x12 =>
    gate (rb == 0 && rc == 0 && fn == 0) (.popc rd ra)
  | 0x13 =>
    gate (rc == 0 && fn.extractLsb' 1 8 == 0) (.min (bitAt fn 0) rd ra rb)
  | 0x14 =>
    gate (rc == 0 && fn.extractLsb' 1 8 == 0) (.max (bitAt fn 0) rd ra rb)
  | 0x15 =>
    (icondOf (fn.extractLsb' 0 4)).bind fun c => gate (rc == 0 && fn.extractLsb' 4 5 == 0) (.cmp c rd ra rb)
  | 0x16 =>
    gate (fn == 0) (.sel rd ra rb rc)
  | 0x17 =>
    gate true (.movi rd (f.extractLsb' 0 27))
  | 0x18 =>
    gate true (.movhi rd (f.extractLsb' 0 27))
  | 0x19 =>
    gate (fn.extractLsb' 1 8 == 0) (.bfx (bitAt fn 0) rd ra rb rc)
  | 0x1A =>
    gate (fn == 0) (.bfi rd ra rb rc)
  | 0x1B =>
    gate true (.lds rd ra (f.extractLsb' 19 2) (bitAt f 18) (f.extractLsb' 0 18))
  | 0x1C =>
    gate (!(bitAt f 18)) (.sts rd ra (f.extractLsb' 19 2) (f.extractLsb' 0 18))
  | 0x1D =>
    (amosOf (fn.extractLsb' 0 4)).bind fun o => gate (fn.extractLsb' 5 4 == 0) (.amos o (bitAt fn 4) rd ra rb rc)
  | 0x20 =>
    (rselOf (fn.extractLsb' 1 3)).bind fun r => gate (rc == 0 && fn.extractLsb' 4 5 == 0) (.fadd (bitAt fn 0) r rd ra rb)
  | 0x21 =>
    (rselOf (fn.extractLsb' 1 3)).bind fun r => gate (rc == 0 && fn.extractLsb' 4 5 == 0) (.fsub (bitAt fn 0) r rd ra rb)
  | 0x22 =>
    (rselOf (fn.extractLsb' 1 3)).bind fun r => gate (rc == 0 && fn.extractLsb' 4 5 == 0) (.fmul (bitAt fn 0) r rd ra rb)
  | 0x23 =>
    (rselOf (fn.extractLsb' 1 3)).bind fun r => gate (fn.extractLsb' 4 5 == 0) (.ffma (bitAt fn 0) r rd ra rb rc)
  | 0x24 =>
    (rselOf (fn.extractLsb' 1 3)).bind fun r => gate (rc == 0 && fn.extractLsb' 4 5 == 0) (.fdiv (bitAt fn 0) r rd ra rb)
  | 0x25 =>
    (rselOf (fn.extractLsb' 1 3)).bind fun r => gate (rb == 0 && rc == 0 && fn.extractLsb' 4 5 == 0) (.fsqrt (bitAt fn 0) r rd ra)
  | 0x26 =>
    (fcondOf (fn.extractLsb' 4 4)).bind fun c => gate (rc == 0 && fn.extractLsb' 1 3 == 0 && fn.extractLsb' 8 1 == 0) (.fcmp c (bitAt fn 0) rd ra rb)
  | 0x27 =>
    (cvtTyOf (fn.extractLsb' 4 3)).bind fun d => (cvtTyOf (rc.extractLsb' 0 3)).bind fun sr =>
      (rselOf (fn.extractLsb' 1 3)).bind fun r =>
        gate (rb == 0 && rc.extractLsb' 3 3 == 0 && fn.extractLsb' 0 1 == 0 && fn.extractLsb' 7 2 == 0) (.cvt d sr r rd ra)
  | 0x28 =>
    gate (f.extractLsb' 0 19 == 0) (.mfc rd (f.extractLsb' 19 8))
  | 0x29 =>
    gate (f.extractLsb' 0 19 == 0) (.mtc (f.extractLsb' 19 8) rd)
  | 0x30 =>
    if bitAt fn 0 then gate (rd.extractLsb' 5 1 == 0 && rc == 0 && fn.extractLsb' 1 8 == 0) (.hbind (rd.extractLsb' 0 5) ra (some rb))
      else gate (rd.extractLsb' 5 1 == 0 && rb == 0 && rc == 0 && fn.extractLsb' 1 8 == 0) (.hbind (rd.extractLsb' 0 5) ra none)
  | 0x31 =>
    gate (rd.extractLsb' 5 1 == 0 && ra.extractLsb' 5 1 == 0 && rb == 0 && rc == 0 && fn == 0) (.hmov (rd.extractLsb' 0 5) (ra.extractLsb' 0 5))
  | 0x32 =>
    (hqOf (fn.extractLsb' 0 3)).bind fun q => gate (ra.extractLsb' 5 1 == 0 && rb == 0 && rc == 0 && fn.extractLsb' 3 6 == 0) (.hqry q rd (ra.extractLsb' 0 5))
  | 0x33 =>
    gate (rd.extractLsb' 3 3 == 0 && rc.extractLsb' 3 3 == 0 && rb == 0 && fn == 0) (.gset (rd.extractLsb' 0 3) (rc.extractLsb' 0 3) ra)
  | 0x34 =>
    gate (rc.extractLsb' 3 3 == 0 && rb == 0 && fn == 0) (.tset rd (rc.extractLsb' 0 3) ra)
  | 0x35 =>
    gate (rd.extractLsb' 3 3 == 0 && rb == 0 && rc == 0 && fn == 0) (.mpset (rd.extractLsb' 0 3) ra)
  | _ => none

/-- The VX and VY map (R79, R86) under a decoded guard. -/
def decodeVOp (f : BitVec 56) (o : VOp) : Option Instr :=
  let low := f.extractLsb' 0 8
  let fc := f.extractLsb' 4 4
  let rnd := f.extractLsb' 1 3
  let x := bitAt f 0
  match (f.extractLsb' 49 7).toNat with
  | 0x01 =>
    (fmtOf fc).bind fun c => (rselOf rnd).bind fun r => gate (!x) (.vadd c r o)
  | 0x02 =>
    (fmtOf fc).bind fun c => (rselOf rnd).bind fun r => gate (!x) (.vsub c r o)
  | 0x03 =>
    (fmtOf fc).bind fun c => (rselOf rnd).bind fun r => gate (!x) (.vmul c r o)
  | 0x04 =>
    (fmtOf fc).bind fun c => (rselOf rnd).bind fun r => gate (!x) (.vfma c r o)
  | 0x05 =>
    (fmtOf fc).bind fun c => gate (rnd == 0 && !x) (.vmin c o)
  | 0x06 =>
    (fmtOf fc).bind fun c => gate (rnd == 0 && !x) (.vmax c o)
  | 0x07 =>
    (fmtOf fc).bind fun c => gate (rnd == 0 && !x) (.vabs c o)
  | 0x08 =>
    (fmtOf fc).bind fun c => gate (rnd == 0 && !x) (.vneg c o)
  | 0x09 =>
    (fmtOf fc).bind fun c => gate (rnd == 0 && !x) (.vmulh c o)
  | 0x0A =>
    (fmtOf fc).bind fun c => gate (rnd == 0 && !x) (.vdot4 c o)
  | 0x10 =>
    gate (low == 0) (.vand o)
  | 0x11 =>
    gate (low == 0) (.vor o)
  | 0x12 =>
    gate (low == 0) (.vxor o)
  | 0x13 =>
    gate (low == 0) (.vnot o)
  | 0x14 =>
    (fmtOf fc).bind fun c => gate (rnd == 0) (.vshl c x o)
  | 0x15 =>
    (fmtOf fc).bind fun c => gate (rnd == 0) (.vshr c x o)
  | 0x16 =>
    (fmtOf fc).bind fun c => gate (rnd == 0) (.vsar c x o)
  | 0x18 =>
    (fmtOf fc).bind fun c => gate true (.vcmp c (low.extractLsb' 0 4) o)
  | 0x19 =>
    (fmtOf fc).bind fun c => (pcondOf (low.extractLsb' 0 4)).bind fun k => gate true (.vcmpt c k o)
  | 0x1A =>
    gate (low.extractLsb' 0 3 == 0) (.vsel (low.extractLsb' 3 5) o)
  | 0x1B =>
    (fmtOf fc).bind fun c => gate true (.vcas c (low.extractLsb' 0 4) o)
  | 0x20 =>
    (fmtOf fc).bind fun c => gate (rnd == 0 && !x) (.vmov c o)
  | 0x21 =>
    (fmtOf fc).bind fun c => gate (rnd == 0 && !x) (.vbcast c o)
  | 0x22 =>
    (fmtOf fc).bind fun c => gate (rnd == 0 && !x) (.vidx c o)
  | 0x23 =>
    gate (low == 0) (.vperm o)
  | 0x24 =>
    gate (low == 0) (.vshuf o)
  | 0x25 =>
    gate (low.extractLsb' 1 7 == 0) (.vrot x o)
  | 0x28 =>
    (fmtOf fc).bind fun c => (rselOf rnd).bind fun r => gate (!x) (.vredadd c r o)
  | 0x29 =>
    (fmtOf fc).bind fun c => gate (rnd == 0 && !x) (.vredmax c o)
  | 0x2A =>
    (fmtOf fc).bind fun c => gate (rnd == 0 && !x) (.vredmin c o)
  | 0x2B =>
    (fmtOf fc).bind fun c => (rselOf rnd).bind fun r => (combOf (o.vb.extractLsb' 0 2)).bind fun k => gate (!x && o.vb.extractLsb' 2 7 == 0) (.vscan k c r (VOp.mk o.vd o.va 0 o.ma o.mb o.g))
  | 0x30 =>
    (fmtOf fc).bind fun c => (rselOf rnd).bind fun r => gate (!x) (.vexp2 c r o)
  | 0x31 =>
    (fmtOf fc).bind fun c => (rselOf rnd).bind fun r => gate (!x) (.vlog2 c r o)
  | 0x32 =>
    (fmtOf fc).bind fun c => (rselOf rnd).bind fun r => gate (!x) (.vrcp c r o)
  | 0x33 =>
    (fmtOf fc).bind fun c => (rselOf rnd).bind fun r => gate (!x) (.vrsq c r o)
  | 0x38 =>
    (fmtOf fc).bind fun c => (rselOf rnd).bind fun r => (fmtOf (o.vb.extractLsb' 0 4)).bind fun sc => gate (!x && o.vb.extractLsb' 4 5 == 0) (.vcvt c sc r (VOp.mk o.vd o.va 0 o.ma o.mb o.g))
  | 0x39 =>
    (fmtOf fc).bind fun c => (rselOf rnd).bind fun r => gate true (.vqnt c x r o)
  | 0x3A =>
    (fmtOf fc).bind fun c => (rselOf rnd).bind fun r => gate true (.vdq c x r o)
  | 0x3B =>
    (fmtOf fc).bind fun c => gate (rnd == 0 && !x) (.vsat c o)
  | 0x3C =>
    (fmtOf fc).bind fun c => gate (rnd == 0 && !x) (.vpack c o)
  | 0x3D =>
    (fmtOf fc).bind fun c => gate (rnd == 0) (.vunpk c x o)
  | 0x3E =>
    (fmtOf fc).bind fun c => gate (rnd == 0 && !x) (.vlmul c o)
  | 0x3F =>
    (fmtOf fc).bind fun c => gate (rnd == 0 && !x) (.vllin c o)
  | 0x40 =>
    gate (low == 0) (.vpand o)
  | 0x41 =>
    gate (low == 0) (.vpor o)
  | 0x42 =>
    gate (low == 0) (.vpnot o)
  | 0x43 =>
    gate (low == 0) (.vpcnt o)
  | 0x44 =>
    gate (low == 0) (.vpfst o)
  | 0x48 =>
    gate (low == 0) (.vld o)
  | 0x49 =>
    gate (low == 0) (.vst o)
  | 0x4A =>
    (fmtOf fc).bind fun c => gate (rnd == 0 && !x) (.vgath c o)
  | 0x4B =>
    (fmtOf fc).bind fun c => gate (rnd == 0 && !x) (.vscat c o)
  | 0x4C =>
    gate (low == 0) (.vpop o)
  | _ => none

/-- The VX and VY map (R79, R80, R86). -/
def decodeV (f : BitVec 56) : Option Instr :=
  (guardOf (f.extractLsb' 8 8)).bind fun g =>
    decodeVOp f (VOp.mk (f.extractLsb' 40 9) (f.extractLsb' 31 9) (f.extractLsb' 22 9) (f.extractLsb' 19 3)
      (f.extractLsb' 16 3) g)

/-- The XF map (R82, R87, R254 to R260). -/
def decodeXF (f : BitVec 24) : Option Instr :=
  let td := f.extractLsb' 13 6
  let ta := f.extractLsb' 7 6
  let fn := f.extractLsb' 0 7
  match (f.extractLsb' 19 5).toNat with
  | 0x01 =>
    gate (td == 0) (.xexp ta (fn.extractLsb' 3 4) (fn.extractLsb' 0 3))
  | 0x02 =>
    gate (f.extractLsb' 0 3 == 0) (.xratio (f.extractLsb' 3 16))
  | 0x03 =>
    gate (fn == 0) (.xtrn td ta)
  | 0x04 =>
    (fmtOf (fn.extractLsb' 3 4)).bind fun c => (rselOf (fn.extractLsb' 0 3)).bind fun r => gate true (.xcvt td ta c r)
  | 0x05 =>
    (fmtOf (fn.extractLsb' 3 4)).bind fun c => (rselOf (fn.extractLsb' 0 3)).bind fun r => gate true (.xpack td ta c r)
  | _ => none

/-- The MEM map (R82, R87, R266 to R303, R329). -/
def decodeMEM (f : BitVec 48) : Option Instr :=
  let td := f.extractLsb' 35 6
  let fn := f.extractLsb' 35 6
  let hh := f.extractLsb' 30 5
  let sx := f.extractLsb' 24 6
  let sy := f.extractLsb' 18 6
  let gg := f.extractLsb' 15 3
  let tr := bitAt f 14
  let cst := f.extractLsb' 9 5
  let fl := f.extractLsb' 0 9
  let imm := f.extractLsb' 0 18
  match (f.extractLsb' 41 7).toNat with
  | 0x01 =>
    gate (fl.extractLsb' 2 7 == 0) (.ldt (bitAt f 0) (bitAt f 1) (TileOp.mk td hh sx sy gg tr cst))
  | 0x02 =>
    gate (fl.extractLsb' 2 7 == 0) (.ldts (bitAt f 0) (bitAt f 1) (TileOp.mk td hh sx sy gg tr cst))
  | 0x03 =>
    gate (fl == 0) (.stt (TileOp.mk td hh sx sy gg tr cst))
  | 0x04 =>
    if hh = 0 then gate (imm == 0) (.chkpT td sx sy)
    else gate (hh == 1) (.chkpQ td sx sy imm)
  | 0x05 =>
    gate (fl == 0) (.pft (TileOp.mk td hh sx sy gg tr cst))
  | 0x06 =>
    if bitAt f 0 then gate (hh == 0 && !tr && cst == 0 && fl.extractLsb' 1 8 == 0) (.tmovOut td sx sy gg)
    else gate (hh == 0 && !tr && cst == 0 && fl.extractLsb' 1 8 == 0) (.tmovIn td sx sy gg)
  | 0x08 =>
    (amoOf (fn.extractLsb' 0 4)).bind fun o =>
      gate true (.amo o (bitAt fn 4) (bitAt fn 5) hh sx sy (imm.extractLsb' 12 6) (imm.extractLsb' 0 12))
  | 0x09 =>
    (scopeOf fn).bind fun k => gate (sx == 0 && imm == 0) (.relv k hh sy)
  | 0x0A =>
    (scopeOf fn).bind fun k =>
      gate (sx == 0 && imm.extractLsb' 7 5 == 0) (.acqv k hh sy (imm.extractLsb' 12 6) (imm.extractLsb' 0 7))
  | 0x0B =>
    gate (fn == 0 && imm.extractLsb' 17 1 == 0) (.bari hh sx sy (imm.extractLsb' 0 17))
  | 0x0C =>
    gate (fn.extractLsb' 2 4 == 0 && imm == 0) (.bara (bitAt fn 0) (bitAt fn 1) hh sx sy)
  | 0x10 =>
    gate (f.extractLsb' 0 35 == 0) (.xcopy td)
  | 0x11 =>
    gate (f.extractLsb' 0 35 == 0) (.xchain td)
  | 0x12 =>
    gate (f.extractLsb' 0 35 == 0) (.xgath td)
  | 0x13 =>
    gate (f.extractLsb' 0 35 == 0) (.xcoll td)
  | 0x14 =>
    gate (f.extractLsb' 0 35 == 0) (.gstep td)
  | 0x18 =>
    gate (fn.extractLsb' 3 3 == 0 && hh == 0 && imm == 0) (.qput sx sy (fn.extractLsb' 0 3))
  | 0x19 =>
    gate (fn.extractLsb' 3 3 == 0 && hh == 0 && sy == 0) (.qget (fn.extractLsb' 0 3) sx imm)
  | 0x1C =>
    gate (f.extractLsb' 9 10 == 0)
      (.rput (bitAt f 40) (f.extractLsb' 37 3) (f.extractLsb' 31 6) (f.extractLsb' 25 6) (f.extractLsb' 19 6) (f.extractLsb' 0 9))
  | 0x1D =>
    gate (f.extractLsb' 9 10 == 0)
      (.rtap (bitAt f 40) (f.extractLsb' 37 3) (f.extractLsb' 31 6) (f.extractLsb' 25 6) (f.extractLsb' 19 6) (f.extractLsb' 0 9))
  | 0x1E =>
    gate (gg == 0 && !tr && cst == 0) (.pfxlook (bitAt f 8) (f.extractLsb' 0 8) td hh sx sy)
  | 0x40 =>
    gate (fn.extractLsb' 3 3 == 0 && hh == 0 && imm.extractLsb' 17 1 == 0) (.tlbi (fn.extractLsb' 0 2) (bitAt fn 2) sx sy (imm.extractLsb' 0 17))
  | 0x41 =>
    gate (fn == 0 && hh == 0 && imm == 0) (.otw sx sy)
  | 0x42 =>
    gate (fn == 0 && hh == 0 && sx == 0 && imm == 0) (.oti sy)
  | 0x43 =>
    gate (fn.extractLsb' 2 4 == 0 && hh == 0 && sx == 0 && imm == 0) (.ota (bitAt fn 0) (bitAt fn 1) sy)
  | 0x44 =>
    gate (fn == 0 && imm == 0) (.ctxsave hh sx sy)
  | 0x45 =>
    gate (fn == 0 && imm == 0) (.ctxrest hh sx sy)
  | 0x46 =>
    gate (fn.extractLsb' 3 3 == 0 && hh == 0) (.ldp (fn.extractLsb' 0 3) sx sy imm)
  | 0x47 =>
    gate (fn.extractLsb' 3 3 == 0 && hh == 0) (.stp (fn.extractLsb' 0 3) sx sy imm)
  | 0x48 =>
    gate (fn == 0 && hh == 0 && imm.extractLsb' 16 2 == 0) (.keyw sx sy (imm.extractLsb' 0 16))
  | 0x49 =>
    gate (fn.extractLsb' 1 5 == 0 && hh == 0 && sy == 0 && imm == 0) (.keyz (bitAt fn 0) sx)
  | _ => none

/-- The MX map (R82, R87). -/
def decodeMX (f : BitVec 32) : Option Instr :=
  let ua := f.extractLsb' 18 9
  match (f.extractLsb' 27 5).toNat with
  | 0x01 =>
    gate (f.extractLsb' 0 18 == 0) (.mcall ua)
  | 0x02 =>
    gate (f.extractLsb' 0 18 == 0) (.mcallw ua)
  | 0x03 =>
    gate (f.extractLsb' 9 3 == 0) (.mldstore ua (f.extractLsb' 12 6) (f.extractLsb' 0 9))
  | _ => none

/-- The FAB map (R82, R87, R304). -/
def decodeFAB (f : BitVec 32) : Option Instr :=
  let sc := f.extractLsb' 22 6
  let off := f.extractLsb' 10 12
  let td := f.extractLsb' 4 6
  let fn := f.extractLsb' 0 4
  match (f.extractLsb' 28 4).toNat with
  | 0x1 =>
    gate true (.fsend sc off td fn)
  | 0x2 =>
    gate true (.frecv sc off td fn)
  | 0x3 =>
    (combOf (fn.extractLsb' 0 2)).bind fun k => gate true (.frecva k sc off td (fn.extractLsb' 2 2))
  | 0x4 =>
    gate (fn == 0 && off.extractLsb' 7 5 == 0) (.fmark sc (off.extractLsb' 0 7) td)
  | 0x5 =>
    gate (fn == 0 && td == 0) (.frdv sc off)
  | 0x6 =>
    if fn = 0 then gate (sc == 0 && off.extractLsb' 7 5 == 0) (.fctlSync (off.extractLsb' 0 7) td)
    else gate (fn == 1 && sc == 0 && off.extractLsb' 7 5 == 0) (.fctlStat (off.extractLsb' 0 7) td)
  | _ => none

/-- The CTL map (R82, R88). -/
def decodeCTL (f : BitVec 40) : Option Instr :=
  let sc := f.extractLsb' 28 6
  let cond := f.extractLsb' 24 4
  let disp := f.extractLsb' 0 24
  match (f.extractLsb' 34 6).toNat with
  | 0x01 =>
    (icondOf cond).bind fun c => gate true (.br c sc disp)
  | 0x02 =>
    gate (cond == 0) (.brp (f.extractLsb' 29 5) (bitAt f 28) disp)
  | 0x03 =>
    if cond = 0 then gate (sc == 0) (.jmp none disp)
    else gate (cond == 1 && disp == 0) (.jmp (some sc) 0)
  | 0x04 =>
    if cond = 0 then gate (sc == 0) (.call none disp)
    else gate (cond == 1 && disp == 0) (.call (some sc) 0)
  | 0x05 =>
    gate (f.extractLsb' 0 34 == 0) .ret
  | 0x06 =>
    gate (f.extractLsb' 18 10 == 0) (.loop sc (f.extractLsb' 0 18))
  | 0x07 =>
    gate true (.loopi (f.extractLsb' 18 16) (f.extractLsb' 0 18))
  | 0x08 =>
    (icondOf cond).bind fun c => gate (disp == 0) (.lbrk c sc)
  | 0x09 =>
    gate (f.extractLsb' 0 28 == 0) (.fmtset sc)
  | 0x0A =>
    gate (f.extractLsb' 32 2 == 0) (.fmtseti (f.extractLsb' 0 32))
  | 0x0B =>
    gate (f.extractLsb' 0 22 == 0) (.waitb (f.extractLsb' 29 5) (f.extractLsb' 23 6) (bitAt f 22))
  | 0x0C =>
    gate true (.waitc sc (f.extractLsb' 0 28))
  | 0x0D =>
    gate (f.extractLsb' 0 34 == 0) .yield
  | 0x0E =>
    gate (f.extractLsb' 0 34 == 0) .halt
  | 0x0F =>
    gate (f.extractLsb' 16 18 == 0) (.trap (f.extractLsb' 0 16))
  | 0x10 =>
    gate (f.extractLsb' 16 18 == 0) (.kcall (f.extractLsb' 0 16))
  | 0x20 =>
    gate (f.extractLsb' 0 34 == 0) .kret
  | 0x21 =>
    gate (f.extractLsb' 0 34 == 0) .wfi
  | 0x22 =>
    gate (f.extractLsb' 16 12 == 0) (.ipi sc (f.extractLsb' 0 16))
  | 0x23 =>
    gate (f.extractLsb' 0 28 == 0) (.jarm sc)
  | _ => none

/-- The micro-instructions (R233, R234, R235). -/
def decodeMicro (f : BitVec 128) : Option Instr :=
  let mi := MIdx.mk (bitAt f 122) (f.extractLsb' 119 3)
  let acc := f.extractLsb' 113 6
  let ta := f.extractLsb' 107 6
  let wg := f.extractLsb' 98 9
  match (f.extractLsb' 123 5).toNat with
  | 0x01 =>
    gate (f.extractLsb' 0 66 == 0) (.mma mi acc ta wg (f.extractLsb' 88 10) (f.extractLsb' 77 11) (f.extractLsb' 67 10) (bitAt f 66))
  | 0x02 =>
    gate (f.extractLsb' 0 54 == 0)
      (.mmas mi acc ta wg (f.extractLsb' 88 10) (f.extractLsb' 77 11) (f.extractLsb' 67 10) (bitAt f 66) (f.extractLsb' 60 6) (f.extractLsb' 54 6))
  | 0x03 =>
    gate (f.extractLsb' 113 6 == 0 && f.extractLsb' 0 84 == 0)
      (.mldw mi ta wg (f.extractLsb' 96 2) (bitAt f 95) (f.extractLsb' 84 11))
  | 0x04 =>
    gate (f.extractLsb' 0 113 == 0) (.mzero mi acc)
  | 0x05 =>
    (rselOf (f.extractLsb' 88 3)).bind fun r =>
      gate (f.extractLsb' 101 6 == 0 && f.extractLsb' 66 8 == 0 && f.extractLsb' 0 60 == 0)
        (.mdrain mi acc ta (f.extractLsb' 91 10) r (bitAt f 87) (f.extractLsb' 75 12) (bitAt f 74) (f.extractLsb' 60 6))
  | 0x06 =>
    gate (f.extractLsb' 0 97 == 0) (.msumrow mi (bitAt f 97) acc ta wg)
  | 0x07 =>
    gate (f.extractLsb' 98 9 == 0 && f.extractLsb' 60 36 == 0 && f.extractLsb' 0 54 == 0) (.macc mi (f.extractLsb' 96 2) acc ta (f.extractLsb' 54 6))
  | 0x08 =>
    gate (f.extractLsb' 0 98 == 0) (.mloop mi (f.extractLsb' 107 12) wg)
  | 0x09 =>
    gate (f.extractLsb' 113 6 == 0 && f.extractLsb' 98 9 == 0 && f.extractLsb' 0 84 == 0) (.mwaitt mi ta (f.extractLsb' 91 7) (f.extractLsb' 84 7))
  | 0x0A =>
    gate (f.extractLsb' 0 97 == 0) (.mwaitb mi (f.extractLsb' 114 5) (f.extractLsb' 98 16) (bitAt f 97))
  | 0x0B =>
    gate (f.extractLsb' 64 55 == 0) (.msets mi (f.extractLsb' 32 32) (f.extractLsb' 0 32))
  | 0x0C =>
    gate (f.extractLsb' 0 123 == 0) .mend
  | _ => none

/-- A micro-instruction: uop, ix, mpx and the rest (R234). -/
def packU (op : BitVec 5) (i : MIdx) (rest : BitVec 119) : BitVec 128 := op ++ bit1 i.ix ++ i.mpx ++ rest

/-- Decoding of any field. -/
def decodeField (f : Field) : Option Instr :=
  match f with
  | .sa f => decodeSA f
  | .v f => decodeV f
  | .xf f => decodeXF f
  | .mem f => decodeMEM f
  | .mx f => decodeMX f
  | .fab f => decodeFAB f
  | .ctl f => decodeCTL f
  | .micro f => decodeMicro f

/-- The encoding of an instruction; an event has none. -/
def encode (i : Instr) : Option Field :=
  match i with
  | .add rd ra rb => some (.sa (packR 0x01 rd ra rb 0 0))
  | .sub rd ra rb => some (.sa (packR 0x02 rd ra rb 0 0))
  | .addi rd ra imm => some (.sa (packI 0x03 rd ra imm))
  | .mul rd ra rb => some (.sa (packR 0x04 rd ra rb 0 0))
  | .mulh n rd ra rb => some (.sa (packR 0x05 rd ra rb 0 (0#8 ++ bit1 n)))
  | .div n rd ra rb => some (.sa (packR 0x06 rd ra rb 0 (0#8 ++ bit1 n)))
  | .rem n rd ra rb => some (.sa (packR 0x07 rd ra rb 0 (0#8 ++ bit1 n)))
  | .and rd ra rb => some (.sa (packR 0x08 rd ra rb 0 0))
  | .or rd ra rb => some (.sa (packR 0x09 rd ra rb 0 0))
  | .xor rd ra rb => some (.sa (packR 0x0A rd ra rb 0 0))
  | .andn rd ra rb => some (.sa (packR 0x0B rd ra rb 0 0))
  | .shl rd ra (.reg rb) => some (.sa (packR 0x0C rd ra rb 0 0))
  | .shl rd ra (.imm n) => some (.sa (packR 0x0C rd ra 0 n 1))
  | .shr rd ra (.reg rb) => some (.sa (packR 0x0D rd ra rb 0 0))
  | .shr rd ra (.imm n) => some (.sa (packR 0x0D rd ra 0 n 1))
  | .sar rd ra (.reg rb) => some (.sa (packR 0x0E rd ra rb 0 0))
  | .sar rd ra (.imm n) => some (.sa (packR 0x0E rd ra 0 n 1))
  | .rot rd ra (.reg rb) => some (.sa (packR 0x0F rd ra rb 0 0))
  | .rot rd ra (.imm n) => some (.sa (packR 0x0F rd ra 0 n 1))
  | .clz rd ra => some (.sa (packR 0x10 rd ra 0 0 0))
  | .ctz rd ra => some (.sa (packR 0x11 rd ra 0 0 0))
  | .popc rd ra => some (.sa (packR 0x12 rd ra 0 0 0))
  | .min n rd ra rb => some (.sa (packR 0x13 rd ra rb 0 (0#8 ++ bit1 n)))
  | .max n rd ra rb => some (.sa (packR 0x14 rd ra rb 0 (0#8 ++ bit1 n)))
  | .cmp c rd ra rb => some (.sa (packR 0x15 rd ra rb 0 (0#5 ++ icondCode c)))
  | .sel rd ra rb rc => some (.sa (packR 0x16 rd ra rb rc 0))
  | .movi rd imm => some (.sa (packL 0x17 rd imm))
  | .movhi rd imm => some (.sa (packL 0x18 rd imm))
  | .bfx sg rd ra pos len1 => some (.sa (packR 0x19 rd ra pos len1 (0#8 ++ bit1 sg)))
  | .bfi rd ra pos len1 => some (.sa (packR 0x1A rd ra pos len1 0))
  | .lds rd ra sz sx disp => some (.sa (packM 0x1B rd ra sz (bit1 sx) disp))
  | .sts rd ra sz disp => some (.sa (packM 0x1C rd ra sz 0 disp))
  | .amos o w rd ra rb rc => some (.sa (packR 0x1D rd ra rb rc (0#4 ++ bit1 w ++ amosCode o)))
  | .fadd p r rd ra rb => some (.sa (packR 0x20 rd ra rb 0 (0#5 ++ rselCode r ++ bit1 p)))
  | .fsub p r rd ra rb => some (.sa (packR 0x21 rd ra rb 0 (0#5 ++ rselCode r ++ bit1 p)))
  | .fmul p r rd ra rb => some (.sa (packR 0x22 rd ra rb 0 (0#5 ++ rselCode r ++ bit1 p)))
  | .ffma p r rd ra rb rc => some (.sa (packR 0x23 rd ra rb rc (0#5 ++ rselCode r ++ bit1 p)))
  | .fdiv p r rd ra rb => some (.sa (packR 0x24 rd ra rb 0 (0#5 ++ rselCode r ++ bit1 p)))
  | .fsqrt p r rd ra => some (.sa (packR 0x25 rd ra 0 0 (0#5 ++ rselCode r ++ bit1 p)))
  | .fcmp c p rd ra rb => some (.sa (packR 0x26 rd ra rb 0 (0#1 ++ fcondCode c ++ 0#3 ++ bit1 p)))
  | .cvt d sr r rd ra => some (.sa (packR 0x27 rd ra 0 (0#3 ++ cvtTyCode sr) (0#2 ++ cvtTyCode d ++ rselCode r ++ 0#1)))
  | .mfc rd cr => some (.sa (packC 0x28 rd cr))
  | .mtc cr rd => some (.sa (packC 0x29 rd cr))
  | .hbind hd ra none => some (.sa (packR 0x30 (0#1 ++ hd) ra 0 0 0))
  | .hbind hd ra (some rb) => some (.sa (packR 0x30 (0#1 ++ hd) ra rb 0 1))
  | .hmov hd ha => some (.sa (packR 0x31 (0#1 ++ hd) (0#1 ++ ha) 0 0 0))
  | .hqry q rd ha => some (.sa (packR 0x32 rd (0#1 ++ ha) 0 0 (0#6 ++ hqCode q)))
  | .gset gg wd ra => some (.sa (packR 0x33 (0#3 ++ gg) ra 0 (0#3 ++ wd) 0))
  | .tset td wd ra => some (.sa (packR 0x34 td ra 0 (0#3 ++ wd) 0))
  | .mpset mp ra => some (.sa (packR 0x35 (0#3 ++ mp) ra 0 0 0))
  | .vadd c r o => some (.v (packV 0x01 o (packFRX (fmtCode c) (rselCode r) false)))
  | .vsub c r o => some (.v (packV 0x02 o (packFRX (fmtCode c) (rselCode r) false)))
  | .vmul c r o => some (.v (packV 0x03 o (packFRX (fmtCode c) (rselCode r) false)))
  | .vfma c r o => some (.v (packV 0x04 o (packFRX (fmtCode c) (rselCode r) false)))
  | .vmin c o => some (.v (packV 0x05 o (packFRX (fmtCode c) 0 false)))
  | .vmax c o => some (.v (packV 0x06 o (packFRX (fmtCode c) 0 false)))
  | .vabs c o => some (.v (packV 0x07 o (packFRX (fmtCode c) 0 false)))
  | .vneg c o => some (.v (packV 0x08 o (packFRX (fmtCode c) 0 false)))
  | .vmulh c o => some (.v (packV 0x09 o (packFRX (fmtCode c) 0 false)))
  | .vdot4 c o => some (.v (packV 0x0A o (packFRX (fmtCode c) 0 false)))
  | .vand o => some (.v (packV 0x10 o 0))
  | .vor o => some (.v (packV 0x11 o 0))
  | .vxor o => some (.v (packV 0x12 o 0))
  | .vnot o => some (.v (packV 0x13 o 0))
  | .vshl c im o => some (.v (packV 0x14 o (packFRX (fmtCode c) 0 im)))
  | .vshr c im o => some (.v (packV 0x15 o (packFRX (fmtCode c) 0 im)))
  | .vsar c im o => some (.v (packV 0x16 o (packFRX (fmtCode c) 0 im)))
  | .vcmp c cc o => some (.v (packV 0x18 o (fmtCode c ++ cc)))
  | .vcmpt c k o => some (.v (packV 0x19 o (fmtCode c ++ pcondCode k)))
  | .vsel p o => some (.v (packV 0x1A o (p ++ 0#3)))
  | .vcas c pd o => some (.v (packV 0x1B o (fmtCode c ++ pd)))
  | .vmov c o => some (.v (packV 0x20 o (packFRX (fmtCode c) 0 false)))
  | .vbcast c o => some (.v (packV 0x21 o (packFRX (fmtCode c) 0 false)))
  | .vidx c o => some (.v (packV 0x22 o (packFRX (fmtCode c) 0 false)))
  | .vperm o => some (.v (packV 0x23 o 0))
  | .vshuf o => some (.v (packV 0x24 o 0))
  | .vrot im o => some (.v (packV 0x25 o (0#7 ++ bit1 im)))
  | .vredadd c r o => some (.v (packV 0x28 o (packFRX (fmtCode c) (rselCode r) false)))
  | .vredmax c o => some (.v (packV 0x29 o (packFRX (fmtCode c) 0 false)))
  | .vredmin c o => some (.v (packV 0x2A o (packFRX (fmtCode c) 0 false)))
  | .vscan k c r o => some (.v (packV 0x2B (VOp.mk o.vd o.va (0#7 ++ combCode k) o.ma o.mb o.g) (packFRX (fmtCode c) (rselCode r) false)))
  | .vexp2 c r o => some (.v (packV 0x30 o (packFRX (fmtCode c) (rselCode r) false)))
  | .vlog2 c r o => some (.v (packV 0x31 o (packFRX (fmtCode c) (rselCode r) false)))
  | .vrcp c r o => some (.v (packV 0x32 o (packFRX (fmtCode c) (rselCode r) false)))
  | .vrsq c r o => some (.v (packV 0x33 o (packFRX (fmtCode c) (rselCode r) false)))
  | .vcvt c sc r o => some (.v (packV 0x38 (VOp.mk o.vd o.va (0#5 ++ fmtCode sc) o.ma o.mb o.g) (packFRX (fmtCode c) (rselCode r) false)))
  | .vqnt c zp r o => some (.v (packV 0x39 o (packFRX (fmtCode c) (rselCode r) zp)))
  | .vdq c zp r o => some (.v (packV 0x3A o (packFRX (fmtCode c) (rselCode r) zp)))
  | .vsat c o => some (.v (packV 0x3B o (packFRX (fmtCode c) 0 false)))
  | .vpack c o => some (.v (packV 0x3C o (packFRX (fmtCode c) 0 false)))
  | .vunpk c hi o => some (.v (packV 0x3D o (packFRX (fmtCode c) 0 hi)))
  | .vlmul c o => some (.v (packV 0x3E o (packFRX (fmtCode c) 0 false)))
  | .vllin c o => some (.v (packV 0x3F o (packFRX (fmtCode c) 0 false)))
  | .vpand o => some (.v (packV 0x40 o 0))
  | .vpor o => some (.v (packV 0x41 o 0))
  | .vpnot o => some (.v (packV 0x42 o 0))
  | .vpcnt o => some (.v (packV 0x43 o 0))
  | .vpfst o => some (.v (packV 0x44 o 0))
  | .vld o => some (.v (packV 0x48 o 0))
  | .vst o => some (.v (packV 0x49 o 0))
  | .vgath c o => some (.v (packV 0x4A o (packFRX (fmtCode c) 0 false)))
  | .vscat c o => some (.v (packV 0x4B o (packFRX (fmtCode c) 0 false)))
  | .vpop o => some (.v (packV 0x4C o 0))
  | .xexp ta nb codec => some (.xf (packX 0x01 0 ta (nb ++ codec)))
  | .xratio q => some (.xf (packXI 0x02 q))
  | .xtrn td ta => some (.xf (packX 0x03 td ta 0))
  | .xcvt td ta c r => some (.xf (packX 0x04 td ta (fmtCode c ++ rselCode r)))
  | .xpack td ta c r => some (.xf (packX 0x05 td ta (fmtCode c ++ rselCode r)))
  | .ldt st flt o => some (.mem (packMA 0x01 o.td o.hh o.sx o.sy o.gg (bit1 o.tr) o.cst (0#7 ++ bit1 flt ++ bit1 st)))
  | .ldts st flt o => some (.mem (packMA 0x02 o.td o.hh o.sx o.sy o.gg (bit1 o.tr) o.cst (0#7 ++ bit1 flt ++ bit1 st)))
  | .stt o => some (.mem (packMA 0x03 o.td o.hh o.sx o.sy o.gg (bit1 o.tr) o.cst 0))
  | .chkpT td sx sy => some (.mem (0x04#7 ++ td ++ 0#5 ++ sx ++ sy ++ 0#18))
  | .chkpQ td sx sy off => some (.mem (0x04#7 ++ td ++ 1#5 ++ sx ++ sy ++ off))
  | .pft o => some (.mem (packMA 0x05 o.td o.hh o.sx o.sy o.gg (bit1 o.tr) o.cst 0))
  | .tmovIn td sx sy gg => some (.mem (packMA 0x06 td 0 sx sy gg 0 0 0))
  | .tmovOut td sx sy gg => some (.mem (packMA 0x06 td 0 sx sy gg 0 0 1))
  | .amo o w nr hh sx sy tile word => some (.mem (packMB 0x08 (bit1 nr ++ bit1 w ++ amoCode o) hh sx sy (tile ++ word)))
  | .relv k hh sy => some (.mem (packMB 0x09 (scopeCode k) hh 0 sy 0))
  | .acqv k hh sy tile c => some (.mem (packMB 0x0A (scopeCode k) hh 0 sy (tile ++ 0#5 ++ c)))
  | .bari hh sx sy n => some (.mem (packMB 0x0B 0 hh sx sy (0#1 ++ n)))
  | .bara b p hh sx sy => some (.mem (packMB 0x0C (0#4 ++ bit1 p ++ bit1 b) hh sx sy 0))
  | .xcopy td => some (.mem (packMA 0x10 td 0 0 0 0 0 0 0))
  | .xchain td => some (.mem (packMA 0x11 td 0 0 0 0 0 0 0))
  | .xgath td => some (.mem (packMA 0x12 td 0 0 0 0 0 0 0))
  | .xcoll td => some (.mem (packMA 0x13 td 0 0 0 0 0 0 0))
  | .gstep td => some (.mem (packMA 0x14 td 0 0 0 0 0 0 0))
  | .qput sx sy q => some (.mem (packMB 0x18 (0#3 ++ q) 0 sx sy 0))
  | .qget q sx imm => some (.mem (packMB 0x19 (0#3 ++ q) 0 sx 0 imm))
  | .rput ccw lane tap td sx j => some (.mem (packMR 0x1C (bit1 ccw) lane tap td sx (0#10 ++ j)))
  | .rtap ccw lane tap td sx j => some (.mem (packMR 0x1D (bit1 ccw) lane tap td sx (0#10 ++ j)))
  | .pfxlook sh n1 td hh sx sy => some (.mem (packMA 0x1E td hh sx sy 0 0 0 (bit1 sh ++ n1)))
  | .tlbi k pkg sx sy n1 => some (.mem (packMB 0x40 (0#3 ++ bit1 pkg ++ k) 0 sx sy (0#1 ++ n1)))
  | .otw sx sy => some (.mem (packMB 0x41 0 0 sx sy 0))
  | .oti sy => some (.mem (packMB 0x42 0 0 0 sy 0))
  | .ota cm dd sy => some (.mem (packMB 0x43 (0#4 ++ bit1 dd ++ bit1 cm) 0 0 sy 0))
  | .ctxsave hh sx sy => some (.mem (packMB 0x44 0 hh sx sy 0))
  | .ctxrest hh sx sy => some (.mem (packMB 0x45 0 hh sx sy 0))
  | .ldp k sx sy disp => some (.mem (packMB 0x46 (0#3 ++ k) 0 sx sy disp))
  | .stp k sx sy disp => some (.mem (packMB 0x47 (0#3 ++ k) 0 sx sy disp))
  | .keyw sx sy tag => some (.mem (packMB 0x48 0 0 sx sy (0#2 ++ tag)))
  | .keyz all sx => some (.mem (packMB 0x49 (0#5 ++ bit1 all) 0 sx 0 0))
  | .mcall ua => some (.mx (packMX 0x01 ua 0 0))
  | .mcallw ua => some (.mx (packMX 0x02 ua 0 0))
  | .mldstore ua td n1 => some (.mx (packMX 0x03 ua td (0#3 ++ n1)))
  | .fsend sc off td n1 => some (.fab (packF 0x1 sc off td n1))
  | .frecv sc off td n1 => some (.fab (packF 0x2 sc off td n1))
  | .frecva k sc off td n1 => some (.fab (packF 0x3 sc off td (n1 ++ combCode k)))
  | .fmark sc k td => some (.fab (packF 0x4 sc (0#5 ++ k) td 0))
  | .frdv sc off => some (.fab (packF 0x5 sc off 0 0))
  | .fctlSync k td => some (.fab (packF 0x6 0 (0#5 ++ k) td 0))
  | .fctlStat k td => some (.fab (packF 0x6 0 (0#5 ++ k) td 1))
  | .br c sc disp => some (.ctl (packCB 0x01 sc (icondCode c) disp))
  | .brp p pol disp => some (.ctl (packCP 0x02 p (bit1 pol) disp))
  | .jmp none disp => some (.ctl (packCB 0x03 0 0 disp))
  | .jmp (some sc) disp => some (.ctl (packCB 0x03 sc 1 disp))
  | .call none disp => some (.ctl (packCB 0x04 0 0 disp))
  | .call (some sc) disp => some (.ctl (packCB 0x04 sc 1 disp))
  | .ret => some (.ctl (packCZ 0x05))
  | .loop sc disp => some (.ctl (packCL 0x06 sc disp))
  | .loopi cnt disp => some (.ctl (packCLI 0x07 cnt disp))
  | .lbrk c sc => some (.ctl (packCB 0x08 sc (icondCode c) 0))
  | .fmtset sc => some (.ctl (packCS 0x09 sc 0))
  | .fmtseti imm => some (.ctl (packCI 0x0A imm))
  | .waitb hh sx ph => some (.ctl (packCW 0x0B hh sx (bit1 ph)))
  | .waitc sc imm => some (.ctl (packCS 0x0C sc imm))
  | .yield => some (.ctl (packCZ 0x0D))
  | .halt => some (.ctl (packCZ 0x0E))
  | .trap code => some (.ctl (packCI 0x0F (0#16 ++ code)))
  | .kcall code => some (.ctl (packCI 0x10 (0#16 ++ code)))
  | .kret => some (.ctl (packCZ 0x20))
  | .wfi => some (.ctl (packCZ 0x21))
  | .ipi sc code => some (.ctl (packCS 0x22 sc (0#12 ++ code)))
  | .jarm sc => some (.ctl (packCS 0x23 sc 0))
  | .mma i acc ta wg ka kb kn adv => some (.micro (packU 0x01 i (acc ++ ta ++ wg ++ ka ++ kb ++ kn ++ bit1 adv ++ 0#66)))
  | .mmas i acc ta wg ka kb kn adv st sacc => some (.micro (packU 0x02 i (acc ++ ta ++ wg ++ ka ++ kb ++ kn ++ bit1 adv ++ st ++ sacc ++ 0#54)))
  | .mldw i ts wg form sc kn => some (.micro (packU 0x03 i (0#6 ++ ts ++ wg ++ form ++ bit1 sc ++ kn ++ 0#84)))
  | .mzero i acc => some (.micro (packU 0x04 i (acc ++ 0#113)))
  | .mdrain i acc td c0 r ar tag q qs => some (.micro (packU 0x05 i (acc ++ td ++ 0#6 ++ c0 ++ rselCode r ++ bit1 ar ++ tag ++ bit1 q ++ 0#8 ++ qs ++ 0#60)))
  | .msumrow i b acc ta wg => some (.micro (packU 0x06 i (acc ++ ta ++ wg ++ bit1 b ++ 0#97)))
  | .macc i mode acc ta acc2 => some (.micro (packU 0x07 i (acc ++ ta ++ 0#9 ++ mode ++ 0#36 ++ acc2 ++ 0#54)))
  | .mloop i cnt last => some (.micro (packU 0x08 i (cnt ++ last ++ 0#98)))
  | .mwaitt i ta first cm => some (.micro (packU 0x09 i (0#6 ++ ta ++ 0#9 ++ first ++ cm ++ 0#84)))
  | .mwaitb i hh idx ph => some (.micro (packU 0x0A i (hh ++ idx ++ bit1 ph ++ 0#97)))
  | .msets i tsa tsb => some (.micro (packU 0x0B i (0#55 ++ tsa ++ tsb)))
  | .mend => some (.micro (0x0C#5 ++ 0#123))
  | _ => none

/-- The instruction that the decoder reads from a table word: 24 bits are an XF field and 32 bits an MX field where the
MX map takes it, else a FAB field; the other widths are those of one slot, 40 bits being an SA or else a CTL field. -/
def decodeTableWord (nbits w : Nat) : Option Instr :=
  match nbits with
  | 24 => decodeXF (BitVec.ofNat 24 w)
  | 32 =>
    match decodeMX (BitVec.ofNat 32 w) with
    | some i => some i
    | none => decodeFAB (BitVec.ofNat 32 w)
  | 40 =>
    match decodeSA (BitVec.ofNat 40 w) with
    | some i => some i
    | none => decodeCTL (BitVec.ofNat 40 w)
  | 48 => decodeMEM (BitVec.ofNat 48 w)
  | 56 => decodeV (BitVec.ofNat 56 w)
  | 128 => decodeMicro (BitVec.ofNat 128 w)
  | _ => none

end Sys2Proof
end

