-- ==== Sys2Proof/Machine/Ops.lean ====
section
/-! DEFINITION. The named operations over cores, registers, memories and tiles, and taking an exception and returning
from one. Within a cycle slot instructions read the state held at its start; what they write is a landing (R94). -/

namespace Sys2Proof.Machine

/-! ## Cores and dies -/

/-- Core k, keyed 0–383 compute (96·die + number), 384–447 system (16·die + number), 448 root. -/
def coreOf (s : State) (k : Nat) : Core := tblGet Core.reset s.cores k

/-- Replaces core k. -/
def setCore (s : State) (k : Nat) (c : Core) : State := { s with cores := tblPut s.cores k c }

/-- Changes core k by f. -/
def updCore (s : State) (k : Nat) (f : Core → Core) : State := setCore s k (f (coreOf s k))

/-- Die d. -/
def dieOf (s : State) (d : Nat) : Die := tblGet Die.reset s.dies d

/-- Replaces die d. -/
def setDie (s : State) (d : Nat) (x : Die) : State := { s with dies := tblPut s.dies d x }

/-- Changes die d by f. -/
def updDie (s : State) (d : Nat) (f : Die → Die) : State := setDie s d (f (dieOf s d))

/-- Whether a core has the full profile (R23). -/
def isCompute (k : Nat) : Bool := decide (k < 384)

/-- Whether a core is the root core. -/
def isRoot (k : Nat) : Bool := decide (448 ≤ k)

/-- The compute die of a core; the root core's units act as die 0 (R343). -/
def coreDie (k : Nat) : Nat := if k < 384 then k / 96 else if k < 448 then (k - 384) / 16 else 0

/-- A core's number on its die. -/
def coreNum (k : Nat) : Nat := if k < 384 then k % 96 else if k < 448 then (k - 384) % 16 else 0

/-- The key of the system core a die's notices go to (R343). -/
def noticeCore (s : State) (d : Nat) : Nat := 384 + 16 * d + ((dieOf s d).fqctl.toNat / 2 ^ 44 % 16)

/-- Scratchpad size in bytes (R23, R28). -/
def scratchSize (k : Nat) : Nat := if k < 384 then 2 * 2 ^ 20 else if k < 448 then 2 ^ 19 else 2 ^ 20

/-- The core that acts. -/
def cc (s : State) : Core := coreOf s s.cur.core

/-- Changes the core that acts. -/
def updCur (s : State) (f : Core → Core) : State := updCore s s.cur.core f

/-- A core's level (R18, R22). -/
def levelOf (k : Nat) (c : Core) : Nat := if k < 384 then c.level.toNat else if k < 448 then 1 else 3

/-- The copies of R59 of one stream. -/
def strmOf (c : Core) (sec : Bool) : Strm := if sec then c.arch.sec else c.arch.pri

/-- Replaces one stream's copies. -/
def setStrm (c : Core) (sec : Bool) (x : Strm) : Core :=
  { c with arch := if sec then { c.arch with sec := x } else { c.arch with pri := x } }

/-- Changes one stream's copies. -/
def updStrm (c : Core) (sec : Bool) (f : Strm → Strm) : Core := setStrm c sec (f (strmOf c sec))

/-! ## Bytes -/

/-- One byte of a memory. -/
def memGet (m : Mem) (a : Nat) : Byte := tblGet (0 : Byte) m a

/-- Writes one byte, keeping the canonical form. -/
def memSet (m : Mem) (a : Nat) (b : Byte) : Mem := tblSet (0 : Byte) m a b

/-- n bytes from a, little-endian, as a number (R7). -/
def memRead (m : Mem) (a n : Nat) : Nat :=
  match n with
  | 0 => 0
  | n + 1 => (memGet m a).toNat + 256 * memRead m (a + 1) n

/-- n bytes from a. -/
def memBytes (m : Mem) (a n : Nat) : List Byte :=
  match n with
  | 0 => []
  | n + 1 => memGet m a :: memBytes m (a + 1) n

/-- Writes bytes from a upwards. -/
def memWrite (m : Mem) (a : Nat) (bs : List Byte) : Mem :=
  match bs with
  | [] => m
  | b :: r => memWrite (memSet m a b) (a + 1) r

/-- n little-endian bytes of a number. -/
def bytesOf (v n : Nat) : List Byte :=
  match n with
  | 0 => []
  | n + 1 => BitVec.ofNat 8 v :: bytesOf (v / 256) n

/-- The number that bytes give, little-endian. -/
def natOfBytes (bs : List Byte) : Nat :=
  match bs with
  | [] => 0
  | b :: r => b.toNat + 256 * natOfBytes r

/-- Whether a physical address is memory of the package (R585). -/
def memMapped (a : Nat) : Bool :=
  let o := a % 2 ^ 40
  decide (a < 2 ^ 42) && (decide (o < 2 ^ 38) || (decide (2 ^ 39 ≤ o) && decide (o < 2 ^ 40)))

/-- A coolant zone. -/
def zoneOf (s : State) (z : Nat) : Zone := tblGet Zone.reset s.zones z

/-- Changes a zone. -/
def updZone (s : State) (z : Nat) (f : Zone → Zone) : State := { s with zones := tblPut s.zones z (f (zoneOf s z)) }

/-- Whether the silicon over a zone has power (R516): from live on, until off, a trip or step 2 of a drain gates it (R521). -/
def zonePowered (x : Zone) : Bool := x.power

/-- The zone of the memory that holds an address (R510): 72 + 2d the HBM4E of die d, 73 + 2d its LPDDR-6. -/
def memZone (a : Nat) : Nat := 72 + 2 * (a / 2 ^ 40) + (if a % 2 ^ 40 < 2 ^ 38 then 0 else 1)

/-- The zone of a compute or system core (R510). -/
def coreZone (k : Nat) : Nat := if k < 384 then 16 * (k / 96) + k % 96 / 8 else 16 * ((k - 384) / 16) + 12 + (k - 384) % 16 / 4

/-- The clamp level that slows a compute core (R518). -/
def clampOf (s : State) (k : Nat) : Nat := if k < 384 then (zoneOf s (coreZone k)).clamp else 0

/-- Whether n bytes from a are memory with power (R521) and none reads uncorrectable. -/
def memReadable (s : State) (a n : Nat) : Bool :=
  memMapped a && memMapped (a + n - 1) && zonePowered (zoneOf s (memZone a)) && s.uncorr.all fun u => decide (u < a) || decide (a + n ≤ u)

/-- A 64-bit word of physical memory. -/
def physWord (s : State) (a : Nat) : Word := BitVec.ofNat 64 (memRead s.mem a 8)

/-- Writes bytes of physical memory. An overwritten address reads correctable again. -/
def physWrite (s : State) (a : Nat) (bs : List Byte) : State :=
  { s with mem := memWrite s.mem a bs,
           uncorr := s.uncorr.filter fun u => decide (u < a) || decide (a + bs.length ≤ u) }

/-- Writes a 64-bit word of physical memory. -/
def physPut (s : State) (a : Nat) (v : Word) : State := physWrite s a (bytesOf v.toNat 8)

/-! ## Registers -/

/-- The slot that owns a scalar register (R25). -/
def sOwner (i : Nat) : Nat := if i < 32 then 0 else 1

/-- The slot that owns a vector register. -/
def vOwner (i : Nat) : Nat := if i < 256 then 2 else 3

/-- The slot that owns a predicate register, 0–15 px and 16–31 py. -/
def pOwner (i : Nat) : Nat := if i < 16 then 2 else 3

/-- Keys of the registers in the record of values since the last align bundle (R100). -/
def keyS (sec : Bool) (i : Nat) : Nat := (if sec then 1000 else 0) + i
/-- Vector keys. -/
def keyV (i : Nat) : Nat := 2000 + i
/-- Predicate keys. -/
def keyP (i : Nat) : Nat := 3000 + i
/-- Handle keys. -/
def keyH (i : Nat) : Nat := 3100 + i
/-- Generator word keys. -/
def keyG (sec : Bool) (i : Nat) : Nat := (if sec then 3300 else 3200) + i
/-- Matrix parameter keys. -/
def keyMp (i : Nat) : Nat := 3400 + i
/-- The link register's key. -/
def keyLink (sec : Bool) : Nat := if sec then 3411 else 3410

/-- The values a register held since the last align bundle, written by a slot other than the reader, oldest first. Of an h
register that SA and SB have both written, the value before SB's write stays among them for SA after SA's own later write (DEDUCED from
R100, see the log). -/
def pastOf (c : Core) (key reader : Nat) : List Nat :=
  (c.alignHist.filter fun e => decide (e.1 = key) && decide (e.2.2 ≠ reader)).map fun e => e.2.1

/-- A cross-slot read: one of the past values or the current one (R100); the choice is free. -/
def crossRead (s : State) (key now : Nat) : Nat :=
  let past := pastOf (cc s) key s.cur.slot
  past.getD (Config.pick s.tick s.cur.slot key % (past.length + 1)) now

/-- Scalar register i of the acting stream, as the acting slot reads it (R100, R101). -/
def readS (s : State) (i : BitVec 6) : Word :=
  let now := tblGet (0 : Word) (strmOf (cc s) s.cur.sec).s i.toNat
  if sOwner i.toNat = s.cur.slot then now else BitVec.ofNat 64 (crossRead s (keyS s.cur.sec i.toNat) now.toNat)

/-- Vector register i. -/
def readV (s : State) (i : Nat) : VReg :=
  let now := tblGet (0 : VReg) (cc s).arch.v i
  if vOwner i = s.cur.slot then now else BitVec.ofNat 16384 (crossRead s (keyV i) now.toNat)

/-- Predicate register i, 0–15 px and 16–31 py. -/
def readP (s : State) (i : Nat) : PReg :=
  let now := tblGet (0 : PReg) (cc s).arch.p i
  if pOwner i = s.cur.slot then now else BitVec.ofNat 512 (crossRead s (keyP i) now.toNat)

/-- Handle register i. -/
def readH (s : State) (i : BitVec 5) : Word :=
  let now := tblGet (0 : Word) (cc s).arch.h i.toNat
  BitVec.ofNat 64 (crossRead s (keyH i.toNat) now.toNat)

/-- Word w of generator g of the acting stream. -/
def readG (s : State) (g : BitVec 3) (w : Nat) : Word :=
  let i := 8 * g.toNat + w
  let now := tblGet (0 : Word) (strmOf (cc s) s.cur.sec).g i
  BitVec.ofNat 64 (crossRead s (keyG s.cur.sec i) now.toNat)

/-- Matrix parameter i. -/
def readMp (s : State) (i : Nat) : Word :=
  let now := tblGet (0 : Word) (cc s).arch.mp i
  BitVec.ofNat 64 (crossRead s (keyMp i) now.toNat)

/-- link of the acting stream. -/
def readLink (s : State) : Word :=
  let now := (strmOf (cc s) s.cur.sec).link
  BitVec.ofNat 64 (crossRead s (keyLink s.cur.sec) now.toNat)

/-- fmt of the acting stream at the issue cycle (R50). -/
def readFmt (s : State) : Word32 := (strmOf (cc s) s.cur.sec).fmt

/-- A register write that lands l cycles after this one (R94). -/
def land (s : State) (l : Nat) (w : RegWrite) : State :=
  updCur s fun c =>
    { c with landing := c.landing ++
        [{ due := s.tick + l, age := s.cur.age, slot := s.cur.slot, sec := s.cur.sec, w := w }] }

/-- A write of a scalar register. -/
def landS (s : State) (l : Nat) (rd : BitVec 6) (v : Word) : State := land s l (.s s.cur.sec rd.toNat v)

/-- The slot has issued its field of the current bundle. -/
def issued (s : State) : State :=
  updCur s fun c => { c with pos := c.pos.set s.cur.slot (s.cur.idx + 1) }

/-- A due tick for an asynchronous operation: at least lo cycles on, the rest free. -/
def later (s : State) (lo key : Nat) : Nat := s.tick + lo + Config.delay s.tick key

/-- Puts an event on the agenda. -/
def post (s : State) (due : Nat) (i : Instr) (e : Ev) : State :=
  { s with agenda := s.agenda ++ [{ due := due, instr := i, ev := e }] }

/-- Puts an event aside that waits on the move of an object's extent (R401): none of the cycles to come is its own before then. -/
def postMv (s : State) (i : Instr) (e : Ev) (key : Nat) : State := post s (s.tick + 2 ^ 64) i { e with mv := some key }

/-! ## Faults of a slot -/

/-- trapinfo1 of R314. -/
def info1Of (off : Nat) (sec : Bool) : Word := BitVec.ofNat 64 (off % 2 ^ 32 + (if sec then 2 ^ 32 else 0))

/-- Whether a fault of an age and slot is reported before a trap: the oldest bundle, then the leftmost slot (R103). -/
def faultBefore (age slot : Nat) (p : Trap) : Bool := decide (age < p.age) || (decide (age = p.age) && decide (slot < p.slot))

/-- A precise trap of the acting slot at the acting bundle (R102, R103). -/
def precise (s : State) (cause : Nat) (i2 i3 : Word) : State :=
  updCur s fun c =>
    let t : Trap := { cause := cause, slot := s.cur.slot, sec := s.cur.sec, off := s.cur.off,
                      info0 := BitVec.ofNat 64 cause, info1 := info1Of s.cur.off s.cur.sec, info2 := i2,
                      info3 := i3, late := false, rt := false, age := s.cur.age, wait := false }
    match c.ptrap with
    | some p => if faultBefore s.cur.age s.cur.slot p then { c with ptrap := some t } else c
    | none => { c with ptrap := some t }

/-- What an instruction finds at issue: it may go on, it waits, it starts a rewind (R499), or it faults with a cause and
two information words. -/
inductive Chk where
  | ok
  | wait
  | rewind
  | fault (cause : Nat) (i2 i3 : Word)
  deriving DecidableEq, Repr

/-- The first check that does not pass decides. -/
def Chk.and (a b : Chk) : Chk :=
  match a with
  | .ok => b
  | .wait => .wait
  | .rewind => .rewind
  | .fault c x y => .fault c x y

/-- A fault where the condition holds. -/
def faultIf (b : Bool) (cause : Nat) (i2 i3 : Word) : Chk := if b then .fault cause i2 i3 else .ok

/-- A wait where the condition holds. -/
def waitIf (b : Bool) : Chk := if b then .wait else .ok

/-- Asks for a rewind of the acting core at the end of the cycle; one that records a place stands (R499, R502). -/
def askRewind (s : State) (k : Nat) (place : Option (Nat × Nat)) : State :=
  updCore s k fun c => { c with rewAsk := match c.rewAsk with | some (some p) => some (some p) | _ => some place }

/-- Performs a slot instruction under its checks: a wait issues nothing, a fault has no effect, else its effect. -/
def perform (s : State) (k : Chk) (f : State → State) : Host.Outcome State Fault Refusal :=
  match k with
  | .ok => .next (issued (f s))
  | .wait => .next s
  | .rewind => .next (askRewind s s.cur.core none)
  | .fault cause i2 i3 => .next (precise s cause i2 i3)

/-- The check of a privileged instruction (R19): level at least l. -/
def privChk (s : State) (l : Nat) : Chk := faultIf (decide (levelOf s.cur.core (cc s) < l)) 4 0 0

/-- Until a gang core's first rendezvous issues, what would be seen outside the core is a schedule fault (R439). -/
def gangChk (s : State) : Chk := faultIf ((cc s).gangWait && decide (levelOf s.cur.core (cc s) = 0)) 6 0 0

/-! ## Tiles (R34 to R38) -/

/-- Descriptor t of core k, as it stands: of the values that R100 allows for a tile that another slot wrote, the model always takes
the newest (DESIGN CHOICE, see the log). -/
def tileOf (c : Core) (t : Nat) : Tile := tblGet Tile.reset c.arch.tiles t

/-- Replaces a descriptor. -/
def setTile (c : Core) (t : Nat) (x : Tile) : Core := { c with arch := { c.arch with tiles := tblPut c.arch.tiles t x } }

/-- Changes a descriptor. -/
def updTile (c : Core) (t : Nat) (f : Tile → Tile) : Core := setTile c t (f (tileOf c t))

/-- Tag delivered (63:52). -/
def tSeq (w : Word) : Nat := w.toNat / 2 ^ 52
/-- Tag expected (51:40). -/
def tExp (w : Word) : Nat := w.toNat / 2 ^ 40 % 4096
/-- State (39:37). -/
def tState (w : Word) : Nat := w.toNat / 2 ^ 37 % 8
/-- Format code (36:33). -/
def tFmtCode (w : Word) : Nat := w.toNat / 2 ^ 33 % 16
/-- Rows (32:26, plus 1). -/
def tRows (w : Word) : Nat := w.toNat / 2 ^ 26 % 128 + 1
/-- Columns (25:16, plus 1). -/
def tCols (w : Word) : Nat := w.toNat / 2 ^ 16 % 1024 + 1
/-- Base in bytes (11:0 in chunks of 512). -/
def tBase (w : Word) : Nat := w.toNat % 4096 * 512
/-- The element format. -/
def tFmt (w : Word) : Fmt := (fmtOf (BitVec.ofNat 4 (tFmtCode w))).getD .fp32
/-- Bytes of one row (R35). -/
def tRowBytes (w : Word) : Nat := (tCols w * (fmtNty (tFmt w)).width + 7) / 8
/-- Bytes of the tile (R35). -/
def tSize (w : Word) : Nat := tRows w * tRowBytes w

/-- Writes a field of a control word: n bits from lo. -/
def setField (w : Word) (lo n v : Nat) : Word :=
  BitVec.ofNat 64 (w.toNat % 2 ^ lo + (v % 2 ^ n) * 2 ^ lo + w.toNat / 2 ^ (lo + n) * 2 ^ (lo + n))

/-- The mask of the chunks that cover bytes lo to hi − 1 (R36). -/
def chunkMask (lo hi : Nat) : BitVec 128 :=
  if hi ≤ lo then 0
  else BitVec.ofNat 128 (2 ^ ((hi - 1) / 512 + 1) - 2 ^ (lo / 512))

/-- The tile's own chunk mask. -/
def tMask (t : Tile) : BitVec 128 := chunkMask 0 (tSize t.ctl)

/-- Whether a device producer has armed the tile and has not finished (R37). -/
def tBusy (t : Tile) : Bool :=
  (decide (tState t.ctl = 1) || decide (tState t.ctl = 2)) && decide (t.prod ≠ .none) &&
    decide (t.map &&& tMask t ≠ tMask t)

/-- The tile-busy check of R37. -/
def busyChk (s : State) (t : BitVec 6) : Chk :=
  faultIf (tBusy (tileOf (cc s) t.toNat)) 9 (BitVec.ofNat 64 t.toNat) 0

/-- Whether the ready test of R38 passes over a mask. -/
def tReady (t : Tile) (m : BitVec 128) : Bool := decide (t.map &&& m = m)

/-- R38 at a consumer: wait for the mask, then compare seq with exp on the first read. -/
def readyChk (s : State) (t : BitVec 6) (m : BitVec 128) : Chk :=
  let x := tileOf (cc s) t.toNat
  if !(tReady x m) then .wait
  else faultIf (x.cmp && decide (tSeq x.ctl ≠ tExp x.ctl)) 6 (BitVec.ofNat 64 (tSeq x.ctl)) (BitVec.ofNat 64 (tExp x.ctl))

/-- The checked-load poison trap over a mask (R221 and where cited); a bit of a producer armed in the open segment
starts a rewind instead (R499). -/
def poisonChk (s : State) (t : BitVec 6) (m : BitVec 128) : Chk :=
  let x := tileOf (cc s) t.toNat
  let p := x.pois &&& m
  if p = 0 then .ok
  else if x.inSeg then .rewind
  else .fault 10 (p.extractLsb' 0 64) (p.extractLsb' 64 64)

/-- The first read has been made: the comparison of R38 is done. -/
def markRead (s : State) (t : BitVec 6) : State := updCur s fun c => updTile c t.toNat fun x => { x with cmp := false }

/-- The tile-descriptor fault. -/
def descFault (t : BitVec 6) : Chk := .fault 8 (BitVec.ofNat 64 t.toNat) 0

/-- The tile-descriptor fault under a condition. -/
def descIf (b : Bool) (t : BitVec 6) : Chk := faultIf b 8 (BitVec.ofNat 64 t.toNat) 0

/-- Arms a tile at issue: state ARMED, seq as given or equal to exp, both maps clear (R254, R271). -/
def armTile (s : State) (t : BitVec 6) (p : Producer) (seq : Option (BitVec 12)) : State :=
  land s 1 (.arm t.toNat p seq false)

/-- A producer's chunk k is complete, with or without poison (R36). -/
def setChunk (c : Core) (t k : Nat) (poison : Bool) : Core :=
  updTile c t fun x =>
    { x with map := x.map ||| BitVec.ofNat 128 (2 ^ k),
             pois := if poison then x.pois ||| BitVec.ofNat 128 (2 ^ k) else x.pois }

/-- The state field of a descriptor. -/
def setState (c : Core) (t v : Nat) : Core := updTile c t fun x => { x with ctl := setField x.ctl 37 3 v }

/-! ## Landing -/

/-- The bits of the lanes of a guard: all ones in lane i where bit i is set. -/
def laneMask (lanes : PReg) (n : Nat) : Nat :=
  match n with
  | 0 => 0
  | n + 1 => laneMask lanes n + (if lanes.getLsbD n then 0xFFFFFFFF * 2 ^ (32 * n) else 0)

/-- Old bits outside a mask, new bits inside it. -/
def blend {n : Nat} (m old new : BitVec n) : BitVec n := (old &&& ~~~m) ||| (new &&& m)

/-- A whole vector write, or the lanes of it that it touches. -/
def blendV (lanes : PReg) (old new : VReg) : VReg :=
  if lanes = BitVec.allOnes 512 then new else blend (BitVec.ofNat 16384 (laneMask lanes 512)) old new

/-- Remembers a register's value before a write by a slot (R100). -/
def remember (c : Core) (key old slot : Nat) : Core := { c with alignHist := c.alignHist ++ [(key, old, slot)] }

/-- A write of a loop-stack half (R51): number 2n is loopn.lo and 2n + 1 loopn.hi. -/
def loopWord (w : Word) (hi : Bool) : Word :=
  if hi then w else BitVec.ofNat 64 (w.toNat / 2 ^ 32 * 2 ^ 32 + w.toNat % 2)

/-- The number of valid entries from loop0 (R52). -/
def loopDepth (t : Tbl Word) (fuel : Nat) (i : Nat) : Nat :=
  match fuel with
  | 0 => i
  | f + 1 => if (tblGet (0 : Word) t (2 * i)).getLsbD 0 then loopDepth t f (i + 1) else i

/-- A control-register write (R45, R48, R52 to R55, R341): fields marked RO ignore it. -/
def writeCr (c : Core) (sec : Bool) (n : Nat) (v : Word) : Core :=
  if n = 0x00 then { c with ie := v.getLsbD 59, intrap := v.getLsbD 58 }
  else if n = 0x03 then updStrm c sec fun x => { x with fmt := BitVec.ofNat 32 (v.toNat % 2 ^ 32 / 2 ^ 13 * 2 ^ 13) }
  else if n = 0x04 then updStrm c sec fun x => { x with link := BitVec.ofNat 64 (v.toNat % 2 ^ 32) }
  else if n = 0x08 then { c with ktvb := BitVec.ofNat 64 (v.toNat / 512 * 512) }
  else if n = 0x0C then { c with htb := v }
  else if 0x10 ≤ n ∧ n ≤ 0x1B then
    updStrm c sec fun x =>
      let t := tblSet (0 : Word) x.loops (n - 0x10) (loopWord v (decide ((n - 0x10) % 2 = 1)))
      { x with loops := t, lsp := loopDepth t 6 0 }
  else if 0x20 ≤ n ∧ n ≤ 0x23 then { c with trapinfo := tblSet (0 : Word) c.trapinfo (n - 0x20) v }
  else if 0x28 ≤ n ∧ n ≤ 0x2E then
    { c with arch := { c.arch with seeds := tblSet (1 : Word) c.arch.seeds (n - 0x28) (if v = 0 then 1 else v) } }
  else c

/-- A write of word w of a descriptor (R162): word 0 sets the RW fields, seq equal to exp, and clears both maps. A write of any word
is a write of the descriptor, which leaves no sub-block captured (R302). -/
def writeTile (t : Tile) (w : Nat) (v : Word) : Tile :=
  match w with
  | 0 => { t with ctl := setField (setField v 12 4 0) 52 12 (tExp v), map := 0, pois := 0, prod := .none, cmp := true,
                  sub := 0, seqNext := false }
  | 1 => { t with map := (t.map.extractLsb' 64 64) ++ v, sub := 0 }
  | 2 => { t with map := v ++ (t.map.extractLsb' 0 64), sub := 0 }
  | 3 => { t with pois := (t.pois.extractLsb' 64 64) ++ v, sub := 0 }
  | _ => { t with pois := v ++ (t.pois.extractLsb' 0 64), sub := 0 }

/-- Word w of a generator as it is held: bits 19:9 of word 1 are reserved, and read as zero (R10, R41). -/
def genWord (w : Nat) (v : Word) : Word := if w = 1 then setField v 9 11 0 else v

/-- A device producer arms a descriptor. -/
def armWord (t : Tile) (p : Producer) (seq : Option (BitVec 12)) (seqNext inSeg : Bool) : Tile :=
  let w := setField t.ctl 37 3 1
  { t with ctl := setField w 52 12 (match seq with | some q => q.toNat | none => tExp w), map := 0, pois := 0, prod := p,
           cmp := true, sub := 0, seqNext := seqNext, inSeg := inSeg }

/-- Applies one register write. -/
def applyWrite (c : Core) (slot : Nat) (w : RegWrite) : Core :=
  match w with
  | .s sec i v =>
    let old := tblGet (0 : Word) (strmOf c sec).s i
    updStrm (remember c (keyS sec i) old.toNat slot) sec fun x => { x with s := tblSet (0 : Word) x.s i v }
  | .v i lanes val =>
    let old := tblGet (0 : VReg) c.arch.v i
    let c := remember c (keyV i) old.toNat slot
    { c with arch := { c.arch with v := tblSet (0 : VReg) c.arch.v i (blendV lanes old val) } }
  | .p i lanes val =>
    let old := tblGet (0 : PReg) c.arch.p i
    let c := remember c (keyP i) old.toNat slot
    { c with arch := { c.arch with p := tblSet (0 : PReg) c.arch.p i (blend lanes old val) } }
  | .h i v =>
    let c := remember c (keyH i) (tblGet (0 : Word) c.arch.h i).toNat slot
    { c with arch := { c.arch with h := tblSet (0 : Word) c.arch.h i v } }
  | .g sec g w v =>
    let i := 8 * g + w
    let old := tblGet (0 : Word) (strmOf c sec).g i
    updStrm (remember c (keyG sec i) old.toNat slot) sec fun x => { x with g := tblSet (0 : Word) x.g i (genWord w v) }
  | .t i w v => updTile c i fun t => writeTile t w v
  | .arm i p seq sn => updTile c i fun t => armWord t p seq sn c.segOpen
  | .clearBits i bits => updTile c i fun t => { t with map := t.map &&& ~~~bits }
  | .mp i v =>
    let c := remember c (keyMp i) (tblGet (0 : Word) c.arch.mp i).toNat slot
    { c with arch := { c.arch with mp := tblSet (0 : Word) c.arch.mp i v } }
  | .link sec v => updStrm (remember c (keyLink sec) (strmOf c sec).link.toNat slot) sec fun x => { x with link := v }
  | .fmt sec v => updStrm c sec fun x => { x with fmt := BitVec.ofNat 32 (v.toNat / 2 ^ 13 * 2 ^ 13) }
  | .xratio q => { c with arch := { c.arch with xratio := q } }
  | .cr sec n v => writeCr c sec n v

/-- Inserts an element behind those that come before it. -/
def insertBy {α : Type} (before : α → α → Bool) (a : α) (l : List α) : List α :=
  match l with
  | [] => [a]
  | b :: r => if before b a then b :: insertBy before a r else a :: b :: r

/-- A list put in order; of equals the one that stood first comes first. -/
def sortBy {α : Type} (before : α → α → Bool) (l : List α) : List α := l.foldl (fun acc x => insertBy before x acc) []

/-- Two lists as one, each in its own order: of their heads the one that first names goes first. -/
def mergeBy {α : Type} (first : α → α → Bool) (fuel : Nat) (p q : List α) : List α :=
  match fuel with
  | 0 => []
  | f + 1 =>
    match p, q with
    | [], q => q
    | p, [] => p
    | a :: p, b :: q => if first a b then a :: mergeBy first f p (b :: q) else b :: mergeBy first f (a :: p) q

/-- What the two streams do in one cycle, put in order: of one stream in its order, of two streams as first says. -/
def inTurn {α : Type} (sec : α → Bool) (before first : α → α → Bool) (l : List α) : List α :=
  mergeBy first l.length (sortBy before (l.filter fun x => !sec x)) (sortBy before (l.filter sec))

/-- Program order of two landings of one stream (R96). -/
def landsBefore (a b : Landing) : Bool := decide (a.age < b.age) || (decide (a.age = b.age) && decide (a.slot ≤ b.slot))

/-- Which of two streams' landings in one cycle applies first: left to right by slot (R107), of one slot in its own order. -/
def landsLeft (a b : Landing) : Bool := decide (a.slot < b.slot) || (decide (a.slot = b.slot) && landsBefore a b)

/-- The landings due by a tick, in the order of R96 and R107. -/
def dueLandings (l : List Landing) (t : Nat) : List Landing :=
  inTurn Landing.sec landsBefore landsLeft (l.filter fun x => decide (x.due ≤ t))

/-- Applies the landings due by tick t. -/
def landAll (c : Core) (t : Nat) : Core :=
  let now := dueLandings c.landing t
  now.foldl (fun c x => applyWrite c x.slot x.w) { c with landing := c.landing.filter fun x => decide (x.due > t) }

/-! ## Where a stream stands (R46, R47) -/

/-- Whether a dispatched bundle belongs to a stream. -/
def inStrm (sec : Bool) (d : Disp) : Bool := if sec then d.sec.isSome else d.pri.isSome

/-- Its code offset in that stream. -/
def offIn (sec : Bool) (d : Disp) : Nat := (if sec then d.sec else d.pri).getD 0

/-- The bundles of a stream that slot k has issued, from queue index i with the slot at queue position p. -/
def countIssued (sec : Bool) (k p i : Nat) (q : List Disp) : Nat :=
  match q with
  | [] => 0
  | d :: r =>
    (if inStrm sec d && (decide (i < p) || d.done.getLsbD k) && !(decide (k = 8) && d.halt) then 1 else 0) +
      countIssued sec k p (i + 1) r

/-- Slot k's resume offset in a stream's own bundles. -/
def resumeOff (c : Core) (sec : Bool) (k : Nat) : Nat := countIssued sec k (c.pos.getD k 0) 0 c.queue

/-- The queue index of the next bundle slot k issues, from index i on. -/
def nextFrom (k p i : Nat) (q : List Disp) : Nat :=
  match q with
  | [] => i
  | d :: r => if decide (i < p) || d.done.getLsbD k || (decide (k = 8) && d.halt) then nextFrom k p (i + 1) r else i

/-- The queue index of the next bundle slot k issues. -/
def nextIdx (c : Core) (k : Nat) : Nat := nextFrom k (c.pos.getD k 0) 0 c.queue

/-- The off field of csw. -/
def offField (c : Core) (sec : Bool) (k : Nat) : Nat :=
  match k with
  | 0 => 0
  | k + 1 => offField c sec k + resumeOff c sec k * 32 ^ k

/-- csw of one stream (R46): lsp, wait and the offsets are the stream's own (R59). -/
def cswOf (k : Nat) (c : Core) (sec : Bool) : Word :=
  let b (x : Bool) (n : Nat) := if x then 2 ^ n else 0
  BitVec.ofNat 64
    (levelOf k c * 2 ^ 62 + b c.mode 61 + b c.arch.secOn 60 + b c.ie 59 + b c.intrap 58 + (strmOf c sec).lsp * 2 ^ 55 +
      (if sec then c.waiting2 else c.waiting).toNat * 2 ^ 45 + offField c sec 9)

/-- The dispatched path of a stream: at least the bundle it fetches next. -/
def pathOf (c : Core) (sec : Bool) : List Nat :=
  match (c.queue.filter (inStrm sec)).map (offIn sec) with
  | [] => [(strmOf c sec).next]
  | l => l

/-- Whether every slot has issued a stream's part of the bundle at queue index i. A HALT stands at CTL until its own stream
retires (R179). -/
def partDone (c : Core) (sec : Bool) (i : Nat) (d : Disp) : Bool :=
  !(d.halt && d.secMask.getLsbD 8 == sec) &&
    (List.range 9).all fun k => decide (i < c.pos.getD k 0) || d.done.getLsbD k || (decide (k = 8) && d.halt)

/-- The offset at which a stream's next unissued bundle stands. -/
def pcOf (c : Core) (sec : Bool) (q : List Disp) : Nat :=
  match q.find? (inStrm sec) with
  | some d => offIn sec d
  | none => (strmOf c sec).next

/-- The dispatched bundle at queue index i without the part of a stream whose oldest bundle it is and whose every slot has issued it,
where open says that no older one of that stream is left. -/
def leavePart (c : Core) (sec opn : Bool) (i : Nat) (d : Disp) : Disp :=
  if opn && partDone c sec i d then (if sec then { d with sec := none } else { d with pri := none }) else d

/-- The heads of each stream, from queue index i on, that every slot has issued leave (R92, R107). p and q: no older bundle of
the primary and of the secondary stream is left. -/
def leaveHeads (c : Core) (p q : Bool) (i : Nat) (l : List Disp) : List (Nat × Disp) :=
  match l with
  | [] => []
  | d :: r =>
    let e := leavePart c true q i (leavePart c false p i d)
    (i, e) :: leaveHeads c (p && e.pri.isNone) (q && e.sec.isNone) (i + 1) r

/-- The heads that every slot has issued leave, and each stream's pcbase advances in its own bundles (R92, R107). -/
def popHeads (c : Core) : Core :=
  let l := leaveHeads c true true 0 c.queue
  let q := (l.map Prod.snd).filter fun d => d.pri.isSome || d.sec.isSome
  let gone := (l.filter fun x => !(x.2.pri.isSome || x.2.sec.isSome)).map Prod.fst
  let adv (sec : Bool) (c : Core) : Core :=
    if (c.queue.filter (inStrm sec)).length = (q.filter (inStrm sec)).length then c
    else updStrm c sec fun x => { x with pcbase := pcOf c sec q }
  { adv true (adv false c) with queue := q, pos := c.pos.map fun n => n - (gone.filter fun i => decide (i < n)).length }

/-- Whether the path's successor is already chosen (R170). -/
def succValid (c : Core) (sec : Bool) : Bool :=
  (c.queue.any (inStrm sec)) &&
    (match (strmOf c sec).hold with
      | .none => true
      | .until _ => true
      | _ => false)

/-! ## Taking an exception -/

/-- Appends a pending asynchronous trap; a fault-queue notice already pending absorbs another (R344). -/
def raiseAsync (s : State) (k : Nat) (p : Pend) : State :=
  updCore s k fun c =>
    if p.cause = 52 ∧ c.pend.any (fun q => decide (q.cause = 52)) then c else { c with pend := c.pend ++ [p] }

/-- A record for die d's fault ring (R345): it waits until it can be posted. -/
def postRecord (s : State) (d : Nat) (r : FRec) : State :=
  let s := updDie s d fun x => { x with recs := x.recs ++ [r] }
  post s (later s 1 d) .faultRecordPost { Ev.none with die := d }

/-- Word 1 of a record (R345). -/
def recWord1 (r : FRec) : Word :=
  BitVec.ofNat 64 (r.kind * 2 ^ 56 + r.code * 2 ^ 48 + r.unit * 2 ^ 44 + r.num * 2 ^ 36 + r.die * 2 ^ 34)

/-- The record of a machine check (R323, R345). -/
def mcRecord (k : Nat) (c : Core) (reason : Nat) (syndrome : Word) : FRec :=
  { kind := 4, code := reason, unit := if k < 384 then 0 else if k < 448 then 4 else 5, num := coreNum k,
    die := coreDie k, handle := 0, off := 0, prog := BitVec.ofNat 64 (c.arch.pri.pcbase), token := 0, src := syndrome }

/-- What a machine check discards (R323): landing buffer, running routine, held object stores of the open segment. -/
def discardAll (c : Core) : Core :=
  { c with landing := [], withheld := [], samples := [], queue := [], pos := [], ptrap := none, heldStt := [],
           leaving := [], recvs := [], segOpen := false,
           arch := { c.arch with seq := { c.arch.seq with state := 0, loops := [] } } }

/-- A port of a stopped package: failed, with nothing kept (R467, R525). -/
def failedPort (p : Port) : Port := { p with state := 3, kept := [], naks := [], ctlq := [], outq := [], wire := none }

/-- A root machine check that cannot be handled stops the package (R525): every core stops, every fabric port fails, so that no
path is left for an error report (R467), and the host sees an uncorrectable error. -/
def packageStop (s : State) : State :=
  { s with stopped := true,
           cores := s.cores.map fun p => (p.1, { p.2 with run := .stopped }),
           ports := (List.range 144).foldl (fun t p => tblPut t p (failedPort (tblGet Port.reset t p))) s.ports,
           host := { s.host with bstat := 0xF#4, uncorrectable := true } }

/-- The machine check of a core that does not enter vector 63 (R323). -/
def machineStop (s : State) (k reason : Nat) (syndrome : Word) : State :=
  let r := mcRecord k (coreOf s k) reason syndrome
  let info : Pend := { cause := 53, info0 := 53, info2 := recWord1 r, info3 := 0 }
  if k < 384 then
    let s := updCore s k fun c => { discardAll c with run := .machineChecked }
    raiseAsync (postRecord s (coreDie k) r) (noticeCore s (coreDie k)) info
  else if k < 448 then
    let s := updCore s k fun c => { discardAll c with run := .stopped }
    raiseAsync (postRecord s (coreDie k) r) 448 info
  else packageStop (updCore s k fun c => { discardAll c with run := .stopped })

/-- The 512-byte trap frame (R315), as words from its start: ctxst and the reserved words keep what they hold. -/
def frameWords (s : State) (k : Nat) (t : Trap) : List (Nat × Word) :=
  let c := coreOf s k
  let p := pathOf c false
  let q := if c.arch.secOn then pathOf c true else []
  let pair (l : List Nat) (i : Nat) : Word := BitVec.ofNat 64 (l.getD (2 * i) 0 + 2 ^ 32 * l.getD (2 * i + 1) 0)
  let sreg (i : Nat) := tblGet (0 : Word) c.arch.pri.s i
  let nv (sec : Bool) : Word :=
    if succValid c sec then BitVec.ofNat 64 (2 ^ 63 + (strmOf c sec).next % 2 ^ 32) else 0
  let cause := BitVec.ofNat 64
    (t.cause % 256 + t.slot * 256 + (if t.sec then 4096 else 0) + (if t.rt then 8192 else 0) +
      (if t.late then 16384 else 0) + p.length * 2 ^ 16 + q.length * 2 ^ 21)
  let all := p ++ List.replicate (17 - p.length) 0 ++ q
  [(0x000, cswOf k c false), (0x008, BitVec.ofNat 64 (c.arch.pri.segbase * 2 ^ 32 + p.getD 0 0)), (0x010, cause),
    (0x018, s.gcyc), (0x020, t.info0), (0x028, t.info1), (0x030, t.info2), (0x038, t.info3),
    (0x040, if c.arch.secOn then cswOf k c true else 0),
    (0x048, if c.arch.secOn then BitVec.ofNat 64 (c.arch.sec.segbase * 2 ^ 32 + q.getD 0 0) else 0)] ++
  (List.range 17).map (fun i => (0x060 + 8 * i, pair all i)) ++
  [(0x0E8, nv false), (0x0F0, if c.arch.secOn then nv true else 0)] ++
  (List.range 8).map (fun i => (0x100 + 8 * i, sreg (24 + i))) ++
  (List.range 8).map (fun i => (0x140 + 8 * i, sreg (56 + i))) ++
  [(0x180, tblGet (0 : Word) c.arch.h 30), (0x188, tblGet (0 : Word) c.arch.h 31)]

/-- The cycle from which a trap's distances count: the one after the cycle of a precise trap; an asynchronous trap is taken
before any issue of the current one (R48, R103). -/
def trapBase (s : State) (t : Trap) : Nat := if t.slot = 15 then s.tick else s.tick + 1

/-- The distance of a landing from redispatch (R104). -/
def withhold (base : Nat) (x : Landing) : Landing := { x with due := x.due - base }

/-- The held late faults without the first that waits for no KRET, which has been taken. -/
def dropTaken (l : List Trap) : List Trap :=
  match l with
  | [] => []
  | x :: r => if x.wait then x :: dropTaken r else r

/-- What stays of a held routine fault when a trap is taken: one that the trap has beaten (R103, R320) is detected again after
KRET, when the sequencer starts its micro-operation again; one that waits for a KRET stays. -/
def keepRoutine (t : Trap) (h : Option Trap) : Option Trap :=
  match h with
  | some x => if t.rt || (!x.wait && decide (t.slot < 9)) then none else some { x with wait := true }
  | none => none

/-- Enters kernel level for a trap through the vector whose word is ent (R20, R317): the frame, the information words, csw, the vector. -/
def enterVector (s : State) (k : Nat) (t : Trap) (ent : Word) : State :=
  let c := coreOf s k
  let base := c.ktvb.toNat + 0x200
  let tb := trapBase s t
  let s' := (frameWords s k t).foldl (fun s w => physPut s (base + w.1) w.2) s
  let pa := ent.toNat % 2 ^ 48 / 2 * 2
  let len := ent.toNat / 2 ^ 52
  updCore s' k fun c =>
    { c with
      trapinfo := tblSet (0 : Word) (tblSet (0 : Word) (tblSet (0 : Word) (tblSet (0 : Word) c.trapinfo 0 t.info0) 1
        t.info1) 2 t.info2) 3 t.info3,
      level := if k < 384 then 1 else c.level, intrap := true, ie := false, waiting := 0, waiting2 := 0, secWait := 0,
      rewound := true,
      phys := (pa, len * 512) :: c.phys, queue := [], pos := List.replicate 9 0, ptrap := none,
      withheld := c.withheld ++ c.landing.map (withhold tb), landing := [],
      samples := c.samples.map fun x => if x.held then x else { x with held := true, land := x.land - tb },
      stores := c.stores.map fun x =>
        match x.k with
        | .amos sec rd a nb op b cmp l false =>
          { x with k := .amos sec rd a nb op b cmp (l - tb) true }
        | _ => x,
      lateHeld := (if t.late then dropTaken c.lateHeld else c.lateHeld).map fun x => { x with wait := true },
      rtHeld := keepRoutine t c.rtHeld,
      away := ((c.arch.pri.live, c.arch.pri.yielded), (c.arch.sec.live, c.arch.sec.yielded)) :: c.away,
      arch := { c.arch with
        pri := { c.arch.pri with live := true, halted := false, yielded := false, pcbase := 0, next := 0, hold := .until (tb + 18), half := false, segNext := true,
                                 fault := none },
        sec := { c.arch.sec with half := false, halted := false, fault := none } } }

/-- The checks that entering a vector makes (R312, R317): the entry's word, or the reason of the machine check. -/
def vectorEntry (s : State) (k v : Nat) : Except Nat Word :=
  let kt := (coreOf s k).ktvb.toNat
  if !(memReadable s (kt + 8 * v) 8) then .error 6
  else
    let e := physWord s (kt + 8 * v)
    if e.toNat / 2 ^ 52 = 0 then .error 6
    else if !(memReadable s (kt + 0x200) 512) then .error 7
    else .ok e

/-- With earm set, a machine check or a lasting error arms the jack trigger for its cycle + 64, unless an arm is pending
(R506). -/
def armOnError (s : State) : State :=
  if s.jearm && !s.jarmed then { s with jarmed := true, jcyc := s.gcyc + 64, jcore := none } else s

/-- The landing buffer is emptied (R105): of what a slot has issued no register result lands any more. -/
def emptyLandings (c : Core) : Core := { c with landing := [], withheld := [], dropAge := c.age + 1 }

/-- A machine check (R323, R324) raised at the bundle that info1 names: a compute core stops; a system or root core enters vector
63 where csw.intrap is 0 and the vector can be entered. -/
def machineCheckVia (s : State) (k reason : Nat) (syndrome info1 : Word) : State :=
  let s := armOnError s
  let c := coreOf s k
  if k < 384 || c.intrap then machineStop s k reason syndrome
  else
    match vectorEntry s k 63 with
    | .error _ => machineStop s k reason syndrome
    | .ok e =>
      enterVector (updCore s k emptyLandings) k
        { cause := 63, slot := 15, sec := false, off := 0, info0 := BitVec.ofNat 64 reason, info1 := info1,
          info2 := 0, info3 := 0, late := false, rt := false, age := 0, wait := false } e

/-- A machine check raised at the primary stream's oldest bundle. -/
def machineCheckAt (s : State) (k reason : Nat) (syndrome : Word) : State :=
  machineCheckVia s k reason syndrome (info1Of ((pathOf (coreOf s k) false).headD 0) false)

/-- A machine check that a trap becomes: a precise one at its own bundle (R314). -/
def machineCheckOf (s : State) (k reason : Nat) (t : Trap) : State :=
  if t.slot < 9 then machineCheckVia s k reason 0 (info1Of t.off t.sec) else machineCheckAt s k reason 0

/-- TAKING AN EXCEPTION: a trap of core k enters kernel level through the vector of its cause (R20, R317), or becomes a
machine check: a double fault where a precise fault meets csw.intrap (R21), an absent vector, a frame that cannot be
written (R312). -/
def takeTrap (s : State) (k : Nat) (t : Trap) : State :=
  if (coreOf s k).intrap && decide (t.slot < 9) then machineCheckOf s k 1 t
  else
    match vectorEntry s k t.cause with
    | .error r => machineCheckOf s k r t
    | .ok e => enterVector s k t e

/-- A pending asynchronous trap as a trap (R314): slot 15, trapinfo1 zero. -/
def asyncTrap (p : Pend) : Trap :=
  { cause := p.cause, slot := 15, sec := false, off := 0, info0 := p.info0, info1 := 0, info2 := p.info2,
    info3 := p.info3, late := false, rt := false, age := 0, wait := false }

/-! ## Returning from one -/

/-- Word at offset o of core k's trap frame. -/
def frameAt (s : State) (k o : Nat) : Word := physWord s ((coreOf s k).ktvb.toNat + 0x200 + o)

/-- A path of the frame: n entries of 4 bytes from offset o. -/
def framePath (s : State) (k o n : Nat) : List Nat :=
  (List.range n).map fun i => memRead s.mem ((coreOf s k).ktvb.toNat + 0x200 + o + 4 * i) 4

/-- Slot offsets of a saved csw (R47). -/
def cswOffs (w : Word) : List Nat := (List.range 9).map fun i => w.toNat / 32 ^ i % 32

/-- The checks of R319 on one stream's csw, path length, first path entry, base and successor flag. The valid loop entries below the
restored lsp are contiguous from loop0; entries at and above it are not asked about (DEDUCED, see the log). -/
def frameOk (x : Strm) (csw : Word) (n : Nat) (path : List Nat) (pcb : Nat) (nv : Bool) : Bool :=
  let offs := cswOffs csw
  let lsp := csw.toNat / 2 ^ 55 % 8
  decide (csw.toNat / 2 ^ 62 ≠ 2) && offs.all (fun o => decide (o ≤ 16)) && offs.any (fun o => decide (o = 0)) &&
    decide (lsp ≤ 6) && decide (1 ≤ n) && decide (n ≤ 17) && decide (path.getD 0 0 = pcb) &&
    offs.all (fun o => decide (o ≤ n)) && (nv || decide (offs.getD 8 0 = n - 1)) &&
    (List.range lsp).all fun i => !((tblGet (0 : Word) x.loops (2 * i)).getLsbD 0) || decide (i < loopDepth x.loops 6 0)

/-- Valid loop entries at and above a depth are cleared (R318). -/
def clearLoops (t : Tbl Word) (lsp : Nat) (fuel : Nat) : Tbl Word :=
  match fuel with
  | 0 => t
  | f + 1 =>
    let t := clearLoops t lsp f
    if lsp ≤ f then tblSet (0 : Word) t (2 * f) (BitVec.ofNat 64 ((tblGet (0 : Word) t (2 * f)).toNat / 2 * 2)) else t

/-- The stream a frame restores: csw's lsp, the bases, the successor. -/
def restoreStrm (x : Strm) (csw bases nxt : Word) : Strm :=
  let lsp := csw.toNat / 2 ^ 55 % 8
  { x with lsp := lsp, loops := clearLoops x.loops lsp 6, pcbase := bases.toNat % 2 ^ 32, segbase := bases.toNat / 2 ^ 32,
           next := nxt.toNat % 2 ^ 32, hold := if nxt.getLsbD 63 then .none else .ps, half := false, fault := none }

/-- The physical code streams that a return leaves, innermost first (R56, R317): none at app level, which fetches its image; else the
one that the handler interrupted, or the core's only one. -/
def streamsLeft (app : Bool) (l : List (Nat × Nat)) : List (Nat × Nat) :=
  if app then [] else
    match l with
    | [] => []
    | [x] => [x]
    | _ :: r => r

/-- RETURN FROM AN EXCEPTION (R318 to R321), but for the redispatch of the paths, which redispatch does: the frame is
checked and csw, the bases, the banked registers and the streams are restored; the withheld writes take their distances
from the first cycle a bundle can issue; a parked sequencer runs again, unless its fault is still to be taken (R231). -/
def kretCore (s : State) (k : Nat) : State :=
  let c := coreOf s k
  let base := c.ktvb.toNat + 0x200
  let cause := frameAt s k 0x010
  let npp := cause.toNat / 2 ^ 16 % 32
  let nps := cause.toNat / 2 ^ 21 % 32
  let cswp := frameAt s k 0x000
  let csws := frameAt s k 0x040
  let ok := memReadable s base 512 &&
    frameOk c.arch.pri cswp npp (framePath s k 0x060 npp) ((frameAt s k 0x008).toNat % 2 ^ 32) ((frameAt s k 0x0E8).getLsbD 63) &&
    (decide (nps = 0) ||
      frameOk c.arch.sec csws nps (framePath s k 0x0A4 nps) ((frameAt s k 0x048).toNat % 2 ^ 32)
        ((frameAt s k 0x0F0).getLsbD 63))
  if !ok then machineCheckAt s k 2 0
  else
    let start := s.tick + 21
    updCore s k fun c =>
      let pri := restoreStrm c.arch.pri cswp (frameAt s k 0x008) (frameAt s k 0x0E8)
      let sec := if nps = 0 then c.arch.sec else restoreStrm c.arch.sec csws (frameAt s k 0x048) (frameAt s k 0x0F0)
      let bank (o : Nat) (lo : Nat) (t : Tbl Word) : Tbl Word :=
        (List.range 8).foldl (fun t i => tblSet (0 : Word) t (lo + i) (frameAt s k (o + 8 * i))) t
      { c with
        level := if k < 384 then BitVec.ofNat 2 (cswp.toNat / 2 ^ 62) else c.level,
        ie := cswp.getLsbD 59, intrap := cswp.getLsbD 58, waiting := 0, waiting2 := 0, issueFrom := start,
        phys := streamsLeft (decide (k < 384 ∧ cswp.toNat / 2 ^ 62 = 0)) c.phys,
        lateHeld := c.lateHeld.map fun x => { x with wait := cswp.getLsbD 58 },
        rtHeld := c.rtHeld.map fun x => { x with wait := cswp.getLsbD 58 },
        landing := c.landing ++ c.withheld.map fun x => { x with due := start + x.due }, withheld := [],
        samples := c.samples.map fun x => if x.held then { x with held := false, land := start + x.land } else x,
        stores := c.stores.map fun x =>
          match x.k with
          | .amos sec rd a nb op b cmp l true => { x with k := .amos sec rd a nb op b cmp (start + l) false }
          | _ => x,
        arch := { c.arch with
          pri := { pri with s := bank 0x140 56 (bank 0x100 24 pri.s) }, sec := sec,
          h := tblSet (0 : Word) (tblSet (0 : Word) c.arch.h 30 (frameAt s k 0x180)) 31 (frameAt s k 0x188),
          seq := if c.arch.seq.state = 2 ∧ c.rtHeld = none then { c.arch.seq with state := 1 } else c.arch.seq } }

end Sys2Proof.Machine
end

