-- ==== Sys2Proof/Machine/Scalar.lean ====
section
/-! DEFINITION. SA and SB (chapter 04): integer, scratchpad, scalar floating point, control-register, handle, generator,
tile and matrix-parameter instructions. -/

namespace Sys2Proof.Machine

/-! ## Integer (R146 to R148) -/

/-- A result that lands in rd after l cycles. -/
def scalarOp (s : State) (l : Nat) (rd : BitVec 6) (v : Word) : Host.Outcome State Fault Refusal :=
  perform s .ok fun s => landS s l rd v

/-- ADD (R146). -/
def execAdd (rd ra rb : BitVec 6) (s : State) : Host.Outcome State Fault Refusal :=
  scalarOp s 1 rd (readS s ra + readS s rb)

/-- SUB (R146). -/
def execSub (rd ra rb : BitVec 6) (s : State) : Host.Outcome State Fault Refusal :=
  scalarOp s 1 rd (readS s ra - readS s rb)

/-- ADDI (R146). -/
def execAddi (rd ra : BitVec 6) (imm : BitVec 21) (s : State) : Host.Outcome State Fault Refusal :=
  scalarOp s 1 rd (readS s ra + imm.signExtend 64)

/-- MUL (R146): bits 63:0 of the product. -/
def execMul (rd ra rb : BitVec 6) (s : State) : Host.Outcome State Fault Refusal :=
  scalarOp s 3 rd (readS s ra * readS s rb)

/-- A scalar as I64, or as N64 in an .n form. -/
def asInt (n : Bool) (x : Word) : Int := if n then x.toNat else x.toInt

/-- MULH (R146): bits 127:64 of the exact product. -/
def mulhVal (n : Bool) (a b : Word) : Word := BitVec.ofInt 64 ((asInt n a * asInt n b).ediv (2 ^ 64))

/-- MULH, MULH.n. -/
def execMulh (n : Bool) (rd ra rb : BitVec 6) (s : State) : Host.Outcome State Fault Refusal :=
  scalarOp s 3 rd (mulhVal n (readS s ra) (readS s rb))

/-- DIV (R146): toward zero; all ones for a zero divisor; −2^63 by −1 gives −2^63 by wrapping. -/
def divVal (n : Bool) (a b : Word) : Word :=
  if b = 0 then BitVec.allOnes 64 else BitVec.ofInt 64 ((asInt n a).tdiv (asInt n b))

/-- DIV, DIV.n. -/
def execDiv (n : Bool) (rd ra rb : BitVec 6) (s : State) : Host.Outcome State Fault Refusal :=
  scalarOp s 20 rd (divVal n (readS s ra) (readS s rb))

/-- REM (R146): the sign follows ra; ra for a zero divisor. -/
def remVal (n : Bool) (a b : Word) : Word :=
  if b = 0 then a else BitVec.ofInt 64 ((asInt n a).tmod (asInt n b))

/-- REM, REM.n. -/
def execRem (n : Bool) (rd ra rb : BitVec 6) (s : State) : Host.Outcome State Fault Refusal :=
  scalarOp s 20 rd (remVal n (readS s ra) (readS s rb))

/-- AND (R146). -/
def execAnd (rd ra rb : BitVec 6) (s : State) : Host.Outcome State Fault Refusal :=
  scalarOp s 1 rd (readS s ra &&& readS s rb)

/-- OR (R146). -/
def execOr (rd ra rb : BitVec 6) (s : State) : Host.Outcome State Fault Refusal :=
  scalarOp s 1 rd (readS s ra ||| readS s rb)

/-- XOR (R146). -/
def execXor (rd ra rb : BitVec 6) (s : State) : Host.Outcome State Fault Refusal :=
  scalarOp s 1 rd (readS s ra ^^^ readS s rb)

/-- ANDN (R146). -/
def execAndn (rd ra rb : BitVec 6) (s : State) : Host.Outcome State Fault Refusal :=
  scalarOp s 1 rd (readS s ra &&& ~~~(readS s rb))

/-- The shift amount (R146). -/
def shAmt (s : State) (a : ShAmt) : Nat :=
  match a with
  | .reg rb => (readS s rb).toNat % 64
  | .imm n => n.toNat

/-- SHL (R146). -/
def execShl (rd ra : BitVec 6) (a : ShAmt) (s : State) : Host.Outcome State Fault Refusal :=
  scalarOp s 1 rd (readS s ra <<< shAmt s a)

/-- SHR (R146). -/
def execShr (rd ra : BitVec 6) (a : ShAmt) (s : State) : Host.Outcome State Fault Refusal :=
  scalarOp s 1 rd (readS s ra >>> shAmt s a)

/-- SAR (R146). -/
def execSar (rd ra : BitVec 6) (a : ShAmt) (s : State) : Host.Outcome State Fault Refusal :=
  scalarOp s 1 rd ((readS s ra).sshiftRight (shAmt s a))

/-- ROT (R146): rotated right. -/
def execRot (rd ra : BitVec 6) (a : ShAmt) (s : State) : Host.Outcome State Fault Refusal :=
  scalarOp s 1 rd ((readS s ra).rotateRight (shAmt s a))

/-- Leading zeros (R146): 64 of zero. -/
def clzVal (x : Word) : Word := if x = 0 then 64 else BitVec.ofNat 64 (63 - Nat.log2 x.toNat)

/-- CLZ. -/
def execClz (rd ra : BitVec 6) (s : State) : Host.Outcome State Fault Refusal := scalarOp s 1 rd (clzVal (readS s ra))

/-- Trailing zeros from bit i, at most fuel more. -/
def ctzFrom (x : Word) (fuel i : Nat) : Nat :=
  match fuel with
  | 0 => i
  | f + 1 => if x.getLsbD i then i else ctzFrom x f (i + 1)

/-- CTZ (R146): 64 of zero. -/
def execCtz (rd ra : BitVec 6) (s : State) : Host.Outcome State Fault Refusal :=
  scalarOp s 1 rd (BitVec.ofNat 64 (ctzFrom (readS s ra) 64 0))

/-- The number of one bits below bit n. -/
def popc {w : Nat} (x : BitVec w) (n : Nat) : Nat :=
  match n with
  | 0 => 0
  | n + 1 => popc x n + (x.getLsbD n).toNat

/-- POPC (R146). -/
def execPopc (rd ra : BitVec 6) (s : State) : Host.Outcome State Fault Refusal :=
  scalarOp s 1 rd (BitVec.ofNat 64 (popc (readS s ra) 64))

/-- MIN (R146). -/
def execMin (n : Bool) (rd ra rb : BitVec 6) (s : State) : Host.Outcome State Fault Refusal :=
  let a := readS s ra
  let b := readS s rb
  scalarOp s 1 rd (if asInt n a ≤ asInt n b then a else b)

/-- MAX (R146). -/
def execMax (n : Bool) (rd ra rb : BitVec 6) (s : State) : Host.Outcome State Fault Refusal :=
  let a := readS s ra
  let b := readS s rb
  scalarOp s 1 rd (if asInt n a ≤ asInt n b then b else a)

/-- The integer column of R84. -/
def icondHolds (c : ICond) (a b : Word) : Bool :=
  match c with
  | .eq => decide (a = b)
  | .ne => decide (a ≠ b)
  | .lt => decide (a.toInt < b.toInt)
  | .le => decide (a.toInt ≤ b.toInt)
  | .gt => decide (a.toInt > b.toInt)
  | .ge => decide (a.toInt ≥ b.toInt)
  | .ltn => decide (a.toNat < b.toNat)
  | .len => decide (a.toNat ≤ b.toNat)
  | .gtn => decide (a.toNat > b.toNat)
  | .gen => decide (a.toNat ≥ b.toNat)

/-- A truth value as a scalar (R144). -/
def boolWord (b : Bool) : Word := if b then 1 else 0

/-- CMP (R146). -/
def execCmp (c : ICond) (rd ra rb : BitVec 6) (s : State) : Host.Outcome State Fault Refusal :=
  scalarOp s 1 rd (boolWord (icondHolds c (readS s ra) (readS s rb)))

/-- SEL (R146). -/
def execSel (rd ra rb rc : BitVec 6) (s : State) : Host.Outcome State Fault Refusal :=
  scalarOp s 1 rd (if readS s rc ≠ 0 then readS s ra else readS s rb)

/-- MOVI (R147). -/
def execMovi (rd : BitVec 6) (imm : BitVec 27) (s : State) : Host.Outcome State Fault Refusal :=
  scalarOp s 1 rd (imm.signExtend 64)

/-- MOVHI (R147). -/
def execMovhi (rd : BitVec 6) (imm : BitVec 27) (s : State) : Host.Outcome State Fault Refusal :=
  scalarOp s 1 rd ((readS s rd <<< 27) ||| imm.zeroExtend 64)

/-- The field of n bits at position p (R148). -/
def bfxVal (signed : Bool) (a : Word) (p n : Nat) : Word :=
  let f := a.toNat / 2 ^ p % 2 ^ n
  if signed && decide (f ≥ 2 ^ (n - 1)) then BitVec.ofInt 64 ((f : Int) - (2 ^ n : Nat)) else BitVec.ofNat 64 f

/-- BFX, BFX.s (R148). -/
def execBfx (signed : Bool) (rd ra pos len1 : BitVec 6) (s : State) : Host.Outcome State Fault Refusal :=
  scalarOp s 1 rd (bfxVal signed (readS s ra) pos.toNat (len1.toNat + 1))

/-- BFI (R148). -/
def execBfi (rd ra pos len1 : BitVec 6) (s : State) : Host.Outcome State Fault Refusal :=
  scalarOp s 1 rd (setField (readS s rd) pos.toNat (len1.toNat + 1) (readS s ra).toNat)

/-! ## Scratchpad (R149 to R152) -/

/-- The checks of R150 on an access of nb bytes at a. -/
def scratchChk (s : State) (a : Word) (nb : Nat) : Chk :=
  (faultIf (decide (a.toNat % nb ≠ 0)) 12 a 0).and (faultIf (decide (a.toNat + nb > scratchSize s.cur.core)) 13 a 0)

/-- Adds a sample due after d cycles whose register result lands l cycles after this one. -/
def addSample (s : State) (d l : Nat) (k : Sample) : State :=
  updCur s fun c =>
    { c with samples := c.samples ++ [{ due := s.tick + d, land := s.tick + l, held := false, age := s.cur.age,
                                        slot := s.cur.slot, sec := s.cur.sec, k := k }] }

/-- The groups of R351 into which same-cycle scratchpad writes fall; slot writes come last. -/
def slotGroup : Nat := 6

/-- Adds a scratchpad write that performs after d cycles, in a group of R351; slot writes are ordered by age and slot. -/
def addStore (s : State) (d group : Nat) (k : StoreKind) : State :=
  updCur s fun c =>
    { c with stores := c.stores ++ [{ due := s.tick + d, group := group, order := s.cur.age * 16 + s.cur.slot,
                                      sec := s.cur.sec, k := k }] }

/-- LDS (R149 to R151): samples in c + 2, lands in c + 4. -/
def execLds (rd ra : BitVec 6) (sz : BitVec 2) (sx : Bool) (disp : BitVec 18) (s : State) :
    Host.Outcome State Fault Refusal :=
  let a := readS s ra + disp.signExtend 64
  let nb := 2 ^ sz.toNat
  perform s (scratchChk s a nb) fun s => addSample s 2 4 (.lds s.cur.sec rd.toNat a.toNat nb sx)

/-- STS (R149 to R151): performs in c + 5. -/
def execSts (rd ra : BitVec 6) (sz : BitVec 2) (disp : BitVec 18) (s : State) : Host.Outcome State Fault Refusal :=
  let a := readS s ra + disp.signExtend 64
  let nb := 2 ^ sz.toNat
  let v := readS s rd
  perform s (scratchChk s a nb) fun s => addStore s 5 slotGroup (.bytes a.toNat (bytesOf v.toNat nb))

/-- AMOS (R152): read and write in c + 5, rd at latency 6. -/
def execAmos (op : AmosOp) (w64 : Bool) (rd ra rb rc : BitVec 6) (s : State) : Host.Outcome State Fault Refusal :=
  let a := readS s ra
  let nb := if w64 then 8 else 4
  let b := readS s rb
  let c := readS s rc
  perform s (scratchChk s a nb) fun s =>
    addStore s 5 slotGroup (.amos s.cur.sec rd.toNat a.toNat nb op b c (s.tick + 6) false)

/-- The new value of an atomic on 8·nb bits (R152). -/
def amosNew (op : AmosOp) (nb : Nat) (old b c : Nat) : Nat :=
  let w := 8 * nb
  let x := b % 2 ^ w
  let si (v : Nat) := intOf true w v
  match op with
  | .add => (old + x) % 2 ^ w
  | .min => if si old ≤ si x then old else x
  | .max => if si old ≤ si x then x else old
  | .minn => min old x
  | .maxn => max old x
  | .xchg => x
  | .cas => if old = c % 2 ^ w then x else old
  | .and => Nat.land old x
  | .or => Nat.lor old x

/-- What AMOS writes to rd (R152): sext of 32 bits, zext for min.n and max.n. -/
def amosRd (op : AmosOp) (nb : Nat) (old : Nat) : Word :=
  if nb = 4 ∧ op ≠ .minn ∧ op ≠ .maxn then BitVec.ofInt 64 (intOf true 32 old) else BitVec.ofNat 64 old

/-! ## Floating point (R153 to R155) -/

/-- The seed register of a slot (R45): 0x28 + this. SA, SB, VX, VY, XF, MX and FAB. -/
def seedOf (slot : Nat) : Nat := if slot < 5 then slot else if slot = 6 then 5 else 6

/-- A slot's generator (R125). -/
def readSeed (s : State) (slot : Nat) : Word := tblGet (1 : Word) (cc s).arch.seeds (seedOf slot)

/-- Leaves a slot's generator at a state. -/
def setSeed (s : State) (slot : Nat) (x : Word) : State :=
  updCur s fun c => { c with arch := { c.arch with seeds := tblSet (1 : Word) c.arch.seeds (seedOf slot) x } }

/-- The format-fault check of a rounding selection under fmt (R50). -/
def rmChk (r : RSel) (f : Word32) : Chk := faultIf (decide (resolveRm r f = none)) 7 0 0

/-- The mode a selection resolves to. -/
def modeOf (r : RSel) (f : Word32) : RM := (resolveRm r f).getD .rne

/-- One rounded scalar result: draws once in rst (R153). f gives the code under the rounding. -/
def roundedOp (s : State) (l : Nat) (rd : BitVec 6) (r : RSel) (f : Rnd → Word) : Host.Outcome State Fault Refusal :=
  let fm := readFmt s
  perform s (rmChk r fm) fun s =>
    let m := modeOf r fm
    if m = .rst then
      let d := draws 1 (readSeed s s.cur.slot)
      landS (setSeed s s.cur.slot d.2) l rd (f (rndOf m fm (rngAt d.1 0)))
    else landS s l rd (f (rndOf m fm 0))

/-- The format of a scalar float operand. -/
def fpTy (dbl : Bool) : FF := if dbl then .fp64 else .fp32

/-- A scalar float operand after input flushing (R153). -/
def fpIn (s : State) (dbl : Bool) (r : BitVec 6) : Num :=
  decodeFlt (fpTy dbl) (fmtFtz (readFmt s)) (readS s r).toNat

/-- The code of a float result, zero-extended (R153). -/
def fpOut (dbl : Bool) (c : Rnd) (x : Num) : Word := BitVec.ofNat 64 (encodeFlt (fpTy dbl) c x)

/-- FADD (R153). -/
def execFadd (dbl : Bool) (r : RSel) (rd ra rb : BitVec 6) (s : State) : Host.Outcome State Fault Refusal :=
  roundedOp s 4 rd r fun c => fpOut dbl c (Num.add c.mode (fpIn s dbl ra) (fpIn s dbl rb))

/-- FSUB (R153). -/
def execFsub (dbl : Bool) (r : RSel) (rd ra rb : BitVec 6) (s : State) : Host.Outcome State Fault Refusal :=
  roundedOp s 4 rd r fun c => fpOut dbl c (Num.add c.mode (fpIn s dbl ra) (fpIn s dbl rb).negate)

/-- FMUL (R153). -/
def execFmul (dbl : Bool) (r : RSel) (rd ra rb : BitVec 6) (s : State) : Host.Outcome State Fault Refusal :=
  roundedOp s 4 rd r fun c => fpOut dbl c (Num.mul (fpIn s dbl ra) (fpIn s dbl rb))

/-- FFMA (R153): one rounding. -/
def execFfma (dbl : Bool) (r : RSel) (rd ra rb rc : BitVec 6) (s : State) : Host.Outcome State Fault Refusal :=
  roundedOp s 4 rd r fun c =>
    fpOut dbl c (Num.add c.mode (Num.mul (fpIn s dbl ra) (fpIn s dbl rb)) (fpIn s dbl rc))

/-- FDIV (R153). -/
def execFdiv (dbl : Bool) (r : RSel) (rd ra rb : BitVec 6) (s : State) : Host.Outcome State Fault Refusal :=
  roundedOp s (if dbl then 28 else 16) rd r fun c => fpOut dbl c (Num.div (fpIn s dbl ra) (fpIn s dbl rb))

/-- FSQRT (R153). -/
def execFsqrt (dbl : Bool) (r : RSel) (rd ra : BitVec 6) (s : State) : Host.Outcome State Fault Refusal :=
  roundedOp s (if dbl then 28 else 16) rd r fun c => fpOut dbl c (Num.sqrt (fpIn s dbl ra))

/-- The float column of R84. -/
def fcondHolds (c : FCond) (a b : Num) : Bool :=
  let un := a.isNan || b.isNan
  let k := Num.cmp a b
  match c with
  | .eq => !un && decide (k = 0)
  | .ne => un || decide (k ≠ 0)
  | .lt => !un && decide (k < 0)
  | .le => !un && decide (k ≤ 0)
  | .gt => !un && decide (k > 0)
  | .ge => !un && decide (k ≥ 0)
  | .uo => un
  | .or => !un

/-- FCMP (R154). -/
def execFcmp (c : FCond) (dbl : Bool) (rd ra rb : BitVec 6) (s : State) : Host.Outcome State Fault Refusal :=
  scalarOp s 2 rd (boolWord (fcondHolds c (fpIn s dbl ra) (fpIn s dbl rb)))

/-- A conversion result extended to 64 bits (R144): I32 by its sign, all else by zeros. -/
def cvtExtend (d : CvtTy) (code : Nat) : Word :=
  match d with
  | .i32 => BitVec.ofInt 64 (intOf true 32 code)
  | _ => BitVec.ofNat 64 code

/-- FP32 to FP64 of an exact conversion and every other conversion of CVT (R155). -/
def cvtVal (d src : CvtTy) (c : Rnd) (a : Word) : Word :=
  cvtExtend d (convert (cvtNty d) (cvtNty src) c (a.toNat % 2 ^ (cvtNty src).width))

/-- CVT (R155, R584): one that rounds nothing depends on no fmt.rm and draws nothing. -/
def execCvt (d src : CvtTy) (r : RSel) (rd ra : BitVec 6) (s : State) : Host.Outcome State Fault Refusal :=
  let a := readS s ra
  if cvtRoundsNothing d src then scalarOp s 3 rd (cvtVal d src (rndOf .rne (readFmt s) 0) a)
  else roundedOp s 3 rd r fun c => cvtVal d src c a

/-! ## Control registers (R156) -/

/-- The value MFC reads (R45, R46, R53). -/
def readCr (s : State) (n : Nat) : Word :=
  let c := cc s
  let x := strmOf c s.cur.sec
  if n = 0x00 then cswOf s.cur.core c s.cur.sec
  else if n = 0x01 then BitVec.ofNat 64 x.pcbase
  else if n = 0x02 then s.gcyc
  else if n = 0x03 then x.fmt.zeroExtend 64
  else if n = 0x04 then x.link
  else if n = 0x05 then BitVec.ofNat 64 ((if c.stopS then 1 else 0) + c.stopWhy.toNat * 256)
  else if n = 0x06 then c.pbound.zeroExtend 64
  else if n = 0x07 then c.lbound.zeroExtend 64
  else if n = 0x08 then c.ktvb
  else if n = 0x09 then BitVec.ofNat 64 x.segbase
  else if n = 0x0A then c.arch.xratio.zeroExtend 64
  else if n = 0x0B then c.dom.zeroExtend 64
  else if n = 0x0C then c.htb
  else if n ≤ 0x1B then tblGet (0 : Word) x.loops (n - 0x10)
  else if n ≤ 0x23 then tblGet (0 : Word) c.trapinfo (n - 0x20)
  else tblGet (1 : Word) c.arch.seeds (n - 0x28)

/-- Whether app level may read control register n (R45). -/
def appReads (n : Nat) : Bool :=
  !(decide (n = 0x08) || decide (n = 0x0C) || decide (0x20 ≤ n))

/-- MFC (R156). -/
def execMfc (rd : BitVec 6) (cr : BitVec 8) (s : State) : Host.Outcome State Fault Refusal :=
  perform s (faultIf (decide (levelOf s.cur.core (cc s) = 0) && !(appReads cr.toNat)) 4 0 0) fun s =>
    landS s 2 rd (readCr s cr.toNat)

/-- MTC (R156): app level reaches link alone. A write of htb holds the writing slot for 64 cycles while the handle store
reloads (R157), and any HBIND waits. -/
def execMtc (cr : BitVec 8) (rd : BitVec 6) (s : State) : Host.Outcome State Fault Refusal :=
  let v := readS s rd
  perform s (faultIf (decide (levelOf s.cur.core (cc s) = 0) && decide (cr.toNat ≠ 0x04)) 4 0 0) fun s =>
    let s := if cr.toNat = 0x04 then land s 2 (.link s.cur.sec (BitVec.ofNat 64 (v.toNat % 2 ^ 32)))
      else land s 2 (.cr s.cur.sec cr.toNat v)
    if cr.toNat = 0x0C then
      updCur s fun c =>
        { c with slotHold := (s.cur.slot, s.tick + 65) :: c.slotHold, hReload := s.tick + 66 }
    else s

/-! ## Handles (R158 to R160) -/

/-- The handle store's entry count (R157). -/
def storeCount (c : Core) : Nat := min c.hcount 256

/-- Whether the handle store is being reloaded (R156). -/
def reloading (s : State) : Bool := decide (s.tick < (cc s).hReload)

/-- HBIND (R158). -/
def execHbind (hd : BitVec 5) (ra : BitVec 6) (mask : Option (BitVec 6)) (s : State) :
    Host.Outcome State Fault Refusal :=
  let i := (readS s ra).toNat
  let e := tblGet (0 : Word) (cc s).hstore i
  let chk := (waitIf (reloading s)).and (faultIf (decide (i = 0) || decide (i ≥ storeCount (cc s))) 23 0 0)
  perform s chk fun s =>
    let e := match mask with
      | none => e
      | some rb => BitVec.ofNat 64 (e.toNat / 4096 * 4096 + Nat.land (e.toNat % 4096) ((readS s rb).toNat % 4096))
    land s 8 (.h hd.toNat e)

/-- HMOV (R159). -/
def execHmov (hd ha : BitVec 5) (s : State) : Host.Outcome State Fault Refusal :=
  perform s .ok fun s => land s 1 (.h hd.toNat (readH s ha))

/-- Bits 63:12 of a handle, as trap information holds them (R313). -/
def handleInfo (h : Word) : Word := BitVec.ofNat 64 (h.toNat / 4096)

/-- A handle's object index (R39). -/
def hIndex (h : Word) : Nat := h.toNat / 2 ^ 28 % 2 ^ 24

/-- A handle's home package. -/
def hHome (h : Word) : Nat := h.toNat / 2 ^ 52

/-- A handle's generation. -/
def hGen (h : Word) : Nat := h.toNat / 2 ^ 12 % 2 ^ 16

/-- A handle's rights subset. -/
def hRights (h : Word) : Nat := h.toNat % 4096

/-! ## Generators, tiles and matrix parameters (R161 to R164) -/

/-- nd, mod, ind, phase of a generator's word 1 (R41). -/
def gNd (w : Word) : Nat := w.toNat % 8
/-- The modulo dimension. -/
def gMod (w : Word) : Nat := w.toNat / 8 % 8
/-- The indirect dimension. -/
def gInd (w : Word) : Nat := w.toNat / 64 % 8
/-- The indirect table's byte offset. -/
def gItb (w : Word) : Nat := w.toNat / 2 ^ 20 % 4096 * 512
/-- The phase. -/
def gPhase (w : Word) : Nat := w.toNat / 2 ^ 32

/-- The conditions of R43 on word 1 and the words of the dimensions. -/
def genBad (w1 : Word) (ext : Nat → Nat) : Bool :=
  let nd := gNd w1
  decide (nd = 0) || decide (nd = 7) || (decide (gMod w1 ≠ 7) && decide (gMod w1 ≥ nd)) ||
    (decide (gInd w1 ≠ 7) && decide (gInd w1 ≥ nd)) || (decide (gMod w1 = gInd w1) && decide (gMod w1 ≠ 7)) ||
    (List.range 6).any (fun d => decide (d < nd) && decide (ext d = 0)) ||
    (decide (gMod w1 ≠ 7) && decide (gPhase w1 ≥ ext (gMod w1)))

/-- GSET (R161). -/
def execGset (gg w : BitVec 3) (ra : BitVec 6) (s : State) : Host.Outcome State Fault Refusal :=
  let v := readS s ra
  let cur (i : Nat) := tblGet (0 : Word) (strmOf (cc s) s.cur.sec).g (8 * gg.toNat + i)
  let w1 := cur 1
  let bad :=
    if w = 0 then false
    else if w = 1 then genBad v fun d => (cur (2 + d)).toNat % 2 ^ 32
    else
      let d := w.toNat - 2
      decide (d < gNd w1) &&
        (decide (v.toNat % 2 ^ 32 = 0) || (decide (d = gMod w1) && decide (gPhase w1 ≥ v.toNat % 2 ^ 32)))
  perform s (faultIf bad 11 (BitVec.ofNat 64 gg.toNat) 0) fun s => land s 2 (.g s.cur.sec gg.toNat w.toNat v)

/-- The checks of R35 on a control word of core k. -/
def descBad (k : Nat) (w : Word) : Bool :=
  decide (tFmtCode w = 15) || decide (tState w ≥ 3) || decide (tSize w > 65536) ||
    decide (tBase w + tSize w > scratchSize k)

/-- TSET (R162): at app level state 2 is refused too. -/
def execTset (td : BitVec 6) (w : BitVec 3) (ra : BitVec 6) (s : State) : Host.Outcome State Fault Refusal :=
  let v := readS s ra
  let chk := (busyChk s td).and
    (if w = 0 then
      (descIf (descBad s.cur.core v) td).and
        (descIf (decide (levelOf s.cur.core (cc s) = 0) && decide (tState v = 2)) td)
     else .ok)
  perform s chk fun s => land s 2 (.t td.toNat w.toNat v)

/-- MPSET (R164). -/
def execMpset (mp : BitVec 3) (ra : BitVec 6) (s : State) : Host.Outcome State Fault Refusal :=
  perform s .ok fun s => land s 1 (.mp mp.toNat (readS s ra))

end Sys2Proof.Machine
end

