-- ==== Sys2Proof/Machine/Validate.lean ====
section
/-! DEFINITION. The bundle: its fields (R74, R75), the registers its instructions read and write, validation (R72, R73,
R583), and which bundles of two streams merge (R106). -/

namespace Sys2Proof.Machine

/-! ## Fields (R74, R75) -/

/-- The header. -/
def hdr (b : Bundle) : BitVec 16 := b.extractLsb' 368 16
/-- AL. -/
def hdrAL (b : Bundle) : Bool := b.getLsbD 383
/-- The header's SEG. -/
def hdrSEG (b : Bundle) : Bool := b.getLsbD 382
/-- The header's RV. -/
def hdrRV (b : Bundle) : Bool := b.getLsbD 380
/-- PS. -/
def hdrPS (b : Bundle) : Bool := b.getLsbD 381
/-- The mask of active slots. -/
def hdrMask (b : Bundle) : BitVec 9 := b.extractLsb' 368 9

/-- The field of slot k. -/
def slotField (b : Bundle) (k : Nat) : Field :=
  match k with
  | 0 => .sa (b.extractLsb' 328 40)
  | 1 => .sa (b.extractLsb' 288 40)
  | 2 => .v (b.extractLsb' 232 56)
  | 3 => .v (b.extractLsb' 176 56)
  | 4 => .xf (b.extractLsb' 152 24)
  | 5 => .mem (b.extractLsb' 104 48)
  | 6 => .mx (b.extractLsb' 72 32)
  | 7 => .fab (b.extractLsb' 40 32)
  | _ => .ctl (b.extractLsb' 0 40)

/-- The bits of a field as a number. -/
def fieldNat (f : Field) : Nat :=
  match f with
  | .sa f => f.toNat
  | .v f => f.toNat
  | .xf f => f.toNat
  | .mem f => f.toNat
  | .mx f => f.toNat
  | .fab f => f.toNat
  | .ctl f => f.toNat
  | .micro f => f.toNat

/-- A bundle with one slot's field and its mask bit. -/
def oneField (k : Nat) (w : Nat) : Bundle :=
  let lo := match k with
    | 0 => 328 | 1 => 288 | 2 => 232 | 3 => 176 | 4 => 152 | 5 => 104 | 6 => 72 | 7 => 40 | _ => 0
  BitVec.ofNat 384 (w * 2 ^ lo + 2 ^ (368 + k))

/-- Whether slot k's field is active. -/
def slotOn (b : Bundle) (k : Nat) : Bool := decide (fieldNat (slotField b k) ≠ 0)

/-- The instruction of slot k, where its field is an assigned encoding. -/
def slotInstr (b : Bundle) (k : Nat) : Option Instr := decodeField (slotField b k)

/-- The CTL opcode. -/
def ctlOp (b : Bundle) : Nat := (b.extractLsb' 34 6).toNat
/-- The FAB opcode. -/
def fabOp (b : Bundle) : Nat := (b.extractLsb' 68 4).toNat
/-- The SA or SB opcode of slot k. -/
def saOp (b : Bundle) (k : Nat) : Nat := if k = 0 then (b.extractLsb' 361 7).toNat else (b.extractLsb' 321 7).toNat

/-! ## Registers named (R26, R27, R185, R583) -/

/-- A register of some file. -/
inductive Reg where
  | s (i : Nat)
  | v (i : Nat)
  | p (i : Nat)
  | t (i : Nat)
  | h (i : Nat)
  | g (i : Nat)
  | mp (i : Nat)
  | cr (i : Nat)
  deriving DecidableEq, Repr

/-- The own predicate of a slot. -/
def ownP (k i : Nat) : Reg := .p (if k = 2 then i else 16 + i)

/-- The registers an instruction of slot k writes. -/
def regWrites (k : Nat) (i : Instr) : List Reg :=
  match i with
  | .add rd _ _ | .sub rd _ _ | .addi rd _ _ | .mul rd _ _ | .mulh _ rd _ _ | .div _ rd _ _ | .rem _ rd _ _
  | .and rd _ _ | .or rd _ _ | .xor rd _ _ | .andn rd _ _ | .shl rd _ _ | .shr rd _ _ | .sar rd _ _ | .rot rd _ _
  | .clz rd _ | .ctz rd _ | .popc rd _ | .min _ rd _ _ | .max _ rd _ _ | .cmp _ rd _ _ | .sel rd _ _ _ | .movi rd _
  | .movhi rd _ | .bfx _ rd _ _ _ | .bfi rd _ _ _ | .lds rd _ _ _ _ | .amos _ _ rd _ _ _ | .fadd _ _ rd _ _
  | .fsub _ _ rd _ _ | .fmul _ _ rd _ _ | .ffma _ _ rd _ _ _ | .fdiv _ _ rd _ _ | .fsqrt _ _ rd _
  | .fcmp _ _ rd _ _ | .cvt _ _ _ rd _ | .mfc rd _ | .hqry _ rd _ => [.s rd.toNat]
  | .mtc cr _ => [.cr cr.toNat]
  | .hbind hd _ _ | .hmov hd _ => [.h hd.toNat]
  | .gset gg _ _ => [.g gg.toNat]
  | .tset td _ _ => [.t td.toNat]
  | .mpset mp _ => [.mp mp.toNat]
  | .vadd _ _ o | .vsub _ _ o | .vmul _ _ o | .vfma _ _ o | .vmin _ o | .vmax _ o | .vabs _ o | .vneg _ o | .vmulh _ o
  | .vdot4 _ o | .vand o | .vor o | .vxor o | .vnot o | .vshl _ _ o | .vshr _ _ o | .vsar _ _ o | .vsel _ o | .vmov _ o
  | .vbcast _ o | .vidx _ o | .vperm o | .vrot _ o | .vshuf o | .vredadd _ _ o | .vredmax _ o | .vredmin _ o
  | .vscan _ _ _ o | .vexp2 _ _ o | .vlog2 _ _ o | .vrcp _ _ o | .vrsq _ _ o | .vcvt _ _ _ o | .vqnt _ _ _ o
  | .vdq _ _ _ o | .vsat _ o | .vpack _ o | .vunpk _ _ o | .vlmul _ o | .vllin _ o | .vpcnt o | .vpfst o | .vld o
  | .vgath _ o | .vpop o => [.v o.vd.toNat]
  | .vcas _ pd o => [.v o.vd.toNat, .v o.va.toNat, ownP k pd.toNat]
  | .vcmp _ _ o | .vcmpt _ _ o | .vpand o | .vpor o | .vpnot o => [ownP k (o.vd.toNat % 16)]
  | .xtrn td _ | .xcvt td _ _ _ => [.t td.toNat]
  | .xpack td _ _ _ => [.t td.toNat, .t ((td.toNat + 1) % 64)]
  | .xratio _ => [.cr 0x0A]
  | .ldt _ _ o | .ldts _ _ o => [.t o.td.toNat]
  | .tmovIn td _ _ _ | .pfxlook _ _ td _ _ _ => [.t td.toNat]
  | .amo _ _ nr _ _ _ tile _ => if nr then [] else [.t tile.toNat]
  | .acqv _ _ _ tile _ => [.t tile.toNat]
  | .frecv _ _ td _ | .frecva _ _ _ td _ | .fmark _ _ td | .fctlSync _ td | .fctlStat _ td => [.t td.toNat]
  | .call _ _ => [.cr 0x04]
  | .fmtset _ | .fmtseti _ => [.cr 0x03]
  | _ => []

/-- The guard's predicate. -/
def guardReads (o : VOp) : List Reg :=
  match o.g with
  | none => []
  | some g => [.p g.gp.toNat]

/-- A shift amount's register. -/
def amtReads (a : ShAmt) : List Reg :=
  match a with
  | .reg rb => [.s rb.toNat]
  | .imm _ => []

/-- The registers an instruction reads, the implicit ones of R185 among them. MCALL and MCALLW sample mp0 to mp7, and check 8 counts
that as a read (DEDUCED, see the log). -/
def regReads (i : Instr) : List Reg :=
  match i with
  | .add _ a b | .sub _ a b | .mul _ a b | .mulh _ _ a b | .div _ _ a b | .rem _ _ a b | .and _ a b | .or _ a b
  | .xor _ a b | .andn _ a b | .min _ _ a b | .max _ _ a b | .cmp _ _ a b | .fadd _ _ _ a b | .fsub _ _ _ a b
  | .fmul _ _ _ a b | .fdiv _ _ _ a b | .fcmp _ _ _ a b => [.s a.toNat, .s b.toNat]
  | .addi _ a _ | .clz _ a | .ctz _ a | .popc _ a | .bfx _ _ a _ _ | .lds _ a _ _ _ | .fsqrt _ _ _ a
  | .cvt _ _ _ _ a => [.s a.toNat]
  | .shl _ a n | .shr _ a n | .sar _ a n | .rot _ a n => .s a.toNat :: amtReads n
  | .sel _ a b c => [.s a.toNat, .s b.toNat, .s c.toNat]
  | .ffma _ _ _ a b c => [.s a.toNat, .s b.toNat, .s c.toNat]
  | .movhi rd _ => [.s rd.toNat]
  | .bfi rd a _ _ => [.s rd.toNat, .s a.toNat]
  | .sts rd a _ _ => [.s rd.toNat, .s a.toNat]
  | .amos op _ _ a b c => [.s a.toNat, .s b.toNat] ++ (if op = .cas then [.s c.toNat] else [])
  | .mfc _ cr => [.cr cr.toNat]
  | .mtc _ rd => [.s rd.toNat]
  | .hbind _ a m => .s a.toNat :: (match m with | none => [] | some b => [.s b.toNat])
  | .hmov _ ha | .hqry _ _ ha => [.h ha.toNat]
  | .gset _ _ a | .tset _ _ a | .mpset _ a => [.s a.toNat]
  | .vadd _ _ o | .vsub _ _ o | .vmul _ _ o | .vmin _ o | .vmax _ o | .vmulh _ o | .vand o | .vor o | .vxor o
  | .vcmp _ _ o | .vperm o | .vpack _ o | .vlmul _ o => [.v o.va.toNat, .v o.vb.toNat] ++ guardReads o
  | .vfma _ _ o | .vdot4 _ o => [.v o.va.toNat, .v o.vb.toNat, .v o.vd.toNat] ++ guardReads o
  | .vabs _ o | .vneg _ o | .vnot o | .vmov _ o | .vshuf o | .vredadd _ _ o | .vredmax _ o | .vredmin _ o
  | .vscan _ _ _ o | .vexp2 _ _ o | .vlog2 _ _ o | .vrcp _ _ o | .vrsq _ _ o | .vcvt _ _ _ o | .vsat _ o
  | .vunpk _ _ o | .vllin _ o => [.v o.va.toNat] ++ guardReads o
  | .vshl _ im o | .vshr _ im o | .vsar _ im o =>
    .v o.va.toNat :: (if im then [] else [.v o.vb.toNat]) ++ guardReads o
  | .vcmpt _ _ o =>
    [.v o.va.toNat, .v o.vb.toNat, .v (Nat.xor o.va.toNat 256), .v (Nat.xor o.vb.toNat 256)] ++ guardReads o
  | .vsel p o => [.v o.va.toNat, .v o.vb.toNat, .p p.toNat] ++ guardReads o
  | .vcas _ _ o => [.v o.vd.toNat, .v o.va.toNat, .v o.vb.toNat, .v (o.vb.toNat + 1)] ++ guardReads o
  | .vbcast _ o => .s (o.va.toNat % 64) :: guardReads o
  | .vidx _ o => guardReads o
  | .vrot im o => .v o.va.toNat :: (if im then [] else [.s (o.vb.toNat % 64)]) ++ guardReads o
  | .vqnt _ zp _ o | .vdq _ zp _ o =>
    [.v o.va.toNat, .v o.vb.toNat] ++ (if zp then [.v o.vd.toNat] else []) ++ guardReads o
  | .vpand o | .vpor o => [.p (o.va.toNat % 32), .p (o.vb.toNat % 32)] ++ guardReads o
  | .vpnot o | .vpcnt o | .vpfst o => .p (o.va.toNat % 32) :: guardReads o
  | .vld o => [.t (o.va.toNat % 64), .s (o.vb.toNat % 64)] ++ guardReads o
  | .vst o => [.v o.vd.toNat, .t (o.va.toNat % 64), .s (o.vb.toNat % 64)] ++ guardReads o
  | .vgath _ o => [.v o.va.toNat, .s (o.vb.toNat % 64)] ++ guardReads o
  | .vscat _ o => [.v o.vd.toNat, .v o.va.toNat, .s (o.vb.toNat % 64)] ++ guardReads o
  | .vpop o => guardReads o
  | .xexp ta _ _ => [.t ta.toNat, .cr 0x0A]
  | .xtrn _ ta | .xcvt _ ta _ _ | .xpack _ ta _ _ => [.t ta.toNat]
  | .ldt _ _ o | .ldts _ _ o => [.h o.hh.toNat, .s o.sx.toNat, .s o.sy.toNat, .g o.gg.toNat]
  | .stt o | .pft o => [.t o.td.toNat, .h o.hh.toNat, .s o.sx.toNat, .s o.sy.toNat, .g o.gg.toNat]
  | .chkpT td sx sy | .chkpQ td sx sy _ => [.t td.toNat, .s sx.toNat, .s sy.toNat]
  | .tmovIn _ sx sy gg => [.s sx.toNat, .s sy.toNat, .g gg.toNat]
  | .tmovOut td sx sy gg => [.t td.toNat, .s sx.toNat, .s sy.toNat, .g gg.toNat]
  | .amo op _ _ hh sx sy _ _ =>
    [.h hh.toNat, .s sx.toNat, .s sy.toNat] ++ (if op = .cas then [.s (sy.toNat + 1)] else [])
  | .relv _ hh sy | .acqv _ hh sy _ _ => [.h hh.toNat, .s sy.toNat]
  | .bari hh sx sy _ | .bara _ _ hh sx sy | .ctxsave hh sx sy | .ctxrest hh sx sy =>
    [.h hh.toNat, .s sx.toNat, .s sy.toNat]
  | .xcopy td | .xchain td | .xgath td | .xcoll td | .gstep td => [.t td.toNat]
  | .qput sx sy _ | .otw sx sy | .ldp _ sx sy _ | .stp _ sx sy _ | .keyw sx sy _ => [.s sx.toNat, .s sy.toNat]
  | .qget _ sx _ => [.s sx.toNat]
  | .rput _ _ _ td sx _ | .rtap _ _ _ td sx _ => [.t td.toNat, .s sx.toNat]
  | .pfxlook _ _ _ hh sx sy => [.h hh.toNat, .s sx.toNat, .s sy.toNat]
  | .tlbi k _ sx sy _ => (if k = 2 then [.s sx.toNat] else []) ++ (if k = 0 then [] else [.s sy.toNat])
  | .oti sy | .ota _ _ sy => [.s sy.toNat]
  | .keyz all sx => if all then [] else [.s sx.toNat]
  | .mcall _ | .mcallw _ => (List.range 8).map .mp
  | .mldstore _ td _ => [.t td.toNat]
  | .fsend sc _ td _ => [.s sc.toNat, .t td.toNat]
  | .frecv sc _ _ _ | .frecva _ sc _ _ _ | .fmark sc _ _ | .frdv sc _ => [.s sc.toNat]
  | .br _ sc _ | .loop sc _ | .lbrk _ sc | .fmtset sc | .waitc sc _ | .ipi sc _ | .jarm sc => [.s sc.toNat]
  | .brp p _ _ => [.p p.toNat]
  | .jmp t _ | .call t _ => (match t with | none => [] | some sc => [.s sc.toNat])
  | .ret => [.cr 0x04]
  | .waitb hh sx _ => [.h hh.toNat, .s sx.toNat]
  | _ => []

/-- Whether slot k may write a register (R26). -/
def ownFile (k : Nat) (r : Reg) : Bool :=
  match r with
  | .s i => decide (sOwner i = k)
  | .v i => decide (vOwner i = k)
  | _ => true

/-- The files of R27. -/
def oneWriter (r : Reg) : Bool :=
  match r with
  | .t _ => true
  | .h _ => true
  | .g _ => true
  | .mp _ => true
  | _ => false

/-- The registers that two streams share (R59). -/
def sharedReg (r : Reg) : Bool :=
  match r with
  | .s _ => false
  | .g _ => false
  | .cr n => decide (n = 0x0A)
  | _ => true

/-! ## Validation (R72, R73) -/

/-- The registers written by slot k of a bundle. -/
def slotWrites (b : Bundle) (k : Nat) : List Reg :=
  match slotInstr b k with
  | none => []
  | some i => regWrites k i

/-- The registers read by slot k of a bundle. -/
def slotReads (b : Bundle) (k : Nat) : List Reg :=
  match slotInstr b k with
  | none => []
  | some i => regReads i

/-- The lowest slot of 0 to 8 that a test names. -/
def firstSlot (f : Nat → Bool) : Option Nat := (List.range 9).find? f

/-- Check 3 (R23). -/
def check3 (k : Nat) (b : Bundle) : Option Nat :=
  if k < 384 then none
  else firstSlot fun j =>
    ((j == 2 || j == 3 || j == 4 || j == 6 || j == 7) && slotOn b j) || ((j == 0 || j == 1) && saOp b j == 0x35) ||
      (j == 8 && ctlOp b == 0x02)

/-- Check 4: the slot that R73 reports. -/
def check4 (b : Bundle) : Option Nat :=
  let frdv := fabOp b == 0x5
  let op := ctlOp b
  if ((hdrSEG b || hdrPS b || hdrRV b) && !hdrAL b) || (hdrRV b && !frdv) then some 0
  else if frdv && !hdrRV b then some 7
  else if (op == 0x0E || op == 0x0D || op == 0x20 || op == 0x21) && !hdrAL b then some 8
  else none

/-- Whether the index pair of a VCAS in slot k is written by the other vector slot (R202). -/
def casClash (b : Bundle) (k : Nat) : Bool :=
  match slotInstr b k with
  | some (.vcas _ _ o) => (slotWrites b (5 - k)).any fun r => decide (r = .v o.vb.toNat) || decide (r = .v (o.vb.toNat + 1))
  | _ => false

/-- The first check of R72 that fails, and the slot that R73 reports. A VCAS whose index pair the other slot writes fails check 5. -/
def validate (k : Nat) (b : Bundle) : Option (Nat × Nat) :=
  let lift (n : Nat) (o : Option Nat) : Option (Nat × Nat) := o.map fun j => (n, j)
  let c1 : Option (Nat × Nat) := if (hdr b).extractLsb' 9 3 ≠ 0 then some (1, 0) else none
  let c2 := lift 2 (firstSlot fun j => (hdrMask b).getLsbD j != slotOn b j)
  let c3 := lift 3 (check3 k b)
  let c4 := lift 4 (check4 b)
  let c5 := lift 5 (firstSlot fun j => slotOn b j && ((slotInstr b j).isNone || casClash b j))
  let c6 := lift 6 (firstSlot fun j => (slotWrites b j).any fun r => !(ownFile j r))
  let c7 := lift 7 (firstSlot fun j =>
    (List.range 9).any fun m => decide (j < m) &&
      (slotWrites b j).any fun r => oneWriter r && (slotWrites b m).any fun q => decide (q = r))
  let c8 := lift 8 (firstSlot fun j =>
    (List.range 9).any fun m => decide (j < m) &&
      (slotWrites b j).any fun r => (slotReads b m).any fun q => decide (q = r))
  (((((((c1.or c2).or c3).or c4).or c5).or c6).or c7).or c8)

/-- The trap of a failing literal (R72, R73). -/
def badBundle (off : Nat) (f : Nat × Nat) : DecFault :=
  if f.1 = 5 then { cause := 3, slot := f.2, info := 0, off := off }
  else { cause := 2, slot := f.2, info := BitVec.ofNat 64 f.1, off := off }

/-! ## Merging (R106) -/

/-- Whether a slot of one bundle reads a shared register that a slot to its left in the other writes. -/
def crossLeft (a b : Bundle) : Bool :=
  (List.range 9).any fun j => (List.range 9).any fun m => decide (j < m) &&
    (slotWrites a j).any fun r => sharedReg r && (slotReads b m).any fun q => decide (q = r)

/-- Whether two bundles merge (R106). R27 has check 7 hold for the two together; a g register counts by its number, though each stream
has its own copy (DEDUCED, see the log). -/
def mergeable (p q : Bundle) : Bool :=
  decide (hdrMask p &&& hdrMask q = 0) && !(hdrAL p || hdrSEG p || hdrPS p || hdrRV p) &&
    !(hdrAL q || hdrSEG q || hdrPS q || hdrRV q) && !(crossLeft p q) && !(crossLeft q p) &&
    !((List.range 9).any fun j => (List.range 9).any fun m => decide (j ≠ m) &&
      (slotWrites p j).any fun r => oneWriter r && (slotWrites q m).any fun x => decide (x = r))

end Sys2Proof.Machine
end

