-- ==== Sys2Proof/Machine/Fetch.lean ====
section
/-! DEFINITION. Code streams and dictionaries (R66 to R71), where decode goes on (R52, R91, R170), and redispatch after a
return from an exception (R104, R318). -/

namespace Sys2Proof.Machine

/-- The halfword at a code offset of the stream a core fetches, where one is there (R66, R69). The root core reads
its scratchpad too (R571, R572). -/
def fetchHalf (s : State) (k off : Nat) : Option Nat :=
  let c := coreOf s k
  match c.phys with
  | (pa, len) :: _ =>
    let a := pa + 2 * off
    if off ≥ len then none
    else if k ≥ 448 ∧ 0xFF0400100000 ≤ a ∧ a < 0xFF0400200000 then
      some (memRead (coreOf s 448).arch.scratch (a - 0xFF0400100000) 2)
    else if memReadable s a 2 then some (memRead s.mem a 2)
    else none
  | [] => if off < c.imgLen then some (memRead c.codeImg (2 * off) 2) else none

/-- Whether the next bundle of a stream begins a segment after this one (R268, R495). -/
def endsSegment (b : Bundle) : Bool :=
  (match decodeMEM (b.extractLsb' 104 48) with
    | some (.qput ..) | some (.rput ..) | some (.amo ..) | some (.bari ..) | some (.bara ..) | some (.xcopy _)
    | some (.xchain _) | some (.xgath _) | some (.xcoll _) | some (.gstep _) | some (.rtap ..) | some (.qget ..) => true
    | some (.pfxlook sh ..) => sh
    | _ => false) ||
  (match decodeFAB (b.extractLsb' 40 32) with
    | some (.fsend ..) | some (.fmark ..) | some (.frecv ..) | some (.frecva ..) => true
    | _ => false)

/-- What decode finds at an offset: an illegal index (with what trapinfo2 holds), or a bundle, literal or not. -/
inductive Fetched where
  | bad (info : Nat)
  | bundle (b : Bundle) (lit : Bool)
  deriving DecidableEq, Repr

/-- The 24 halfwords of a literal from offset off, the first the highest (R67). -/
def literalBits (s : State) (k off n : Nat) (acc : Nat) : Option Nat :=
  match n with
  | 0 => some acc
  | n + 1 =>
    match fetchHalf s k off with
    | none => none
    | some h => literalBits s k (off + 1) n (acc * 65536 + h)

/-- Whether an index selects a dictionary entry at the core's level (R56, R66). -/
def indexAllowed (k : Nat) (c : Core) (i : Nat) : Bool :=
  if k < 384 then (if levelOf k c = 0 then decide (i ≤ 0x0EFF) else decide (0x0F00 ≤ i) && decide (i ≤ 0x0FFF))
  else decide (i ≤ 0x0FFF)

/-- Reads the bundle at a code offset (R66 to R69). -/
def fetchBundle (s : State) (k off : Nat) : Fetched :=
  match fetchHalf s k off with
  | none => .bad off
  | some h =>
    if h = 0xFFFE then .bundle 0 false
    else if h = 0xFFFF then
      match literalBits s k (off + 1) 24 0 with
      | none => .bad off
      | some b => .bundle (BitVec.ofNat 384 b) true
    else if indexAllowed k (coreOf s k) h then
      match tblFind (coreOf s k).dict h with
      | none => .bad h
      | some b => .bundle b false
    else .bad h

/-- Halfwords a bundle takes (R66). -/
def bundleLen (lit : Bool) : Nat := if lit then 25 else 1

/-- Halfwords the bundle at an offset takes. -/
def lenAt (s : State) (k off : Nat) : Nat := if fetchHalf s k off = some 0xFFFF then 25 else 1

/-! ## The loop unit (R51, R52, R171) -/

/-- hi of loop entry i: count and end. -/
def loopHi (x : Strm) (i : Nat) : Word := tblGet (0 : Word) x.loops (2 * i + 1)
/-- lo of loop entry i: start and v. -/
def loopLo (x : Strm) (i : Nat) : Word := tblGet (0 : Word) x.loops (2 * i)
/-- Iterations still to run. -/
def loopCount (x : Strm) (i : Nat) : Nat := (loopHi x i).toNat / 2 ^ 32
/-- Offset of the body's last bundle. -/
def loopEnd (x : Strm) (i : Nat) : Nat := (loopHi x i).toNat % 2 ^ 32
/-- Offset of the body's first bundle. -/
def loopStart (x : Strm) (i : Nat) : Nat := (loopLo x i).toNat / 2 ^ 32

/-- Pushes an entry (R171). -/
def loopPush (x : Strm) (count start stop : Nat) : Strm :=
  let t := tblSet (0 : Word) x.loops (2 * x.lsp) (BitVec.ofNat 64 (start * 2 ^ 32 + 1))
  { x with loops := tblSet (0 : Word) t (2 * x.lsp + 1) (BitVec.ofNat 64 (count * 2 ^ 32 + stop)), lsp := x.lsp + 1 }

/-- Pops the innermost entry: clears v, and lsp falls by 1 (R52, R173). -/
def loopPop (x : Strm) : Strm :=
  let i := x.lsp - 1
  { x with loops := tblSet (0 : Word) x.loops (2 * i) (BitVec.ofNat 64 ((loopLo x i).toNat / 2 * 2)), lsp := i }

/-- Whether a bundle at an offset ends the innermost body. -/
def atLoopEnd (x : Strm) (off : Nat) : Bool := decide (x.lsp > 0) && decide (loopEnd x (x.lsp - 1) = off)

/-- The back edge: count falls by 1, decode continues at start (R52, R172). -/
def backEdge (x : Strm) : Strm :=
  let i := x.lsp - 1
  { x with loops := tblSet (0 : Word) x.loops (2 * i + 1)
             (BitVec.ofNat 64 ((loopCount x i - 1) * 2 ^ 32 + loopEnd x i)), next := loopStart x i }

/-- Where decode goes after a bundle that transfers nothing: around the loop, out of it, or on (R52). -/
def seqNext (x : Strm) (off len : Nat) : Strm :=
  if atLoopEnd x off then
    if loopCount x (x.lsp - 1) > 1 then backEdge x else { loopPop x with next := off + len }
  else { x with next := off + len }

/-- A bundle dispatched again along a saved path (R104): the slots whose resume offset lies beyond index i have issued
it. A path offset outside the stream decodes as the trap of R69 when the stream reaches it, and a literal that fails R72 as that of
R73. -/
def redisp (s : State) (k : Nat) (sec : Bool) (offs : List Nat) (i off : Nat) (age : Nat) : Option Disp :=
  match fetchBundle s k off with
  | .bad _ => none
  | .bundle b lit =>
    if lit && (validate k b).isSome then none
    else
      some
        { bits := b, pri := if sec then none else some off, sec := if sec then some off else none,
          secMask := if sec then BitVec.allOnes 9 else 0,
          done := BitVec.ofNat 9 ((List.range 9).foldl (fun n j => if offs.getD j 0 > i then n + 2 ^ j else n) 0),
          lit := lit, secLit := lit, tick := s.tick, age := age, entry := false, halt := false, pre := [] }

/-- The bundles of a path from index i, up to one that cannot be read, whose offset is then the stream's next. -/
def redispPath (s : State) (k : Nat) (sec : Bool) (offs path : List Nat) (i age : Nat) : List Disp × Option Nat :=
  match path with
  | [] => ([], none)
  | off :: r =>
    match redisp s k sec offs i off age with
    | none => ([], some off)
    | some d =>
      let rest := redispPath s k sec offs r (i + 1) (age + 2)
      (d :: rest.1, rest.2)

/-- Interleaves two queues by age. -/
def mergeDisp (fuel : Nat) (a b : List Disp) : List Disp :=
  match fuel with
  | 0 => a ++ b
  | f + 1 =>
    match a, b with
    | [], b => b
    | a, [] => a
    | x :: a', y :: b' => if x.age ≤ y.age then x :: mergeDisp f a' (y :: b') else y :: mergeDisp f (x :: a') b'

/-- A stream whose path could not be read on goes on at the offset it could not read. -/
def badPath (x : Strm) (bad : Option Nat) : Strm :=
  match bad with
  | none => x
  | some o => { x with next := o, hold := .none }

/-- Marks the entry bundles of a redispatched path (R495): flagged ones, and those after a bundle that ends a segment. -/
def markEntries (p q : Bool) (l : List Disp) : List Disp :=
  match l with
  | [] => []
  | d :: r =>
    let f := hdrSEG d.bits || hdrRV d.bits || (if d.pri.isSome then p else q)
    { d with entry := f } ::
      (if d.pri.isSome then markEntries (endsSegment d.bits) q r else markEntries p (endsSegment d.bits) r)

/-- The first bundle issued after a return begins a segment (R495). -/
def firstEntry (l : List Disp) : List Disp :=
  match l with
  | [] => []
  | d :: r => { d with entry := true } :: r

/-- Redispatches the saved paths of a frame (R318). -/
def redispatch (s : State) (k npp nps : Nat) (pathp paths : List Nat) (cswp csws : Word) : State :=
  let c := coreOf s k
  let p := redispPath s k false (cswOffs cswp) (pathp.take npp) 0 (c.age + 1)
  let q := redispPath s k true (cswOffs csws) (paths.take nps) 0 (c.age + 2)
  updCore s k fun c =>
    { c with queue := firstEntry (markEntries false false (mergeDisp (p.1.length + q.1.length) p.1 q.1)), pos := List.replicate 9 0, age := c.age + 40,
             arch := { c.arch with pri := badPath c.arch.pri p.2, sec := badPath c.arch.sec q.2 } }

/-- A stream that had retired or yielded before the handler is so again: it has nothing to redispatch (R61, R429). -/
def resumeFlags (c : Core) (sec : Bool) (f : Bool × Bool) : Core :=
  let c := updStrm c sec fun x => { x with live := f.1, yielded := f.2, hold := if f.1 && !f.2 then x.hold else .ended }
  if f.1 && !f.2 then c
  else { c with queue := c.queue.filter fun d => !(inStrm sec d) || inStrm (!sec) d }

/-- The streams' standing before the handler comes back. -/
def popAway (c : Core) : Core :=
  match c.away with
  | [] => c
  | a :: r => resumeFlags (resumeFlags { c with away := r } false a.1) true a.2

/-- The whole return from an exception (R318): checks, restoration, redispatch. -/
def returnFromTrap (s : State) (k : Nat) : State :=
  let cause := frameAt s k 0x010
  let npp := cause.toNat / 2 ^ 16 % 32
  let nps := cause.toNat / 2 ^ 21 % 32
  let pathp := framePath s k 0x060 npp
  let paths := framePath s k 0x0A4 nps
  let cswp := frameAt s k 0x000
  let csws := frameAt s k 0x040
  let t := kretCore s k
  if (coreOf t k).issueFrom = s.tick + 21 then
    updCore (redispatch t k npp nps pathp paths cswp csws) k popAway
  else t

end Sys2Proof.Machine
end

