-- ==== Sys2Proof/Machine/Control.lean ====
section
/-! DEFINITION. CTL (chapter 04): transfers, hardware loops, fmt, WAITC, TRAP and KCALL, and the privileged KRET, WFI, IPI
(chapter 08). -/

namespace Sys2Proof.Machine

/-- Changes the acting stream. -/
def updAct (s : State) (f : Strm → Strm) : State := updCur s fun c => updStrm c s.cur.sec f

/-- The acting stream. -/
def act (s : State) : Strm := strmOf (cc s) s.cur.sec

/-- Decode resumes at a target two cycles after CTL issues the transfer (R91, R169). -/
def goto (s : State) (target : Nat) : State := updAct s fun x => { x with next := target, hold := .until (s.tick + 2) }

/-- Decode resumes after the bundle, two cycles on (R91), around a loop that the bundle ends (R52). -/
def fallOn (s : State) : State :=
  updAct s fun x => { seqNext x s.cur.off (bundleLen s.cur.lit) with hold := .until (s.tick + 2) }

/-- A displacement from the bundle's own offset; one below 0 lies beyond every stream (R169). -/
def target (s : State) (disp : BitVec 24) : Nat :=
  ((s.cur.off : Int) + disp.toInt).emod (2 ^ 64) |>.toNat

/-- A condition on a scalar against zero (R166). -/
def brTaken (c : ICond) (v : Word) : Bool := icondHolds c v 0

/-- BR (R166). -/
def execBr (c : ICond) (sc : BitVec 6) (disp : BitVec 24) (s : State) : Host.Outcome State Fault Refusal :=
  perform s .ok fun s => if brTaken c (readS s sc) then goto s (target s disp) else fallOn s

/-- BRP (R167): a predicate neither all ones nor all zeros traps. -/
def execBrp (p : BitVec 5) (pol : Bool) (disp : BitVec 24) (s : State) : Host.Outcome State Fault Refusal :=
  let v := readP s p.toNat
  perform s (faultIf (decide (v ≠ 0) && decide (v ≠ BitVec.allOnes 512)) 5 (BitVec.ofNat 64 p.toNat) 0) fun s =>
    if xor pol (decide (v ≠ 0)) then goto s (target s disp) else fallOn s

/-- The destination of JMP and CALL (R168). -/
def jumpTo (s : State) (tgt : Option (BitVec 6)) (disp : BitVec 24) : Nat :=
  match tgt with
  | none => target s disp
  | some sc => (readS s sc).toNat

/-- JMP (R168). -/
def execJmp (tgt : Option (BitVec 6)) (disp : BitVec 24) (s : State) : Host.Outcome State Fault Refusal :=
  perform s .ok fun s => goto s (jumpTo s tgt disp)

/-- CALL (R168): link.ret names the next bundle, one cycle on. -/
def execCall (tgt : Option (BitVec 6)) (disp : BitVec 24) (s : State) : Host.Outcome State Fault Refusal :=
  perform s .ok fun s =>
    land (goto s (jumpTo s tgt disp)) 1
      (.link s.cur.sec (BitVec.ofNat 64 ((s.cur.off + bundleLen s.cur.lit) % 2 ^ 32)))

/-- RET (R168). -/
def execRet (s : State) : Host.Outcome State Fault Refusal :=
  perform s .ok fun s => goto s ((readLink s).toNat % 2 ^ 32)

/-- The checks of a loop instruction with a count (R171): its own literal, overflow, a count of 2^32 or more. -/
def loopChk (s : State) (n : Nat) (disp : BitVec 18) : Chk :=
  (faultIf (s.cur.lit && decide (disp.toNat < 25)) 3 0 0).and
    ((faultIf (decide (n ≥ 2 ^ 32)) 16 0 0).and (faultIf (decide (n > 0) && decide ((act s).lsp = 6)) 14 0 0))

/-- Opens a loop of n iterations, or skips a body of none (R171). -/
def openLoop (s : State) (n : Nat) (disp : BitVec 18) : State :=
  let stop := s.cur.off + disp.toNat
  if n = 0 then goto s (stop + lenAt s s.cur.core stop)
  else
    let start := s.cur.off + bundleLen s.cur.lit
    goto (updAct s fun x => loopPush x n start stop) start

/-- LOOP (R171). -/
def execLoop (sc : BitVec 6) (disp : BitVec 18) (s : State) : Host.Outcome State Fault Refusal :=
  let n := (readS s sc).toNat
  perform s (loopChk s n disp) fun s => openLoop s n disp

/-- Whether decode waits for CTL to choose the successor of this bundle (R170): it has not applied the bundle's effects. -/
def ctlDecides (s : State) : Bool :=
  (match (act s).hold with
    | .ctl => true
    | .ps => true
    | _ => false) &&
  !((cc s).queue.drop (s.cur.idx + 1)).any (inStrm s.cur.sec)

/-- LOOPI (R171): decode has opened the loop, unless it left the bundle to CTL: a fault of R171, or a hold of R170. -/
def execLoopi (cnt : BitVec 16) (disp : BitVec 18) (s : State) : Host.Outcome State Fault Refusal :=
  if ctlDecides s then perform s (loopChk s cnt.toNat disp) fun s => openLoop s cnt.toNat disp
  else perform s .ok fun s => s

/-- LBRK (R173). -/
def execLbrk (c : ICond) (sc : BitVec 6) (s : State) : Host.Outcome State Fault Refusal :=
  perform s (faultIf (decide ((act s).lsp = 0)) 15 0 0) fun s =>
    if brTaken c (readS s sc) then
      let stop := loopEnd (act s) ((act s).lsp - 1)
      goto (updAct s loopPop) (stop + lenAt s s.cur.core stop)
    else fallOn s

/-- FMTSET (R175): effective 4 cycles after issue. -/
def execFmtset (sc : BitVec 6) (s : State) : Host.Outcome State Fault Refusal :=
  perform s .ok fun s => land s 4 (.fmt s.cur.sec ((readS s sc).extractLsb' 0 32))

/-- FMTSETI (R175). -/
def execFmtseti (imm : Word32) (s : State) : Host.Outcome State Fault Refusal :=
  perform s .ok fun s => land s 4 (.fmt s.cur.sec imm)

/-- The wait of WAITC (R177), modulo 2^64. -/
def chkWaitc (sc : BitVec 6) (imm : BitVec 28) (s : State) : Chk :=
  waitIf (decide (s.gcyc.toNat < (readS s sc + imm.zeroExtend 64).toNat))

/-- WAITC (R177). -/
def execWaitc (sc : BitVec 6) (imm : BitVec 28) (s : State) : Host.Outcome State Fault Refusal :=
  perform s (chkWaitc sc imm s) fun s => s

/-- A trap that counts as issued (R181): the code stands in trapinfo0<15:0>; a fault already met in this cycle stands. -/
def softTrap (s : State) (cause : Nat) (code : BitVec 16) : Host.Outcome State Fault Refusal :=
  match (cc s).ptrap with
  | some _ => .next s
  | none =>
    let t := precise s cause 0 0
    let t := updCur t fun c => { c with ptrap := c.ptrap.map fun p => { p with info0 := code.zeroExtend 64 } }
    .next (issued (fallOn t))

/-- TRAP (R181). -/
def execTrap (code : BitVec 16) (s : State) : Host.Outcome State Fault Refusal := softTrap s 35 code

/-- KCALL (R181). -/
def execKcall (code : BitVec 16) (s : State) : Host.Outcome State Fault Refusal := softTrap s 36 code

/-- Whether an STP of the core has still to perform (R318). -/
def stpPending (s : State) (k : Nat) : Bool :=
  (coreOf s k).samples.any (fun x => match x.k with | .stp .. => true | _ => false) ||
    s.reqs.any fun r => decide (r.core = k) && (match r.op with | .stp .. => true | _ => false)

/-- KRET's privilege and its wait for the core's STPs (R318). -/
def chkKret (s : State) : Chk := (privChk s 1).and (waitIf (stpPending s s.cur.core))

/-- KRET (R318): the return from an exception. -/
def execKret (s : State) : Host.Outcome State Fault Refusal :=
  match chkKret s with
  | .ok => .next (returnFromTrap (issued s) s.cur.core)
  | .wait => .next s
  | .rewind => .next s
  | .fault c x y => .next (precise s c x y)

/-- WFI waits until a trap is pending or, on a compute core, stop.s is 1 (R327). -/
def chkWfi (s : State) : Chk :=
  (privChk s 1).and (waitIf ((cc s).pend.isEmpty && !(isCompute s.cur.core && (cc s).stopS)))

/-- Writes trapinfo0 to trapinfo3. -/
def setTrapinfo (c : Core) (a b x y : Word) : Core :=
  { c with trapinfo := tblSet (0 : Word) (tblSet (0 : Word) (tblSet (0 : Word) (tblSet (0 : Word) c.trapinfo 0 a) 1 b) 2 x)
             3 y }

/-- WFI (R327): with ie 0 an oldest pending signal is consumed into trapinfo0; with ie 1 the trap follows this cycle. -/
def execWfi (s : State) : Host.Outcome State Fault Refusal :=
  perform s (chkWfi s) fun s =>
    let s := fallOn s
    match (cc s).pend with
    | p :: r =>
      if p.cause = 48 ∧ !(cc s).ie then
        updCur s fun c =>
          { c with pend := r, sigRes := c.sigRes - 1, trapinfo := tblSet (0 : Word) c.trapinfo 0 p.info0 }
      else s
    | [] => s

/-- The core an IPI's target value names (R325). -/
def ipiTarget (v : Word) : Option Nat :=
  let n := v.toNat
  let die := n / 1024 % 4
  let ty := n / 256 % 4
  let core := n % 128
  if n ≥ 4096 ∨ n / 128 % 2 = 1 then none
  else if ty = 0 ∧ core < 96 then some (96 * die + core)
  else if ty = 1 ∧ core < 16 then some (384 + 16 * die + core)
  else if ty = 2 ∧ die = 0 ∧ core = 0 then some 448
  else none

/-- A core's own target value (R326). -/
def targetValue (k : Nat) : Nat :=
  if k < 384 then (k / 96) * 1024 + k % 96
  else if k < 448 then (k - 384) / 16 * 1024 + 256 + (k - 384) % 16
  else 512

/-- IPI's privilege, target and queue room (R325, R326). -/
def chkIpi (sc : BitVec 6) (s : State) : Chk :=
  (privChk s 1).and
    (match ipiTarget (readS s sc) with
      | none => .fault 34 (readS s sc) 0
      | some t => waitIf (decide ((coreOf s t).sigRes ≥ 16)))

/-- A due tick from one cycle on to n cycles on, free within the bound. -/
def within (s : State) (n key : Nat) : Nat := s.tick + 1 + Config.delay s.tick key % n

/-- The latest due tick of the signals that a source has on their way to a target. -/
def lastSignal (s : State) (src tgt : Nat) : Nat :=
  s.agenda.foldl (fun m e => if e.instr = .signalLands ∧ e.ev.core = tgt ∧ e.ev.n = src then max m e.due else m) 0

/-- IPI (R325, R326): reserves a position, and the signal lands within 64 cycles on the die or 256 beyond it, in order. -/
def execIpi (sc : BitVec 6) (code : BitVec 16) (s : State) : Host.Outcome State Fault Refusal :=
  perform s (chkIpi sc s) fun s =>
    match ipiTarget (readS s sc) with
    | none => s
    | some t =>
      let src := targetValue s.cur.core
      let s := updCore s t fun c => { c with sigRes := c.sigRes + 1 }
      let due := max (within s (if coreDie t = coreDie s.cur.core then 64 else 256) t) (lastSignal s src t)
      post s due .signalLands { Ev.none with core := t, code := code, n := src }

/-- A signal lands (R326): a pending trap of cause 48, or nothing at a core that takes none. -/
def execSignalLands (s : State) : Host.Outcome State Fault Refusal :=
  let k := s.ev.core
  let runs := match (coreOf s k).run with
    | .running => true
    | .yielding => true
    | _ => false
  if runs then
    .next (raiseAsync s k { cause := 48, info0 := BitVec.ofNat 64 (s.ev.code.toNat + s.ev.n * 65536), info2 := 0,
                            info3 := 0 })
  else .next (updCore s k fun c => { c with sigRes := c.sigRes - 1 })

/-- The trap a core takes between cycles: a held late fault before a held routine fault (R321), the precise trap of the
cycle, else the oldest pending asynchronous trap under ie (R103, R320). -/
def nextTrap (c : Core) : Option Trap :=
  match c.ptrap with
  | some t => some t
  | none =>
    match c.pend with
    | p :: _ => if c.ie then some (asyncTrap p) else none
    | [] => none

/-- An engine instruction that has not been accepted has not issued (R285), and a WAITB that waits runs again after the return
(R176): a trap taken meanwhile leaves nothing of either. -/
def dropAccepting (s : State) (k : Nat) : State :=
  let mine (j : Job) : Bool := decide (j.core = k) && decide (j.st = .accepting)
  let d := coreDie k
  let has := (dieOf s d).jobs.any mine
  let s := updDie s d fun y => { y with jobs := y.jobs.filter fun j => !(mine j) }
  let wait := (coreOf s k).waitReq
  let s := { s with reqs := s.reqs.filter fun r => decide (some r.id ≠ wait) }
  updCore s k fun c => { c with memReq := if has then none else c.memReq, waitReq := none }

/-- TRAP_ENTRY (R317): the core's trap is taken, once the heads that every slot has issued have left (R47, R92); a pending trap leaves
its queue, a signal frees its position, a schedule fault of FAB is counted (R311). -/
def execTrapEntry (s : State) : Host.Outcome State Fault Refusal :=
  let k := s.ev.core
  let c := coreOf s k
  match nextTrap c with
  | none => .next s
  | some t =>
    let s := updCore (dropAccepting s k) k popHeads
    let s := if t.slot = 15 then
        updCore s k fun c =>
          { c with pend := c.pend.drop 1, sigRes := if t.cause = 48 then c.sigRes - 1 else c.sigRes }
      else if t.slot = 7 ∧ t.cause = 6 then updCore s k fun c => { c with statSched := c.statSched + 1 }
      else s
    .next (takeTrap s k t)

/-- MACHINE_CHECK (R323), with the reason and the syndrome that its cause gives. -/
def execMachineCheck (s : State) : Host.Outcome State Fault Refusal :=
  .next (machineCheckAt s s.ev.core s.ev.n s.ev.w)

/-- LOOP_COUNT_EXPIRY (R52): the innermost entry whose body has ended with count 1 is popped, and decode falls through. -/
def execLoopCountExpiry (s : State) : Host.Outcome State Fault Refusal :=
  .next (updCore s s.ev.core fun c => updStrm c s.ev.flag fun x => { loopPop x with next := s.ev.n })

end Sys2Proof.Machine
end

