-- ==== Sys2Proof/Machine/Bundle.lean ====
section
/-! DEFINITION. Decode of bundles: its candidates, what it does at each, how it dispatches them (R66, R90, R91, R106). -/

namespace Sys2Proof.Machine

/-- The width of slot k's field. -/
def slotWidth (k : Nat) : Nat :=
  match k with
  | 2 | 3 => 56
  | 4 => 24
  | 5 => 48
  | 6 | 7 => 32
  | _ => 40

/-- A dispatched bundle without the part of one stream; nothing where it has no other. -/
def withoutStream (sec : Bool) (d : Disp) : Option Disp :=
  if inStrm (!sec) d then
    let out := (List.range 9).filter fun j => d.secMask.getLsbD j == sec
    some { d with bits := d.bits &&& ~~~(out.foldl (fun b j => b ||| oneField j (2 ^ slotWidth j - 1)) 0),
                  pri := if sec then d.pri else none, sec := if sec then none else d.sec,
                  secMask := if sec then 0 else BitVec.allOnes 9 }
  else none

/-! ## Decode -/

/-- Whether CTL's field makes decode stop after the bundle (R91). -/
def stopsDecode (i : Option Instr) : Bool :=
  match i with
  | some (.br ..) | some (.brp ..) | some (.jmp ..) | some (.call ..) | some .ret | some (.loop ..) | some (.lbrk ..)
  | some (.trap _) | some (.kcall _) | some .yield | some .kret | some .wfi => true
  | _ => false

/-- Whether the stream's last dispatched bundle is a PS bundle that CTL has not issued (R426). -/
def psOpen (c : Core) (sec : Bool) : Bool :=
  match (c.queue.drop (nextIdx c 8)).filter (inStrm sec) with
  | [] => false
  | l => match l.getLast? with
    | some d => hdrPS d.bits
    | none => false

/-- Whether decode takes the next bundle of a stream in this cycle (R90, R91, R426). -/
def decodes (s : State) (k : Nat) (sec : Bool) : Bool :=
  let c := coreOf s k
  let x := strmOf c sec
  x.live && !x.halted && !x.yielded && x.fault.isNone && decide ((c.queue.filter (inStrm sec)).length < 17) &&
    (match x.hold with
      | .none => true
      | .until t => decide (t ≤ s.tick)
      | _ => false) &&
    !(c.stopS && psOpen c sec) && (!sec || c.phys.isEmpty)

/-- What decode finds for a stream in this cycle: nothing, a fault, the first cycle of a literal, or a bundle. -/
inductive Cand where
  | none
  | fault (f : DecFault)
  | half
  | ready (b : Bundle) (lit : Bool)
  deriving DecidableEq, Repr

/-- The candidate of one stream. -/
def candidate (s : State) (k : Nat) (sec : Bool) : Cand :=
  if !(decodes s k sec) then .none
  else
    let x := strmOf (coreOf s k) sec
    match fetchBundle s k x.next with
    | .bad i => .fault { cause := 1, slot := 8, info := BitVec.ofNat 64 i, off := x.next }
    | .bundle b lit =>
      if lit && !x.half then .half
      else
        match (if lit then validate k b else Option.none) with
        | some f => .fault (badBundle x.next f)
        | Option.none => .ready b lit

/-- What a stream's decoder does with the bundle it dispatches (R52, R91, R171, R426). The work it leaves is the expiry of
a loop count. -/
def afterDispatch (s : State) (c : Core) (k : Nat) (sec : Bool) (b : Bundle) (lit : Bool) : Core × List Work :=
  let x := strmOf c sec
  let off := x.next
  let len := bundleLen lit
  let x := { x with half := false, hold := .none, segNext := endsSegment b }
  let ctl := slotInstr b 8
  let put (x : Strm) : Core × List Work := (setStrm c sec x, [])
  if stopsDecode ctl then put { x with hold := .ctl }
  else if hdrPS b && c.stopS then put { x with hold := .ps }
  else
    match ctl with
    | some (.loopi cnt disp) =>
      if (lit && decide (disp.toNat < 25)) || (decide (cnt ≠ 0) && decide (x.lsp = 6)) then
        put { x with hold := .ctl }
      else if cnt = 0 then put { x with next := off + disp.toNat + lenAt s k (off + disp.toNat) }
      else put { loopPush x cnt.toNat (off + len) (off + disp.toNat) with next := off + len }
    | _ =>
      if atLoopEnd x off && decide (loopCount x (x.lsp - 1) ≤ 1) then
        (setStrm c sec x, [.event { due := 0, instr := .loopCountExpiry,
                                    ev := { Ev.none with core := k, flag := sec, n := off + len } }])
      else put (seqNext x off len)

/-- Dispatches the bundles of the streams that have one in this cycle. -/
def dispatch (s : State) (k : Nat) (p q : Option (Bundle × Bool)) : State :=
  let c := coreOf s k
  let bits (o : Option (Bundle × Bool)) : Bundle := (o.map (·.1)).getD 0
  let d : Disp :=
    { bits := bits p ||| bits q, pri := p.map fun _ => c.arch.pri.next, sec := q.map fun _ => c.arch.sec.next,
      secMask := if p.isSome then hdrMask (bits q) else BitVec.allOnes 9, done := 0,
      lit := (p.map (·.2)).getD false, secLit := (q.map (·.2)).getD false, tick := s.tick,
      age := c.age + 1,
      entry := hdrSEG (bits p) || hdrRV (bits p) || hdrSEG (bits q) || hdrRV (bits q) ||
        (p.isSome && c.arch.pri.segNext) || (q.isSome && c.arch.sec.segNext),
      halt := false, pre := [(c.arch.pri.loops, c.arch.pri.lsp), (c.arch.sec.loops, c.arch.sec.lsp)] }
  let c := { c with queue := c.queue ++ [d], age := c.age + 1 }
  let r1 := match p with
    | none => (c, [])
    | some (b, l) => afterDispatch s c k false b l
  let r2 := match q with
    | none => (r1.1, [])
    | some (b, l) => afterDispatch s r1.1 k true b l
  let s := setCore s k r2.1
  { s with work := r1.2 ++ r2.2 ++ s.work }

/-- A fault or the first cycle of a literal, noted in the stream. -/
def noteCand (s : State) (k : Nat) (sec : Bool) (c : Cand) : State :=
  match c with
  | .fault f => updCore s k fun x => updStrm x sec fun t => { t with fault := some f, half := false }
  | .half => updCore s k fun x => updStrm x sec fun t => { t with half := true }
  | _ => s

/-- DECODE_BUNDLE (R66, R90, R106): one cycle of decode of a core: each stream's next bundle, merged where R106 lets them;
after 64 cycles of waiting the secondary stream's bundle goes alone. -/
def execDecodeBundle (s : State) : Host.Outcome State Fault Refusal :=
  let k := s.ev.core
  let cp := candidate s k false
  let cs := if (coreOf s k).arch.secOn then candidate s k true else .none
  let s := noteCand (noteCand s k false cp) k true cs
  let wait (n : Nat) (s : State) := updCore s k fun c => { c with secWait := n }
  let s := match cs with
    | .ready .. => s
    | _ => wait 0 s
  match cp, cs with
  | .ready p l, .ready q m =>
    if mergeable p q && !(coreOf s k).arch.pri.segNext && !(coreOf s k).arch.sec.segNext then .next (dispatch (wait 0 s) k (some (p, l)) (some (q, m)))
    else if (coreOf s k).secWait ≥ 64 then .next (dispatch (wait 0 s) k none (some (q, m)))
    else .next (dispatch (wait ((coreOf s k).secWait + 1) s) k (some (p, l)) none)
  | .ready p l, _ => .next (dispatch s k (some (p, l)) none)
  | _, .ready q m => .next (dispatch (wait 0 s) k none (some (q, m)))
  | _, _ => .next s

end Sys2Proof.Machine
end

