-- ==== Sys2Proof/Machine/Cipher.lean ====
section
/-! DEFINITION. The published algorithms that the manual names: CRC-32 and CRC-32C, AES-256-XTS (IEEE 1619), SHA-384
(FIPS 180-4), HMAC and HKDF (RFC 2104, RFC 5869). -/

namespace Sys2Proof.Machine

/-! ## Cyclic redundancy checks (R434, R448) -/

/-- One bit of a reflected CRC. -/
def crcBit (poly c : Nat) : Nat := if c % 2 = 1 then Nat.xor (c / 2) poly else c / 2

/-- n bits. -/
def crcBits (poly n c : Nat) : Nat :=
  match n with
  | 0 => c
  | n + 1 => crcBits poly n (crcBit poly c)

/-- The register after a list of bytes. -/
def crcRun (poly : Nat) (c : Nat) (bs : List Byte) : Nat :=
  match bs with
  | [] => c
  | b :: r => crcRun poly (crcBits poly 8 (Nat.xor c b.toNat)) r

/-- CRC-32C (R434): polynomial 0x1EDC6F41 reflected. -/
def crc32c (bs : List Byte) : Nat := Nat.xor (crcRun 0x82F63B78 0xFFFFFFFF bs) 0xFFFFFFFF

/-- The CRC-32 of IEEE 802.3 (R448). -/
def crc32 (bs : List Byte) : Nat := Nat.xor (crcRun 0xEDB88320 0xFFFFFFFF bs) 0xFFFFFFFF

/-! ## AES-256 -/

/-- Doubling in GF(2^8). -/
def gfDouble (x : Nat) : Nat := if x < 128 then 2 * x else Nat.xor (2 * x - 256) 0x1B

/-- The product in GF(2^8), over n bits of y. -/
def gfMul (n x y : Nat) : Nat :=
  match n with
  | 0 => 0
  | n + 1 => Nat.xor (if y % 2 = 1 then x else 0) (gfMul n (gfDouble x) (y / 2))

/-- x to the power 2^n − 1 and x to the power 2^n: x^254 is (x^127)^2. -/
def gfPow (n x : Nat) : Nat × Nat :=
  match n with
  | 0 => (1, x)
  | n + 1 =>
    let p := gfPow n x
    (gfMul 8 p.1 p.2, gfMul 8 p.2 p.2)

/-- The inverse in GF(2^8), 0 of 0. -/
def gfInv (x : Nat) : Nat :=
  let p := (gfPow 7 x).1
  gfMul 8 p p

/-- A byte rotated left. -/
def rotl8 (x n : Nat) : Nat := x * 2 ^ n % 256 + x / 2 ^ (8 - n)

/-- The S-box. -/
def aesSub (x : Nat) : Nat :=
  let y := gfInv x
  Nat.xor (Nat.xor (Nat.xor y (rotl8 y 1)) (Nat.xor (rotl8 y 2) (rotl8 y 3))) (Nat.xor (rotl8 y 4) 0x63)

/-- The inverse S-box. -/
def aesInvSub (x : Nat) : Nat :=
  gfInv (Nat.xor (Nat.xor (rotl8 x 1) (Nat.xor (rotl8 x 3) (rotl8 x 6))) 0x05)

/-- Exclusive or of byte lists. -/
def xorBytes (a b : List Nat) : List Nat := List.zipWith Nat.xor a b

/-- Round constants. -/
def aesRcon (n : Nat) : Nat :=
  match n with
  | 0 => 1
  | n + 1 => gfDouble (aesRcon n)

/-- The key schedule: the words of 4 bytes from word i on, the last 8 given, oldest first. -/
def aesExpand (fuel i : Nat) (last : List (List Nat)) : List (List Nat) :=
  match fuel with
  | 0 => []
  | f + 1 =>
    let t := last.getD 7 []
    let t :=
      if i % 8 = 0 then xorBytes (((t.drop 1) ++ t.take 1).map aesSub) [aesRcon (i / 8 - 1), 0, 0, 0]
      else if i % 8 = 4 then t.map aesSub else t
    let w := xorBytes (last.getD 0 []) t
    w :: aesExpand f (i + 1) (last.drop 1 ++ [w])

/-- A list cut into pieces of n. -/
def chunksOf {α : Type} (fuel n : Nat) (l : List α) : List (List α) :=
  match fuel with
  | 0 => []
  | f + 1 => if l.isEmpty then [] else l.take n :: chunksOf f n (l.drop n)

/-- The 15 round keys of 16 bytes of a 32-byte key. -/
def aesKeys (key : List Nat) : List (List Nat) :=
  let w := chunksOf 8 4 key
  (chunksOf 15 4 (w ++ aesExpand 52 8 w)).map List.flatten

/-- ShiftRows over a state of 16 bytes, column by column. -/
def aesShift (s : List Nat) (inv : Bool) : List Nat :=
  (List.range 16).map fun i => s.getD (if inv then (i + 16 - 4 * (i % 4) ) % 16 else (i + 4 * (i % 4)) % 16) 0

/-- MixColumns with a circulant of four coefficients. -/
def aesMix (s : List Nat) (m : List Nat) : List Nat :=
  (List.range 16).map fun i =>
    (List.range 4).foldl (fun a j => Nat.xor a (gfMul 8 (s.getD (i / 4 * 4 + j) 0) (m.getD ((j + 4 - i % 4) % 4) 0))) 0

/-- The rounds of encryption: all but the last mix columns. -/
def aesRounds (ks : List (List Nat)) (s : List Nat) : List Nat :=
  match ks with
  | [] => s
  | [k] => xorBytes (aesShift (s.map aesSub) false) k
  | k :: r => aesRounds r (xorBytes (aesMix (aesShift (s.map aesSub) false) [2, 3, 1, 1]) k)

/-- AES-256 encryption of a 16-byte block. -/
def aesEncrypt (ks : List (List Nat)) (b : List Nat) : List Nat := aesRounds (ks.drop 1) (xorBytes b (ks.getD 0 []))

/-- The rounds of decryption, keys last first. -/
def aesInvRounds (ks : List (List Nat)) (s : List Nat) : List Nat :=
  match ks with
  | [] => s
  | [k] => xorBytes ((aesShift s true).map aesInvSub) k
  | k :: r => aesInvRounds r (aesMix (xorBytes ((aesShift s true).map aesInvSub) k) [14, 11, 13, 9])

/-- AES-256 decryption of a 16-byte block. -/
def aesDecrypt (ks : List (List Nat)) (b : List Nat) : List Nat :=
  let r := ks.reverse
  aesInvRounds (r.drop 1) (xorBytes b (r.getD 0 []))

/-! ## XTS (R340) -/

/-- n bytes of a number, little-endian. -/
def natBytes (v n : Nat) : List Nat := (bytesOf v n).map BitVec.toNat

/-- The number that bytes give, little-endian. -/
def bytesNat (l : List Nat) : Nat := l.foldr (fun b a => b + 256 * a) 0

/-- The next tweak: times alpha in GF(2^128). -/
def xtsNext (t : Nat) : Nat := if t < 2 ^ 127 then 2 * t else Nat.xor (2 * t - 2 ^ 128) 0x87

/-- The blocks of a data unit under successive tweaks. -/
def xtsBlocks (f : List Nat → List Nat) (t : Nat) (bs : List (List Nat)) : List Nat :=
  match bs with
  | [] => []
  | b :: r =>
    let tw := natBytes t 16
    xorBytes (f (xorBytes b tw)) tw ++ xtsBlocks f (xtsNext t) r

/-- One 128-byte sector at a physical address, encrypted or decrypted under a key slot (R340). -/
def xtsSector (k : Key) (pa : Nat) (dec : Bool) (data : List Byte) : List Byte :=
  let k1 := aesKeys (natBytes k.data.toNat 32)
  let k2 := aesKeys (natBytes k.tweak.toNat 32)
  let t := bytesNat (aesEncrypt k2 (natBytes (pa / 128) 16))
  (xtsBlocks (if dec then aesDecrypt k1 else aesEncrypt k1) t (chunksOf 8 16 (data.map BitVec.toNat))).map (BitVec.ofNat 8)

/-! ## SHA-384, HMAC, HKDF -/

/-- The greatest r below 2^n with r to the power e at most x, given the bits of r above n. -/
def rootBits (e x n r : Nat) : Nat :=
  match n with
  | 0 => r
  | n + 1 => rootBits e x n (if (r + 2 ^ n) ^ e ≤ x then r + 2 ^ n else r)

/-- The first 64 bits of the fractional part of the e-th root of p, as FIPS 180-4 defines its constants. -/
def rootFrac (e p : Nat) : Word := BitVec.ofNat 64 (rootBits e (p * 2 ^ (64 * e)) 70 0)

/-- The odd numbers from n on that no smaller prime of the list divides. -/
def primesFrom (fuel n : Nat) (found : List Nat) : List Nat :=
  match fuel with
  | 0 => found
  | f + 1 => primesFrom f (n + 2) (if found.any (fun p => n % p = 0) then found else found ++ [n])

/-- The first 80 primes, 2 to 409. -/
def primes80 : List Nat := primesFrom 204 3 [2]

/-- SHA-384's initial hash value in pairs (a, e) to (d, h): the square roots of the ninth to sixteenth primes. -/
def shaInit : List (Word × Word) :=
  (List.range 4).map fun i => (rootFrac 2 (primes80.getD (8 + i) 0), rootFrac 2 (primes80.getD (12 + i) 0))

/-- The 80 round constants: the cube roots of the first 80 primes. -/
def shaK : List Word := primes80.map (rootFrac 3)

/-- The exclusive or of a word under three bit maps. -/
def xor3 (f g h : Word → Word) (x : Word) : Word := f x ^^^ g x ^^^ h x

/-- A rotation to the right. -/
def rotr (n : Nat) (x : Word) : Word := x.rotateRight n

/-- The message schedule, newest word first, extended by n words. -/
def shaExtend (n : Nat) (w : List Word) : List Word :=
  match n with
  | 0 => w
  | n + 1 =>
    let back (k : Nat) : Word := w.getD (k - 1) 0
    shaExtend n ((xor3 (rotr 19) (rotr 61) (· >>> 6) (back 2) + back 7 + xor3 (rotr 1) (rotr 8) (· >>> 7) (back 15) +
      back 16) :: w)

/-- One round over the pairs (a, e), (b, f), (c, g), (d, h) with the word W + K: a new pair comes in front. -/
def shaRound (v : List (Word × Word)) (wk : Word) : List (Word × Word) :=
  match v with
  | [(a, e), (b, f), (c, g), (d, h)] =>
    let pick := (e &&& f) ^^^ (~~~e &&& g)
    let major := (a &&& b) ^^^ (a &&& c) ^^^ (b &&& c)
    let t := h + wk + pick + xor3 (rotr 14) (rotr 18) (rotr 41) e
    [(t + major + xor3 (rotr 28) (rotr 34) (rotr 39) a, d + t), (a, e), (b, f), (c, g)]
  | _ => v

/-- One block of 16 words. -/
def shaBlock (h : List (Word × Word)) (m : List Word) : List (Word × Word) :=
  let out := (List.zipWith (· + ·) (shaExtend 64 m.reverse).reverse shaK).foldl shaRound h
  List.zipWith (fun x y => (x.1 + y.1, x.2 + y.2)) h out

/-- A big-endian word of 8 bytes. -/
def beWord (bs : List Byte) : Word := BitVec.ofNat 64 (natOfBytes bs.reverse)

/-- The blocks of a padded message. -/
def shaRun (fuel : Nat) (h : List (Word × Word)) (bs : List Byte) : List (Word × Word) :=
  match fuel with
  | 0 => h
  | f + 1 =>
    if bs.isEmpty then h
    else shaRun f (shaBlock h ((chunksOf 16 8 (bs.take 128)).map beWord)) (bs.drop 128)

/-- Big-endian bytes of a number. -/
def beBytes (v n : Nat) : List Byte := (bytesOf v n).reverse

/-- SHA-384 of a message: 48 bytes. -/
def sha384 (m : List Byte) : List Byte :=
  let pad := m ++ [0x80#8] ++ List.replicate ((239 - m.length % 128) % 128) 0 ++ beBytes (8 * m.length) 16
  let h := shaRun (pad.length / 128 + 1) shaInit pad
  ((h.map Prod.fst ++ h.map Prod.snd).take 6).flatMap fun w => beBytes w.toNat 8

/-- HMAC with SHA-384. -/
def hmac384 (key msg : List Byte) : List Byte :=
  let k := if key.length > 128 then sha384 key else key
  let k := k ++ List.replicate (128 - k.length) 0
  sha384 ((k.map (· ^^^ 0x5C#8)) ++ sha384 ((k.map (· ^^^ 0x36#8)) ++ msg))

/-- The output blocks of HKDF-Expand from block i on. -/
def hkdfBlocks (fuel : Nat) (prk info prev : List Byte) (i : Nat) : List Byte :=
  match fuel with
  | 0 => []
  | f + 1 =>
    let t := hmac384 prk (prev ++ info ++ [BitVec.ofNat 8 i])
    t ++ hkdfBlocks f prk info t (i + 1)

/-- HKDF with SHA-384: salt, input key material, info, length. -/
def hkdf384 (salt ikm info : List Byte) (n : Nat) : List Byte :=
  (hkdfBlocks ((n + 47) / 48) (hmac384 (if salt.isEmpty then List.replicate 48 0 else salt) ikm) info [] 1).take n

end Sys2Proof.Machine
end

