-- ==== Sys2Proof/Machine/Operands.lean ====
section
/-! DEFINITION. Operand forms of the vector slots (R80, R81, R184 to R189): element views, sub-element modifiers, guards,
the random bits of a rounding over many elements, and the writes that they make. -/

namespace Sys2Proof.Machine

/-! ## Elements (R184) -/

/-- Element e of width w of a register's bits x. -/
def elemAt (w x e : Nat) : Nat := x / 2 ^ (w * e) % 2 ^ w

/-- The bits of a register whose n elements of width w are given by f. -/
def build (w n : Nat) (f : Nat → Nat) : Nat :=
  match n with
  | 0 => 0
  | n + 1 => build w n f + f n % 2 ^ w * 2 ^ (w * n)

/-- Elements of width w in a register. -/
def elemCount (w : Nat) : Nat := 16384 / w

/-- The lane of element e of width w. -/
def laneOf (w e : Nat) : Nat := e / (32 / w)

/-- A rounding that never rounds: an exact value is written as it is. -/
def exactRnd : Rnd := { mode := .rne, sat := false, ftz := false, rng := 0 }

/-! ## Modifiers (R81) -/

/-- The format that fmt.af (for va) or fmt.bf (for vb) names. -/
def subFmt (fm : Word32) (isA : Bool) : Option Fmt := fmtOf (BitVec.ofNat 4 (if isA then fmtAf fm else fmtBf fm))

/-- The sub-element of a 32-bit lane that a modifier names, and its width. -/
def subElem (m x : Nat) : Nat × Nat :=
  match m with
  | 1 => (x % 2 ^ 16, 16)
  | 2 => (x / 2 ^ 16 % 2 ^ 16, 16)
  | 3 => (x % 2 ^ 8, 8)
  | 4 => (x / 2 ^ 8 % 2 ^ 8, 8)
  | 5 => (x / 2 ^ 16 % 2 ^ 8, 8)
  | _ => (x / 2 ^ 24 % 2 ^ 8, 8)

/-- The format-fault check of a modifier on a 32-bit float operand: BF16 or FP16 halves, E4M3 or E5M2 bytes. -/
def modChk (fm : Word32) (f : Fmt) (isA : Bool) (m : BitVec 3) : Chk :=
  if f = .fp32 ∧ m ≠ 0 then
    match subFmt fm isA with
    | some .bf16 | some .fp16 => faultIf (decide (m.toNat > 2)) 7 0 0
    | some .e4m3 | some .e5m2 => faultIf (decide (m.toNat ≤ 2)) 7 0 0
    | _ => .fault 7 0 0
  else .ok

/-- A lane after a 32-bit modifier: widened by its sign for I32, by zeros for N32, exactly to FP32 else, where a
NaN becomes the canonical one as in any conversion (R128; DEDUCED, see the log). -/
def widen (fm : Word32) (f : Fmt) (isA : Bool) (m x : Nat) : Nat :=
  let e := subElem m x
  match f with
  | .i32 => intCode 32 (intOf true e.2 e.1)
  | .n32 => e.1
  | _ => encodeFlt .fp32 exactRnd (decodeNum (fmtNty ((subFmt fm isA).getD .bf16)) (fmtFtz fm) e.1)

/-- Which element of a lane of 2, 4 or 8 elements element j takes under a modifier. -/
def modIndex (w m j : Nat) : Nat :=
  if m = 0 then j
  else if w = 16 then (if m = 3 then 1 - j else m - 1)
  else if w = 8 then (if m ≤ 4 then m - 1 else Nat.xor j (m - 4))
  else if m ≤ 4 then 2 * (m - 1) + j % 2
  else if m = 5 then Nat.xor j 1
  else 2 * Nat.xor (j / 2) (m - 5) + j % 2

/-- Element e of an operand read in format f under a modifier. -/
def operand (fm : Word32) (f : Fmt) (isA : Bool) (m : BitVec 3) (x : Nat) (e : Nat) : Nat :=
  let w := fmtWidth f
  if w = 32 then
    let y := elemAt 32 x e
    if m = 0 then y else widen fm f isA m.toNat y
  else
    let k := 32 / w
    elemAt w x (e / k * k + modIndex w m.toNat (e % k))

/-! ## Guards and writes (R80, R183) -/

/-- The lanes whose guard is true. -/
def guardOf? (s : State) (o : VOp) : PReg :=
  match o.g with
  | none => BitVec.allOnes 512
  | some g => if g.gn then ~~~(readP s g.gp.toNat) else readP s g.gp.toNat

/-- Whether guard-false lanes receive zero. -/
def gzOf (o : VOp) : Bool :=
  match o.g with
  | none => false
  | some g => g.gz

/-- The write of a vector register under a guard. -/
def laneWrite (i : Nat) (g : PReg) (gz : Bool) (val : Nat) : RegWrite :=
  if gz && decide (g ≠ BitVec.allOnes 512) then
    .v i (BitVec.allOnes 512) (BitVec.ofNat 16384 (Nat.land val (laneMask g 512)))
  else .v i g (BitVec.ofNat 16384 val)

/-- A vector result that lands after l cycles. -/
def putV (s : State) (l : Nat) (o : VOp) (vd val : Nat) : State := land s l (laneWrite vd (guardOf? s o) (gzOf o) val)

/-- The number of an own predicate of the acting slot: px in VX, py in VY. -/
def ownPred (s : State) (k : Nat) : Nat := if s.cur.slot = 2 then k else 16 + k

/-- A predicate result that lands after l cycles; the guard applies to each bit. -/
def putP (s : State) (l : Nat) (o : VOp) (k : Nat) (val : PReg) : State :=
  let g := guardOf? s o
  land s l (if gzOf o then .p (ownPred s k) (BitVec.allOnes 512) (val &&& g) else .p (ownPred s k) g val)

/-- A vector instruction: its checks, and its result's bits. -/
def vectorOp (s : State) (l : Nat) (o : VOp) (k : Chk) (val : State → Nat) : Host.Outcome State Fault Refusal :=
  perform s k fun s => putV s l o o.vd.toNat (val s)

/-- A vector instruction that rounds n results: in rst the slot draws once for each four (R126, R187). -/
def roundedV (s : State) (l n : Nat) (o : VOp) (k : Chk) (r : RSel) (val : State → (Nat → Rnd) → Nat) :
    Host.Outcome State Fault Refusal :=
  let fm := readFmt s
  perform s (k.and (rmChk r fm)) fun s =>
    let m := modeOf r fm
    if m = .rst then
      let d := draws ((n + 3) / 4) (readSeed s s.cur.slot)
      setSeed (putV s l o o.vd.toNat (val s fun i => rndOf m fm (rngAt d.1 i))) s.cur.slot d.2
    else putV s l o o.vd.toNat (val s fun _ => rndOf m fm 0)

/-- A result of format f that stands one per lane (R189). -/
def place (f : Fmt) (code : Nat) : Nat :=
  match fmtNty f with
  | .int true w => intCode 32 (intOf true w code)
  | t => code % 2 ^ t.width

/-! ## Comparing and combining (R141, R193, R199) -/

/-- The smaller value: NaN where either is NaN, −0 below +0. -/
def numMin (a b : Num) : Num :=
  if a.isNan || b.isNan then .nan
  else
    let k := Num.cmp a b
    if k < 0 then a else if k > 0 then b else if a.neg? then a else b

/-- The larger value. -/
def numMax (a b : Num) : Num :=
  if a.isNan || b.isNan then .nan
  else
    let k := Num.cmp a b
    if k < 0 then b else if k > 0 then a else if a.neg? then b else a

/-- The code of an operand after input flushing, NaN canonical. -/
def flushCode (f : Fmt) (ftz : Bool) (code : Nat) : Nat :=
  match fmtNty f with
  | .flt t => encodeFlt t exactRnd (decodeFlt t ftz code)
  | _ => code

/-- apply_round of R142 on codes: floats by the exact operation and round_fp, integers wrapping. -/
def combine (op : CombOp) (f : Fmt) (c : Rnd) (a b : Nat) : Nat :=
  match fmtNty f with
  | .flt t =>
    let x := decodeFlt t false a
    let y := decodeFlt t false b
    encodeFlt t c (match op with
      | .add => Num.add c.mode x y
      | .max => numMax x y
      | .min => numMin x y)
  | .int s w =>
    let x := intOf s w a
    let y := intOf s w b
    intCode w (match op with
      | .add => x + y
      | .max => max x y
      | .min => min x y)
  | _ => a

/-- The identity of an operation (R141). -/
def identOf (op : CombOp) (f : Fmt) : Nat :=
  match fmtNty f with
  | .flt t =>
    match op with
    | .add => t.sign true
    | .max => t.sign true + t.infMag.getD 0
    | .min => t.infMag.getD 0
  | .int s w =>
    match op with
    | .add => 0
    | .max => intCode w (intMin s w)
    | .min => intCode w (intMax s w)
  | _ => 0

/-- One level of the reduction tree; i numbers the results. -/
def pairUp (f : Nat → Nat → Nat → Nat) (i : Nat) (l : List Nat) : List Nat :=
  match l with
  | a :: b :: r => f i a b :: pairUp f (i + 1) r
  | l => l

/-- reduce_tree of R141 over codes: ds are the draws still to use. -/
def reduceTree (op : CombOp) (f : Fmt) (mk : Nat → Rnd) (fuel : Nat) (ds : List Word) (l : List Nat) : Nat :=
  match fuel with
  | 0 => l.headD 0
  | n + 1 =>
    let m := l.length / 2
    reduceTree op f mk n (ds.drop ((m + 3) / 4)) (pairUp (fun i => combine op f (mk (rngAt ds i))) 0 l)

/-- The draws of a tree over 2^k elements (R208). -/
def treeDraws (k : Nat) : Nat :=
  match k with
  | 0 => 0
  | k + 1 => treeDraws k + (2 ^ k + 3) / 4

/-- One doubling pass of a scan (R209) at distance d. -/
def scanPass (op : CombOp) (f : Fmt) (mk : Nat → Rnd) (ds : List Word) (d : Nat) (x : Nat) (n : Nat) : Nat :=
  let w := fmtWidth f
  build w n fun e => if e ≥ d then combine op f (mk (rngAt ds e)) (elemAt w x (e - d)) (elemAt w x e) else elemAt w x e

/-- The passes of a scan from distance d. -/
def scanAll (op : CombOp) (f : Fmt) (mk : Nat → Rnd) (fuel : Nat) (ds : List Word) (d x n : Nat) : Nat :=
  match fuel with
  | 0 => x
  | k + 1 => scanAll op f mk k (ds.drop (n / 4)) (2 * d) (scanPass op f mk ds d x n) n

/-- The rank of a value for R199: none for NaN, which is below every other. -/
def rankOf (f : Fmt) (ftz : Bool) (code : Nat) : Option Num :=
  match decodeNum (fmtNty f) ftz code with
  | .nan => none
  | x => some x

/-- Order of two pairs under R199: −1 where the first ranks below, 0 the same, 1 above. -/
def pairCmp (f : Fmt) (ftz : Bool) (a ia b ib : Nat) : Int :=
  let byIndex : Int := if ia < ib then 1 else if ia = ib then 0 else -1
  match rankOf f ftz a, rankOf f ftz b with
  | none, none => byIndex
  | none, some _ => -1
  | some _, none => 1
  | some x, some y => let k := Num.cmp x y; if k = 0 then byIndex else k

end Sys2Proof.Machine
end

