-- ==== Sys2Proof/Machine/Vector.lean ====
section
/-! DEFINITION. VX and VY (chapter 05). -/

namespace Sys2Proof.Machine

/-- An operand register's bits. -/
def vBits (s : State) (r : BitVec 9) : Nat := (readV s r.toNat).toNat

/-- The element of va of an instruction whose operands are read in format f. -/
def opA (s : State) (f : Fmt) (o : VOp) : Nat → Nat := operand (readFmt s) f true o.ma (vBits s o.va)

/-- The element of vb. -/
def opB (s : State) (f : Fmt) (o : VOp) : Nat → Nat := operand (readFmt s) f false o.mb (vBits s o.vb)

/-- The checks of both modifiers. -/
def modsChk (s : State) (f : Fmt) (o : VOp) : Chk := (modChk (readFmt s) f true o.ma).and (modChk (readFmt s) f false o.mb)

/-- A float element after input flushing. -/
def fltOf (s : State) (f : Fmt) (code : Nat) : Num := decodeNum (fmtNty f) (fmtFtz (readFmt s)) code

/-- A signed or unsigned integer element. -/
def intElem (f : Fmt) (code : Nat) : Int :=
  match fmtNty f with
  | .int sg w => intOf sg w code
  | t => (code % 2 ^ t.width : Nat)

/-! ## Arithmetic (R191 to R195) -/

/-- VADD, VSUB and VMUL: floats by one rounding of g, integers modulo 2^w by h. -/
def arith (s : State) (f : Fmt) (r : RSel) (o : VOp) (li : Nat) (g : RM → Num → Num → Num) (h : Int → Int → Int) :
    Host.Outcome State Fault Refusal :=
  let w := fmtWidth f
  let n := elemCount w
  if isInt f then
    vectorOp s li o (modsChk s f o) fun s =>
      let a := opA s f o
      let b := opB s f o
      build w n fun e => intCode w (h (intElem f (a e)) (intElem f (b e)))
  else
    roundedV s 4 n o (modsChk s f o) r fun s c =>
      let a := opA s f o
      let b := opB s f o
      build w n fun e => encodeNum (fmtNty f) (c e) (g (c e).mode (fltOf s f (a e)) (fltOf s f (b e)))

/-- VADD (R192, R194). -/
def execVadd (f : Fmt) (r : RSel) (o : VOp) (s : State) : Host.Outcome State Fault Refusal :=
  arith s f r o 2 (fun m a b => Num.add m a b) fun a b => a + b

/-- VSUB (R192, R194). -/
def execVsub (f : Fmt) (r : RSel) (o : VOp) (s : State) : Host.Outcome State Fault Refusal :=
  arith s f r o 2 (fun m a b => Num.add m a b.negate) fun a b => a - b

/-- VMUL (R192, R194). -/
def execVmul (f : Fmt) (r : RSel) (o : VOp) (s : State) : Host.Outcome State Fault Refusal :=
  arith s f r o 3 (fun _ a b => Num.mul a b) fun a b => a * b

/-- VFMA (R192): one rounding; vd takes no modifier. -/
def execVfma (f : Fmt) (r : RSel) (o : VOp) (s : State) : Host.Outcome State Fault Refusal :=
  let w := fmtWidth f
  let n := elemCount w
  roundedV s 4 n o (modsChk s f o) r fun s c =>
    let a := opA s f o
    let b := opB s f o
    let d := vBits s o.vd
    build w n fun e =>
      encodeNum (fmtNty f) (c e)
        (Num.add (c e).mode (Num.mul (fltOf s f (a e)) (fltOf s f (b e))) (fltOf s f (elemAt w d e)))

/-- VMIN and VMAX (R193, R194): floats by g, integers by h. -/
def pickOp (s : State) (f : Fmt) (o : VOp) (g : Num → Num → Num) (h : Int → Int → Int) :
    Host.Outcome State Fault Refusal :=
  let w := fmtWidth f
  let n := elemCount w
  vectorOp s (if isInt f then 2 else 4) o (modsChk s f o) fun s =>
    let a := opA s f o
    let b := opB s f o
    build w n fun e =>
      if isInt f then intCode w (h (intElem f (a e)) (intElem f (b e)))
      else encodeNum (fmtNty f) exactRnd (g (fltOf s f (a e)) (fltOf s f (b e)))

/-- VMIN (R193, R194). -/
def execVmin (f : Fmt) (o : VOp) (s : State) : Host.Outcome State Fault Refusal := pickOp s f o numMin min

/-- VMAX (R193, R194). -/
def execVmax (f : Fmt) (o : VOp) (s : State) : Host.Outcome State Fault Refusal := pickOp s f o numMax max

/-- VABS and VNEG (R193, R194). -/
def signOp (s : State) (f : Fmt) (o : VOp) (g : Num → Num) (h : Int → Int) : Host.Outcome State Fault Refusal :=
  let w := fmtWidth f
  vectorOp s 2 o (modChk (readFmt s) f true o.ma) fun s =>
    let a := opA s f o
    build w (elemCount w) fun e =>
      if isInt f then intCode w (h (intElem f (a e)))
      else encodeNum (fmtNty f) exactRnd (g (fltOf s f (a e)))

/-- VABS (R193, R194). -/
def execVabs (f : Fmt) (o : VOp) (s : State) : Host.Outcome State Fault Refusal :=
  signOp s f o (fun a => if a.neg? then a.negate else a) fun a => a.natAbs

/-- VNEG (R193, R194). -/
def execVneg (f : Fmt) (o : VOp) (s : State) : Host.Outcome State Fault Refusal := signOp s f o Num.negate fun a => -a

/-- VMULH (R194): bits 2w−1:w of the exact product. -/
def execVmulh (f : Fmt) (o : VOp) (s : State) : Host.Outcome State Fault Refusal :=
  let w := fmtWidth f
  vectorOp s 3 o (modsChk s f o) fun s =>
    let a := opA s f o
    let b := opB s f o
    build w (elemCount w) fun e => intCode w ((intElem f (a e) * intElem f (b e)).ediv ((2 ^ w : Nat) : Int))

/-- The exact sum of k products. -/
def dotSum (k : Nat) (p : Nat → Int) : Int :=
  match k with
  | 0 => 0
  | k + 1 => dotSum k p + p k

/-- VDOT4 (R195). -/
def execVdot4 (f : Fmt) (o : VOp) (s : State) : Host.Outcome State Fault Refusal :=
  vectorOp s 4 o (modsChk s f o) fun s =>
    let k := 32 / fmtWidth f
    let a := opA s f o
    let b := opB s f o
    let d := vBits s o.vd
    build 32 512 fun i =>
      intCode 32 (intOf true 32 (elemAt 32 d i) + dotSum k fun j => intElem f (a (k * i + j)) * intElem f (b (k * i + j)))

/-! ## Logic and shifts (R196, R197) -/

/-- VAND (R196). -/
def execVand (o : VOp) (s : State) : Host.Outcome State Fault Refusal :=
  vectorOp s 2 o .ok fun s => Nat.land (vBits s o.va) (vBits s o.vb)

/-- VOR (R196). -/
def execVor (o : VOp) (s : State) : Host.Outcome State Fault Refusal :=
  vectorOp s 2 o .ok fun s => Nat.lor (vBits s o.va) (vBits s o.vb)

/-- VXOR (R196). -/
def execVxor (o : VOp) (s : State) : Host.Outcome State Fault Refusal :=
  vectorOp s 2 o .ok fun s => Nat.xor (vBits s o.va) (vBits s o.vb)

/-- VNOT (R196). -/
def execVnot (o : VOp) (s : State) : Host.Outcome State Fault Refusal :=
  vectorOp s 2 o .ok fun s => 2 ^ 16384 - 1 - vBits s o.va

/-- The shifts (R197): an element of width w by n, where g gives the result for n < w and z for n ≥ w. -/
def shiftOp (s : State) (f : Fmt) (imm : Bool) (o : VOp) (g : Nat → Nat → Nat → Nat) : Host.Outcome State Fault Refusal :=
  let w := fmtWidth f
  vectorOp s 2 o (modsChk s f o) fun s =>
    let a := opA s f o
    let b := opB s f o
    build w (elemCount w) fun e => g w (a e) (if imm then o.vb.toNat % 32 else b e)

/-- VSHL (R197). -/
def execVshl (f : Fmt) (imm : Bool) (o : VOp) (s : State) : Host.Outcome State Fault Refusal :=
  shiftOp s f imm o fun w a n => if n ≥ w then 0 else a * 2 ^ n % 2 ^ w

/-- VSHR (R197): logical in every format. -/
def execVshr (f : Fmt) (imm : Bool) (o : VOp) (s : State) : Host.Outcome State Fault Refusal :=
  shiftOp s f imm o fun w a n => if n ≥ w then 0 else a / 2 ^ n

/-- VSAR (R197): arithmetic in every format. -/
def execVsar (f : Fmt) (imm : Bool) (o : VOp) (s : State) : Host.Outcome State Fault Refusal :=
  shiftOp s f imm o fun w a n => intCode w ((intOf true w a).ediv ((2 ^ min n w : Nat) : Int))

/-! ## Compares and selects (R198 to R202) -/

/-- A predicate given bit by bit. -/
def buildP (f : Nat → Bool) : PReg := BitVec.ofNat 512 (build 1 512 fun i => if f i then 1 else 0)

/-- One lane of VCMP (R198, R84). -/
def vcmpLane (f : Fmt) (code : BitVec 4) (ftz : Bool) (a b : Nat) : Bool :=
  if isInt f then
    match icondOf code with
    | some c => icondHolds c (BitVec.ofInt 64 (intOf true 32 a)) (BitVec.ofInt 64 (intOf true 32 b))
    | none => false
  else
    match fcondOf code with
    | some c => fcondHolds c (decodeFlt .fp32 ftz a) (decodeFlt .fp32 ftz b)
    | none => false

/-- VCMP (R198). -/
def execVcmp (f : Fmt) (code : BitVec 4) (o : VOp) (s : State) : Host.Outcome State Fault Refusal :=
  perform s (modsChk s f o) fun s =>
    let a := opA s f o
    let b := opB s f o
    putP s 2 o (o.vd.toNat % 16) (buildP fun i => vcmpLane f code (fmtFtz (readFmt s)) (a i) (b i))

/-- A comparison of ranks (R200). -/
def pcondHolds (c : PCond) (k : Int) : Bool :=
  match c with
  | .eq => decide (k = 0)
  | .ne => decide (k ≠ 0)
  | .lt => decide (k < 0)
  | .le => decide (k ≤ 0)
  | .gt => decide (k > 0)
  | .ge => decide (k ≥ 0)

/-- VCMPT (R200): the indices stand in the same-numbered registers of the other file. -/
def execVcmpt (f : Fmt) (c : PCond) (o : VOp) (s : State) : Host.Outcome State Fault Refusal :=
  perform s (modsChk s f o) fun s =>
    let a := opA s f o
    let b := opB s f o
    let ia := (readV s (Nat.xor o.va.toNat 256)).toNat
    let ib := (readV s (Nat.xor o.vb.toNat 256)).toNat
    putP s 2 o (o.vd.toNat % 16)
      (buildP fun i => pcondHolds c (pairCmp f (fmtFtz (readFmt s)) (a i) (elemAt 32 ia i) (b i) (elemAt 32 ib i)))

/-- VSEL (R201). -/
def execVsel (p : BitVec 5) (o : VOp) (s : State) : Host.Outcome State Fault Refusal :=
  vectorOp s 2 o .ok fun s =>
    let m := laneMask (readP s p.toNat) 512
    Nat.lor (Nat.land (vBits s o.va) m) (Nat.land (vBits s o.vb) (2 ^ 16384 - 1 - m))

/-- A value written by VCAS: an FP32 NaN canonical (R202). -/
def casCode (f : Fmt) (x : Nat) : Nat := if f = .fp32 ∧ (decodeFlt .fp32 false x).isNan then FF.fp32.nan else x

/-- VCAS (R202): both value registers and the predicate. -/
def execVcas (f : Fmt) (pd : BitVec 4) (o : VOp) (s : State) : Host.Outcome State Fault Refusal :=
  perform s .ok fun s =>
    let d := vBits s o.vd
    let a := vBits s o.va
    let ia := vBits s o.vb
    let ib := (readV s (o.vb.toNat + 1)).toNat
    let ftz := fmtFtz (readFmt s)
    let sw := buildP fun i =>
      decide (pairCmp f ftz (elemAt 32 a i) (elemAt 32 ib i) (elemAt 32 d i) (elemAt 32 ia i) > 0)
    let lane (x y : Nat) := build 32 512 fun i => casCode f (elemAt 32 (if sw.getLsbD i then y else x) i)
    putP (putV (putV s 4 o o.vd.toNat (lane d a)) 4 o o.va.toNat (lane a d)) 4 o pd.toNat sw

/-! ## Moves and permutes (R203 to R207, R215) -/

/-- VMOV (R203). -/
def execVmov (f : Fmt) (o : VOp) (s : State) : Host.Outcome State Fault Refusal :=
  let w := fmtWidth f
  vectorOp s 2 o (modChk (readFmt s) f true o.ma) fun s => build w (elemCount w) (opA s f o)

/-- VBCAST (R204). -/
def execVbcast (f : Fmt) (o : VOp) (s : State) : Host.Outcome State Fault Refusal :=
  let w := fmtWidth f
  vectorOp s 2 o .ok fun s =>
    let x := (readS s (o.va.extractLsb' 0 6)).toNat
    build w (elemCount w) fun _ => x

/-- VIDX (R205). -/
def execVidx (f : Fmt) (o : VOp) (s : State) : Host.Outcome State Fault Refusal :=
  let w := fmtWidth f
  vectorOp s 2 o .ok fun _ => build w (elemCount w) fun e => e

/-- Lanes of a register in the order that m gives. -/
def permute (x : Nat) (m : Nat → Nat) : Nat := build 32 512 fun i => elemAt 32 x (m i)

/-- VPERM (R206). -/
def execVperm (o : VOp) (s : State) : Host.Outcome State Fault Refusal :=
  vectorOp s 4 o .ok fun s =>
    let b := vBits s o.vb
    permute (vBits s o.va) fun i => elemAt 32 b i % 512

/-- VROT (R206). -/
def execVrot (imm : Bool) (o : VOp) (s : State) : Host.Outcome State Fault Refusal :=
  vectorOp s 3 o .ok fun s =>
    let n := if imm then o.vb.toNat else (readS s (o.vb.extractLsb' 0 6)).toNat % 512
    permute (vBits s o.va) fun i => (i + n) % 512

/-- The patterns of R207. -/
def shufIndex (k i : Nat) : Nat :=
  if k ≤ 8 then Nat.xor i (2 ^ k)
  else if k = 9 then 511 - i
  else if k = 10 then (if i < 256 then 2 * i else 2 * (i - 256) + 1)
  else if k = 11 then (if i % 2 = 0 then i / 2 else 256 + (i - 1) / 2)
  else 0

/-- VSHUF (R207). -/
def execVshuf (o : VOp) (s : State) : Host.Outcome State Fault Refusal :=
  vectorOp s 4 o .ok fun s => permute (vBits s o.va) (shufIndex (o.vb.toNat % 16))

/-- VPACK (R215): the low halves of the containers of va, then of vb, in each lane. -/
def execVpack (f : Fmt) (o : VOp) (s : State) : Host.Outcome State Fault Refusal :=
  let w := fmtWidth f
  let h := 16 / w
  vectorOp s 3 o .ok fun s =>
    let a := vBits s o.va
    let b := vBits s o.vb
    build w (elemCount w) fun e =>
      let i := e / (2 * h)
      let j := e % (2 * h)
      if j < h then elemAt (2 * w) a (h * i + j) else elemAt (2 * w) b (h * i + (j - h))

/-- VUNPK (R215). -/
def execVunpk (f : Fmt) (hi : Bool) (o : VOp) (s : State) : Host.Outcome State Fault Refusal :=
  let w := fmtWidth f
  let h := 16 / w
  vectorOp s 3 o .ok fun s =>
    let a := vBits s o.va
    build (2 * w) (elemCount (2 * w)) fun e =>
      let x := elemAt w a (e / h * (2 * h) + (if hi then h else 0) + e % h)
      match fmtNty f with
      | .int true _ => intCode (2 * w) (intOf true w x)
      | _ => x

/-! ## Reductions and scans (R208, R209) -/

/-- The elements of va that enter a reduction, as codes: identities in guard-false lanes. -/
def redElem (s : State) (op : CombOp) (f : Fmt) (o : VOp) : Nat → Nat :=
  let a := opA s f o
  let g := guardOf? s o
  let ftz := fmtFtz (readFmt s)
  fun e => if g.getLsbD (laneOf (fmtWidth f) e) then flushCode f ftz (a e) else identOf op f

/-- A list of the first n values. -/
def firstN (n : Nat) (f : Nat → Nat) : List Nat := (List.range n).map f

/-- A reduction over all elements, every element receiving its result. -/
def reduceOp (s : State) (op : CombOp) (f : Fmt) (r : RSel) (o : VOp) : Host.Outcome State Fault Refusal :=
  let fm := readFmt s
  let w := fmtWidth f
  let n := elemCount w
  let k := Nat.log2 n
  let rounds := decide (op = .add) && !(isInt f)
  perform s ((modChk fm f true o.ma).and (if rounds then rmChk r fm else .ok)) fun s =>
    let m := if rounds then modeOf r fm else .rne
    let d := if m = .rst then draws (treeDraws k) (readSeed s s.cur.slot) else ([], readSeed s s.cur.slot)
    let x := reduceTree op f (rndOf m fm) k d.1 (firstN n (redElem s op f o))
    let s := putV s 8 o o.vd.toNat (build w n fun _ => x)
    if m = .rst then setSeed s s.cur.slot d.2 else s

/-- VREDADD (R208). -/
def execVredadd (f : Fmt) (r : RSel) (o : VOp) (s : State) : Host.Outcome State Fault Refusal := reduceOp s .add f r o

/-- VREDMAX (R208). -/
def execVredmax (f : Fmt) (o : VOp) (s : State) : Host.Outcome State Fault Refusal := reduceOp s .max f .rm o

/-- VREDMIN (R208). -/
def execVredmin (f : Fmt) (o : VOp) (s : State) : Host.Outcome State Fault Refusal := reduceOp s .min f .rm o

/-- VSCAN (R209). -/
def execVscan (op : CombOp) (f : Fmt) (r : RSel) (o : VOp) (s : State) : Host.Outcome State Fault Refusal :=
  let fm := readFmt s
  let w := fmtWidth f
  let n := elemCount w
  let k := Nat.log2 n
  let rounds := decide (op = .add) && !(isInt f)
  perform s ((modChk fm f true o.ma).and (if rounds then rmChk r fm else .ok)) fun s =>
    let m := if rounds then modeOf r fm else .rne
    let d := if m = .rst then draws (k * (n / 4)) (readSeed s s.cur.slot) else ([], readSeed s s.cur.slot)
    let s := putV s 10 o o.vd.toNat (scanAll op f (rndOf m fm) k d.1 1 (build w n (redElem s op f o)) n)
    if m = .rst then setSeed s s.cur.slot d.2 else s

/-! ## Special functions (R210) -/

/-- A correctly rounded function of each element. -/
def specialOp (s : State) (f : Fmt) (r : RSel) (o : VOp) (g : Num → Num) : Host.Outcome State Fault Refusal :=
  let w := fmtWidth f
  let n := elemCount w
  roundedV s 6 n o (modChk (readFmt s) f true o.ma) r fun s c =>
    let a := opA s f o
    build w n fun e => encodeNum (fmtNty f) (c e) (g (fltOf s f (a e)))

/-- VEXP2 (R210). -/
def execVexp2 (f : Fmt) (r : RSel) (o : VOp) (s : State) : Host.Outcome State Fault Refusal := specialOp s f r o Num.exp2

/-- VLOG2 (R210). -/
def execVlog2 (f : Fmt) (r : RSel) (o : VOp) (s : State) : Host.Outcome State Fault Refusal := specialOp s f r o Num.log2

/-- VRCP (R210). -/
def execVrcp (f : Fmt) (r : RSel) (o : VOp) (s : State) : Host.Outcome State Fault Refusal := specialOp s f r o Num.rcp

/-- VRSQ (R210). -/
def execVrsq (f : Fmt) (r : RSel) (o : VOp) (s : State) : Host.Outcome State Fault Refusal := specialOp s f r o Num.rsq

/-! ## Conversion and scaling (R211 to R214) -/

/-- One element of VCVT: equal float formats canonicalise NaN and flush, keeping infinities. -/
def vcvtCode (dst src : Fmt) (c : Rnd) (code : Nat) : Nat :=
  if dst = src then
    match fmtNty src with
    | .flt t => encodeFlt t exactRnd (decodeFlt t c.ftz code)
    | t => code % 2 ^ t.width
  else convert (fmtNty dst) (fmtNty src) c code

/-- VCVT (R211, R584). -/
def execVcvt (dst src : Fmt) (r : RSel) (o : VOp) (s : State) : Host.Outcome State Fault Refusal :=
  let k := 32 / fmtWidth src
  let out (s : State) (c : Nat → Rnd) : Nat :=
    let a := opA s src o
    build 32 512 fun i => place dst (vcvtCode dst src (c i) (a (k * i)))
  if roundsNothing (fmtNty dst) (fmtNty src) then
    vectorOp s 4 o .ok fun s => out s fun _ => rndOf .rne (readFmt s) 0
  else roundedV s 4 512 o .ok r out

/-- The zero point of a lane (R212). -/
def zeroPoint (s : State) (zp : Bool) (o : VOp) (i : Nat) : Int :=
  if zp then intOf true 8 (elemAt 32 (vBits s o.vd) i) else 0

/-- VQNT (R212). -/
def execVqnt (f : Fmt) (zp : Bool) (r : RSel) (o : VOp) (s : State) : Host.Outcome State Fault Refusal :=
  roundedV s 12 512 o (modsChk s .fp32 o) r fun s c =>
    let a := opA s .fp32 o
    let b := opB s .fp32 o
    build 32 512 fun i =>
      place f (quantize (fmtNty f) (c i) (fltOf s .fp32 (a i)) (fltOf s .fp32 (b i)) (zeroPoint s zp o i))

/-- VDQ (R213). -/
def execVdq (f : Fmt) (zp : Bool) (r : RSel) (o : VOp) (s : State) : Host.Outcome State Fault Refusal :=
  let k := 32 / fmtWidth f
  roundedV s 4 512 o (modChk (readFmt s) .fp32 false o.mb) r fun s c =>
    let a := opA s f o
    let b := opB s .fp32 o
    build 32 512 fun i =>
      dequantize (.flt .fp32) (c i) (fltOf s .fp32 (b i)) (fltOf s f (a (k * i))) (zeroPoint s zp o i)

/-- A lane clamped to the range of a float format, as FP32 (R214). -/
def satFlt (t : FF) (x : Num) : Nat :=
  let top := decodeFlt t false t.maxMag
  match x with
  | .nan => FF.fp32.nan
  | x =>
    let mag := if x.neg? then x.negate else x
    encodeFlt .fp32 exactRnd (if Num.cmp mag top > 0 then (if x.neg? then top.negate else top) else x)

/-- VSAT (R214). -/
def execVsat (f : Fmt) (o : VOp) (s : State) : Host.Outcome State Fault Refusal :=
  let rf : Fmt := if isInt f then .i32 else .fp32
  vectorOp s 2 o (modChk (readFmt s) rf true o.ma) fun s =>
    let a := opA s rf o
    build 32 512 fun i =>
      match fmtNty f with
      | .flt t => satFlt t (fltOf s .fp32 (a i))
      | .int sg w => intCode 32 (max (intMin sg w) (min (intMax true 32) (min (intMax sg w) (intOf true 32 (a i)))))
      | _ => a i

/-! ## Log-format multiply (R216 to R218) -/

/-- The format-fault check of R119. -/
def logPairChk (fm : Word32) : Chk :=
  let isLog (c : Nat) := decide (c = 6) || decide (c = 7)
  faultIf (decide (fmtAf fm = 15) || decide (fmtBf fm = 15) || (isLog (fmtAf fm) != isLog (fmtBf fm))) 7 0 0

/-- One product code (R217). -/
def lmulCode (f : Fmt) (a b : Nat) : Nat :=
  if f = .l8 then
    if a = 0x80 ∨ b = 0x80 then 1
    else if a = 0 ∨ b = 0 then 0
    else (if xor (decide (a ≥ 128)) (decide (b ≥ 128)) then 2 ^ 15 else 0) + (a % 128 + b % 128)
  else if a % 8 = 0 ∨ b % 8 = 0 then 0
  else (if xor (decide (a ≥ 8)) (decide (b ≥ 8)) then 2 ^ 7 else 0) + (a % 8 + b % 8)

/-- VLMUL (R217). -/
def execVlmul (f : Fmt) (o : VOp) (s : State) : Host.Outcome State Fault Refusal :=
  let k := 32 / fmtWidth f
  vectorOp s 2 o (logPairChk (readFmt s)) fun s =>
    let a := opA s f o
    let b := opB s f o
    build 32 512 fun i => lmulCode f (a (k * i)) (b (k * i))

/-- The FP32 value of a product code: sign and sum field (R218). -/
def llinCode (sign : Bool) (sum : Nat) : Nat :=
  encodeFlt .fp32 exactRnd (.fin sign (logTbl (sum % 8)) 1 ((sum / 8 : Nat) - 39) false)

/-- VLLIN (R218). -/
def execVllin (f : Fmt) (o : VOp) (s : State) : Host.Outcome State Fault Refusal :=
  vectorOp s 4 o .ok fun s =>
    if f = .l8 then
      let a := opA s .i16 o
      build 32 512 fun i =>
        let x := a (2 * i)
        if x % 256 = 0 then 0 else if x % 256 = 1 then FF.fp32.nan else llinCode (decide (x ≥ 2 ^ 15)) (x % 256)
    else
      let a := opA s .i8 o
      build 32 512 fun i =>
        let x := a (4 * i)
        if x % 16 = 0 then 0 else llinCode (decide (x ≥ 128)) (4 * (x % 16) + 96)

/-! ## Predicates (R219, R220) -/

/-- VPAND (R219). -/
def execVpand (o : VOp) (s : State) : Host.Outcome State Fault Refusal :=
  perform s .ok fun s => putP s 1 o (o.vd.toNat % 16) (readP s (o.va.toNat % 32) &&& readP s (o.vb.toNat % 32))

/-- VPOR (R219). -/
def execVpor (o : VOp) (s : State) : Host.Outcome State Fault Refusal :=
  perform s .ok fun s => putP s 1 o (o.vd.toNat % 16) (readP s (o.va.toNat % 32) ||| readP s (o.vb.toNat % 32))

/-- VPNOT (R219). -/
def execVpnot (o : VOp) (s : State) : Host.Outcome State Fault Refusal :=
  perform s .ok fun s => putP s 1 o (o.vd.toNat % 16) (~~~(readP s (o.va.toNat % 32)))

/-- VPCNT (R220). -/
def execVpcnt (o : VOp) (s : State) : Host.Outcome State Fault Refusal :=
  vectorOp s 3 o .ok fun s =>
    let n := popc (readP s (o.va.toNat % 32)) 512
    build 32 512 fun _ => n

/-- The index of the lowest set bit from i on. -/
def lowBit (p : PReg) (fuel i : Nat) : Nat :=
  match fuel with
  | 0 => i
  | f + 1 => if p.getLsbD i then i else lowBit p f (i + 1)

/-- VPFST (R220). -/
def execVpfst (o : VOp) (s : State) : Host.Outcome State Fault Refusal :=
  vectorOp s 3 o .ok fun s =>
    let n := lowBit (readP s (o.va.toNat % 32)) 512 0
    build 32 512 fun _ => n

/-! ## Tiles, scratchpad and the decoder FIFO (R221 to R225) -/

/-- The tile that VLD and VST name. -/
def vTile (o : VOp) : BitVec 6 := o.va.extractLsb' 0 6

/-- The first byte and the byte count of row sj's load (R221). -/
def vRange (s : State) (o : VOp) : Nat × Nat :=
  let t := tileOf (cc s) (vTile o).toNat
  let start := (readS s (o.vb.extractLsb' 0 6)).toNat * tRowBytes t.ctl
  (start, min 2048 (tSize t.ctl - start))

/-- The row check of R221. -/
def rowChk (s : State) (o : VOp) : Chk :=
  descIf (decide ((readS s (o.vb.extractLsb' 0 6)).toNat ≥ tRows (tileOf (cc s) (vTile o).toNat).ctl)) (vTile o)

/-- The chunks of VLD and VST. -/
def vMask (s : State) (o : VOp) : BitVec 128 := let r := vRange s o; chunkMask r.1 (r.1 + r.2)

/-- The checks and the wait of VLD (R221). -/
def chkVld (o : VOp) (s : State) : Chk :=
  (rowChk s o).and ((readyChk s (vTile o) (vMask s o)).and (poisonChk s (vTile o) (vMask s o)))

/-- VLD (R221, R224). -/
def execVld (o : VOp) (s : State) : Host.Outcome State Fault Refusal :=
  perform s (chkVld o s) fun s =>
    let r := vRange s o
    let b := tBase (tileOf (cc s) (vTile o).toNat).ctl
    addSample (markRead s (vTile o)) 2 4 (.vld o.vd.toNat (b + r.1) r.2 (guardOf? s o) (gzOf o))

/-- The bytes that VST writes, lane by lane (R222). -/
def vstCells (base n x : Nat) (g : PReg) (gz : Bool) : List (Nat × List Byte) :=
  ((List.range 512).filter fun i => decide (4 * i < n) && (g.getLsbD i || gz)).map fun i =>
    (base + 4 * i, (bytesOf (if g.getLsbD i then elemAt 32 x i else 0) 4).take (n - 4 * i))

/-- VST (R222, R224). A row past the tile's rows is a descriptor fault, found before that of a busy tile (DEDUCED, see the log). -/
def execVst (o : VOp) (s : State) : Host.Outcome State Fault Refusal :=
  perform s ((rowChk s o).and (busyChk s (vTile o))) fun s =>
    let r := vRange s o
    let b := tBase (tileOf (cc s) (vTile o).toNat).ctl
    let s' := addStore s 5 slotGroup (.cells (vstCells (b + r.1) r.2 (vBits s o.vd) (guardOf? s o) (gzOf o)))
    addStore s' 5 slotGroup (.tileBits (vTile o) (vMask s o))

/-- The guard-true lanes and their addresses (R223). -/
def laneAddrs (s : State) (o : VOp) : List (Nat × Nat) :=
  let g := guardOf? s o
  let a := vBits s o.va
  let b := (readS s (o.vb.extractLsb' 0 6)).toNat
  ((List.range 512).filter fun i => g.getLsbD i).map fun i => (i, (b + elemAt 32 a i) % 2 ^ 64)

/-- The checks of R150 on every lane: the lowest faulting lane is reported. -/
def lanesChk (s : State) (nb : Nat) (l : List (Nat × Nat)) : Chk :=
  match l with
  | [] => .ok
  | (_, a) :: r => (scratchChk s (BitVec.ofNat 64 a) nb).and (lanesChk s nb r)

/-- VGATH (R223, R224). -/
def execVgath (f : Fmt) (o : VOp) (s : State) : Host.Outcome State Fault Refusal :=
  let nb := fmtWidth f / 8
  let l := laneAddrs s o
  perform s (lanesChk s nb l) fun s =>
    addSample s 2 8 (.vgath o.vd.toNat nb (decide (f = .i16) || decide (f = .i8)) (guardOf? s o) (gzOf o) l)

/-- VSCAT (R223, R224): lanes in ascending order, so the highest stands. -/
def execVscat (f : Fmt) (o : VOp) (s : State) : Host.Outcome State Fault Refusal :=
  let nb := fmtWidth f / 8
  let l := laneAddrs s o
  let x := vBits s o.vd
  perform s (lanesChk s nb l) fun s =>
    addStore s 9 slotGroup (.cells (l.map fun p => (p.2, bytesOf (elemAt 32 x p.1) nb)))

/-- The oldest four 512-byte parts of the decoder FIFO as a register. -/
def fifoHead (q : List (BitVec 4096)) : Nat :=
  (q.getD 0 0).toNat + (q.getD 1 0).toNat * 2 ^ 4096 + (q.getD 2 0).toNat * 2 ^ 8192 + (q.getD 3 0).toNat * 2 ^ 12288

/-- Whether VX is still to issue a VPOP in this cycle, where VY acts: VX's takes its bytes first (R225). -/
def popsAfterX (s : State) : Bool :=
  let c := cc s
  decide (s.cur.slot = 3) && (s.work.any fun w => decide (w = .issue s.cur.core 2)) &&
    (match (c.queue[nextIdx c 2]?).bind fun d => slotInstr d.bits 2 with
      | some (.vpop _) => true
      | _ => false)

/-- VPOP (R225): of two in one cycle VX takes the oldest bytes, VY those behind. -/
def execVpop (o : VOp) (s : State) : Host.Outcome State Fault Refusal :=
  let n := if popsAfterX s && decide (4 ≤ (cc s).arch.fifo.length) then 4 else 0
  perform s (faultIf (decide ((cc s).arch.fifo.length < n + 4)) 20 0 0) fun s =>
    let q := (cc s).arch.fifo
    let s := putV s 2 o o.vd.toNat (fifoHead (q.drop n))
    updCur s fun c => { c with fifoPop := c.fifoPop + 4, arch := { c.arch with fifo := q.take n ++ q.drop (n + 4) } }

end Sys2Proof.Machine
end

