-- ==== Sys2Proof/Machine/Perform.lean ====
section
/-! DEFINITION. What the end of a cycle performs on a scratchpad: the samples due in it, then the writes due in it, in the
groups of R351. A sample sees every write of earlier cycles and none of its own (R151, R350). -/

namespace Sys2Proof.Machine

/-- The last cycle in which a window lets the byte at an address be sampled. -/
def winLast (w : Window) (a : Nat) : Nat :=
  match w with
  | .upTo l => l
  | .conv first gap base rb ws rbd wd blk =>
    let i := (a - base) / rb
    let j := (a - base) % rb * 8 / ws
    let j := if blk then j / 32 * 32 else j
    first + (i * rbd + j * wd / 8) / 1024 * gap - 1
  | .trn first gap base rb ws rbd wd =>
    let i := (a - base) / rb
    let j := (a - base) % rb * 8 / ws
    first + (j * rbd + i * wd / 8) / 1024 * gap - 1

/-- The cycle in which a reader samples a byte: free within its window (R252, R254). -/
def sampleTick (r : Reader) (a : Nat) : Nat := r.start + Config.delay r.key a % (winLast r.win a - r.start + 1)

/-- What a reader sees of a write that performs in a cycle: the bytes it samples later. -/
def readerWrite (r : Reader) (now a : Nat) (bs : List Byte) : Reader :=
  match bs with
  | [] => r
  | b :: t => readerWrite (if now < sampleTick r a then { r with mem := memSet r.mem a b } else r) now (a + 1) t

/-- Writes scratchpad bytes of one core in a cycle. What arrives from outside (groups 1 to 3) is written into the segment's
record as well, so that a rewind keeps it (R497). -/
def scratchPut (c : Core) (now group a : Nat) (bs : List Byte) : Core :=
  let c := { c with arch := { c.arch with scratch := memWrite c.arch.scratch a bs },
                    readers := c.readers.map fun r => readerWrite r now a bs }
  if group ≤ 3 then { c with undo := { c.undo with scratch := memWrite c.undo.scratch a bs } } else c

/-- Sets completion bits. -/
def setBits (c : Core) (t : Nat) (bits : BitVec 128) : Core := updTile c t fun x => { x with map := x.map ||| bits }

/-- A register result of a sample: it lands at its cycle, or is withheld with its distance during a handler (R104). That of a bundle
older than the last emptying of the landing buffer is lost (R105). -/
def deliver (c : Core) (x : PendSample) (w : RegWrite) : Core :=
  let l : Landing := { due := x.land, age := x.age, slot := x.slot, sec := x.sec, w := w }
  if x.age < c.dropAge then c
  else if x.held then { c with withheld := c.withheld ++ [l] } else { c with landing := c.landing ++ [l] }

/-- A loaded value extended to 64 bits (R149). -/
def ldsVal (nb : Nat) (sx : Bool) (v : Nat) : Word :=
  if sx then BitVec.ofInt 64 (intOf true (8 * nb) v) else BitVec.ofNat 64 v

/-- A gathered lane (R223). -/
def gathVal (nb : Nat) (sx : Bool) (v : Nat) : Nat := if sx then intCode 32 (intOf true (8 * nb) v) else v

/-- The lanes that VGATH read. -/
def gathBits (m : Mem) (nb : Nat) (sx : Bool) (l : List (Nat × Nat)) : Nat :=
  match l with
  | [] => 0
  | (i, a) :: r => gathVal nb sx (memRead m a nb) * 2 ^ (32 * i) + gathBits m nb sx r

/-- A sample whose result is a register write, or none. -/
def sampleReg (m : Mem) (x : Sample) : Option RegWrite :=
  match x with
  | .lds sec rd a nb sx => some (.s sec rd (ldsVal nb sx (memRead m a nb)))
  | .vld vd a n g gz => some (laneWrite vd g gz (memRead m a n))
  | .vgath vd nb sx g gz l => some (laneWrite vd g gz (gathBits m nb sx l))
  | _ => none

/-- Writes lists of bytes in order. -/
def putCells (c : Core) (now group : Nat) (l : List (Nat × List Byte)) : Core :=
  match l with
  | [] => c
  | (a, bs) :: r => putCells (scratchPut c now group a bs) now group r

/-- Writes parts of bytes: address, byte count, mask and value of each (R246). -/
def putBits (c : Core) (now group : Nat) (l : List (Nat × Nat × Nat × Nat)) : Core :=
  match l with
  | [] => c
  | (a, n, m, v) :: r =>
    let old := memRead c.arch.scratch a n
    let new := Nat.lor (Nat.land old (2 ^ (8 * n) - 1 - m)) (Nat.land v m)
    putBits (scratchPut c now group a (bytesOf new n)) now group r

/-- AMOS at its cycle (R152). -/
def performAmos (c : Core) (now age slot : Nat) (sec : Bool) (rd a nb : Nat) (op : AmosOp) (b cmp : Word) (ld : Nat)
    (held : Bool) : Core :=
  let old := memRead c.arch.scratch a nb
  let c := scratchPut c now slotGroup a (bytesOf (amosNew op nb old b.toNat cmp.toNat) nb)
  deliver c { due := now, land := ld, held := held, age := age, slot := slot, sec := sec, k := .lds sec rd a nb false }
    (.s sec rd (amosRd op nb old))

end Sys2Proof.Machine
end

