-- ==== Sys2Proof/Machine/Matrix.lean ====
section
/-! DEFINITION. The matrix sequencer (chapter 06): MCALL, MCALLW and MLDSTORE, the micro-operations, the weight buffer, the
end of a routine. A micro-operation is checked at its start; what it computes is written in its last occupied cycle. -/

namespace Sys2Proof.Machine

/-! ## Bytes of tiles and panels -/

/-- The code of element (i, j) of a tile whose control word is w (R109). -/
def tElem (m : Mem) (w : Word) (i j : Nat) : Nat :=
  let n := (fmtNty (tFmt w)).width
  memRead m (tBase w + i * tRowBytes w + j * n / 8) ((n + 7) / 8) / 2 ^ (j * n % 8) % 2 ^ n

/-- Bytes of the weight buffer; beyond its 512 granules nothing is stored, and the value read is free. -/
def wbRead (m : Mem) (a n : Nat) : Nat :=
  if a + n ≤ 524288 then memRead m a n else (Config.word a n).toNat % 2 ^ (8 * n)

/-- The header of the panel at granule g (R238). -/
def panelHdr (m : Mem) (g : Nat) : Nat := memRead m (1024 * g) 8
/-- v. -/
def phV (h : Nat) : Bool := decide (h % 2 = 1)
/-- form. -/
def phForm (h : Nat) : Nat := h / 4 % 4
/-- sc. -/
def phSc (h : Nat) : Bool := decide (h / 16 % 2 = 1)
/-- The format code. -/
def phFmt (h : Nat) : Nat := h / 32 % 16
/-- K. -/
def phK (h : Nat) : Nat := h / 512 % 2048 + 1
/-- The element format of a panel. -/
def phNty (h : Nat) : NTy := fmtNty ((fmtOf (BitVec.ofNat 4 (phFmt h))).getD .bf16)

/-- Bytes of a stored form (R238). -/
def storedBytes (form w k : Nat) : Nat :=
  if form = 0 then 16 * w * k else if form = 1 then 8 * w * k + 16 * k else 64 + 64 * k

/-- Bytes of the stored form and the scale area. -/
def panelBytes (form w k : Nat) (sc : Bool) : Nat := storedBytes form w k + (if sc then 256 * ((k + 31) / 32) else 0)

/-- Granules of a panel: ceil(T / 1024). -/
def panelGran (form w k : Nat) (sc : Bool) : Nat := (64 + panelBytes form w k sc + 1023) / 1024

/-- The weight-buffer bytes that a use of panel positions kb to kb + n − 1 reads, as ranges (first, count): the header, the rows and, for
a scaled use, the scale pairs of its blocks (R238, R240). -/
def panelReads (g h kb n : Nat) (scaled : Bool) : List (Nat × Nat) :=
  let w := (phNty h).width
  let body := 1024 * g + 64
  let rows :=
    if phForm h = 0 then [(body + 16 * w * kb, 16 * w * n)]
    else if phForm h = 1 then
      [(body + 32 * w * (kb / 4), 32 * w * (n / 4)), (body + 8 * w * phK h + 64 * (kb / 4), 64 * (n / 4))]
    else [(body, 64), (body + 64 + 64 * kb, 64 * n)]
  (1024 * g, 8) :: rows ++
    (if scaled then [(body + storedBytes (phForm h) w (phK h) + 256 * (kb / 32), 256 * ((n + 31) / 32))] else [])

/-- The bytes of a panel's header alone. -/
def hdrBytes (g : Nat) : List (Nat × Nat) := [(1024 * g, 8)]

/-- The bytes of a panel's header and stored form. -/
def storedReads (g h : Nat) : List (Nat × Nat) :=
  [(1024 * g, 8), (1024 * g + 64, storedBytes (phForm h) (phNty h).width (phK h))]

/-- The bytes that an MLDW writes (R239): the header, the stored form and the scale area. -/
def panelWrites (g form w k : Nat) (sc : Bool) : List (Nat × Nat) := [(1024 * g, 64 + panelBytes form w k sc)]

/-- The code of element (k, j) of a panel (R240); none where it was dropped. -/
def panelElem (m : Mem) (g k j : Nat) : Option Nat :=
  let h := panelHdr m g
  let w := (phNty h).width
  let body := 1024 * g + 64
  let at' (a e : Nat) := wbRead m (a + e * w / 8) ((w + 7) / 8) / 2 ^ (e * w % 8) % 2 ^ w
  let nib (a e : Nat) := wbRead m (a + e / 2) 1 / 2 ^ (4 * (e % 2)) % 16
  if phForm h = 0 then some (at' (body + 16 * w * k) j)
  else if phForm h = 1 then
    let meta' := nib (body + 8 * w * phK h + 64 * (k / 4)) j
    if k % 4 = meta' / 4 % 4 then some (at' (body + 16 * w * (2 * (k / 4) + 1)) j)
    else if k % 4 = meta' % 4 then some (at' (body + 16 * w * (2 * (k / 4))) j)
    else none
  else some (at' body (nib (body + 64 + 64 * k) j))

/-- The scale pair of column j and block b. -/
def panelScale (m : Mem) (g j b : Nat) : Nat :=
  let h := panelHdr m g
  wbRead m (1024 * g + 64 + storedBytes (phForm h) (phNty h).width (phK h) + 2 * (128 * b + j)) 2

/-- Element (i, j) of an accumulator tile. -/
def accElem (a : AccTile) (i j : Nat) : Nat := elemAt 32 a.toNat (128 * i + j)

/-- An accumulator tile by its elements. -/
def buildAcc (f : Nat → Nat → Nat) : AccTile :=
  BitVec.ofNat 524288 (build 4096 128 fun i => build 32 128 fun j => f i j)

/-! ## Arithmetic of the array (R133 to R137) -/

/-- Whether fmt.cf names I32. -/
def cfInt (fm : Word32) : Bool := decide (fmtCf fm = 8)

/-- Rounding to FP32 under rne with fmt.ftz: roundings 1, 2 and 4 (R137). -/
def rne32 (fm : Word32) : Rnd := { mode := .rne, sat := false, ftz := fmtFtz fm, rng := 0 }

/-- The exact product of one position; none where B dropped it. -/
def prodAt (fm : Word32) (ta tb : NTy) (a : Nat) (b : Option Nat) : Num :=
  match b with
  | none => .zero false
  | some b =>
    if ta.isLog then logProduct ta tb a b
    else Num.mul (decodeNum ta (fmtFtz fm) a) (decodeNum tb (fmtFtz fm) b)

/-- The exact sum of n products. -/
def prodSum (f : Nat → Num) (n : Nat) : Num :=
  match n with
  | 0 => .zero false
  | n + 1 => Num.add .rne (prodSum f n) (f n)

/-- The value of an integral Num. -/
def numInt (x : Num) : Int :=
  match x with
  | .fin s n d e _ =>
    let v := if e ≥ 0 then shl n e / d else n / (d * 2 ^ (-e).toNat)
    if s then -(v : Int) else v
  | _ => 0

/-- One block added to an accumulator element (R135): p exact, the scales' product exact. -/
def blockStep (fm : Word32) (acc : Nat) (p sc : Num) : Nat :=
  if cfInt fm then intCode 32 (intOf true 32 acc + numInt p)
  else
    let v := roundFp .fp32 (rne32 fm) (Num.mul p sc)
    encodeFlt .fp32 (rne32 fm) (Num.add .rne (decodeFlt .fp32 (fmtFtz fm) acc) v)

/-- The zero point of a pair under bsm 2, else 0 (R121). -/
def pairZero (fm : Word32) (p : Nat) : Int := if fmtBsm fm = 2 then intOf true 8 (p / 256) else 0

/-- The blocks of an MMA or MMAS from block b on, at element (i, j). -/
def mmaBlocks (fm : Word32) (m wb : Mem) (scaled : Bool) (ta : Word) (wg ka kb n : Nat) (st : Word) (sacc : AccTile)
    (i j fuel b acc : Nat) : Nat :=
  match fuel with
  | 0 => acc
  | f + 1 =>
    let w := min 32 (n - 32 * b)
    let ft := fmtNty (tFmt ta)
    let fb := phNty (panelHdr wb wg)
    let p := prodSum (fun k => prodAt fm ft fb (tElem m ta i (ka + 32 * b + k)) (panelElem wb wg (kb + 32 * b + k) j)) w
    let acc' :=
      if !scaled then blockStep fm acc p (.fin false 1 1 0 false)
      else
        let pa := tElem m st i (ka / 32 + b)
        let pb := panelScale wb wg j (kb / 32 + b)
        let za := pairZero fm pa
        let zb := pairZero fm pb
        let sumA := intOf true 32 (accElem sacc i (ka / 32 + b))
        let sumB := intOf true 32 (accElem sacc j (64 + kb / 32 + b))
        let corr := (w : Int) * za * zb - za * sumB - zb * sumA
        let p := if fmtBsm fm = 2 then Num.add .rne p (Num.ofInt corr) else p
        blockStep fm acc p (Num.mul (decodeScale (pa % 256)) (decodeScale (pb % 256)))
    mmaBlocks fm m wb scaled ta wg ka kb n st sacc i j f (b + 1) acc'

/-- drain_value of R136, or the quantized drain of R246. -/
def drainCode (fm : Word32) (dst : NTy) (c : Rnd) (acc : Nat) (tsa tsb : Word32) (qs : Option (Num × Int)) : Nat :=
  let p := roundFp .fp32 exactRnd
    (Num.mul (decodeFlt .fp32 (fmtFtz fm) tsa.toNat) (decodeFlt .fp32 (fmtFtz fm) tsb.toNat))
  let a := if cfInt fm then Num.ofInt (intOf true 32 acc) else decodeFlt .fp32 (fmtFtz fm) acc
  let x := Num.mul a p
  match qs with
  | some (sc, z) => quantize dst c (roundFp .fp32 (rne32 fm) x) sc (if dst.isInt then z else 0)
  | none =>
    if cfInt fm || decide (dst = .flt .fp32) then encodeNum dst c x
    else encodeNum dst c (roundFp .fp32 (rne32 fm) x)

/-! ## The sequencer -/

/-- The sequencer of the acting core. -/
def seqr (s : State) : Sequencer := (cc s).arch.seq

/-- Changes a core's sequencer. -/
def updSeq (c : Core) (f : Sequencer → Sequencer) : Core := { c with arch := { c.arch with seq := f c.arch.seq } }

/-- Whether MCALL, MCALLW and MLDSTORE may issue: the sequencer is idle and no fault of it is pending (R229, R231). -/
def seqIdle (s : State) : Bool :=
  decide ((seqr s).state = 0) && (seqr s).load.isNone && (cc s).rtDue.isNone

/-- MX is held by an MCALLW of this level (R229); MCALL, MCALLW and MLDSTORE wait for an idle sequencer. -/
def chkMcall (s : State) : Chk := waitIf (!(seqIdle s))

/-- The latch, filled from mp0 to mp7. -/
def fillLatch (s : State) (n : Nat) (t : Tbl Word) : Tbl Word :=
  match n with
  | 0 => t
  | n + 1 => fillLatch s n (tblSet (0 : Word) t n (readMp s n))

/-- A routine started (R229). -/
def startRoutine (s : State) (ua : BitVec 9) (hold : Bool) : State :=
  let lat := fillLatch s 8 []
  let fm := readFmt s
  updCur s fun c =>
    updSeq c fun q =>
      { q with latch := lat, fmts := fm, state := 1, upc := ua.toNat, loops := [], bySec := s.cur.sec,
               byHandler := c.intrap, hold := if hold then some (levelOf s.cur.core c) else none,
               nextStart := s.tick + 2, mend := none, req := none, waiting := false }

/-- MCALL (R229). -/
def execMcall (ua : BitVec 9) (s : State) : Host.Outcome State Fault Refusal :=
  perform s (chkMcall s) fun s => startRoutine s ua false

/-- MCALLW (R229). -/
def execMcallw (ua : BitVec 9) (s : State) : Host.Outcome State Fault Refusal :=
  perform s (chkMcall s) fun s => startRoutine s ua true

/-- A fresh key. -/
def freshKey (s : State) : State := { s with nextId := s.nextId + 1 }

/-- Adds a reader of a core under the next key. -/
def addReader (s : State) (k start : Nat) (w : Window) : State :=
  updCore (freshKey s) k fun c =>
    { c with readers := c.readers ++ [{ key := s.nextId, start := start, win := w, mem := c.arch.scratch }] }

/-- The scratchpad as a reader saw it. -/
def readerMem (c : Core) (key : Nat) : Mem :=
  match c.readers.find? fun r => r.key = key with
  | some r => r.mem
  | none => c.arch.scratch

/-- A reader that has been used. -/
def dropReader (c : Core) (key : Nat) : Core := { c with readers := c.readers.filter fun r => decide (r.key ≠ key) }

/-- The checks of MLDSTORE (R230). -/
def chkMldstore (td : BitVec 6) (n1 : BitVec 9) (s : State) : Chk :=
  let n := 16 * (n1.toNat + 1)
  let m := chunkMask 0 n
  (waitIf (!(seqIdle s))).and ((descIf (decide (tSize (tileOf (cc s) td.toNat).ctl < n)) td).and
    ((readyChk s td m).and (poisonChk s td m)))

/-- MLDSTORE (R230): the sequencer is busy while it samples. -/
def execMldstore (ua : BitVec 9) (td : BitVec 6) (n1 : BitVec 9) (s : State) : Host.Outcome State Fault Refusal :=
  perform s (chkMldstore td n1 s) fun s =>
    let n := n1.toNat + 1
    let last := s.tick + 1 + (n + 63) / 64
    let key := s.nextId
    let s := addReader (markRead s td) s.cur.core (s.tick + 2) (.upTo last)
    updCur s fun c =>
      updSeq c fun q =>
        { q with state := 1, bySec := s.cur.sec, byHandler := c.intrap, mend := none,
                 load := some { key := key, ua := ua.toNat, n := n, base := tBase (tileOf c td.toNat).ctl, last := last } }

/-- A 16-byte entry of an MLDSTORE's tile. -/
def loadEntry (m : Mem) (base i : Nat) : MicroWord := BitVec.ofNat 128 (memRead m (base + 16 * i) 16)

/-- Validation of an entry at a micro-address (R235): an all-zero entry passes. -/
def microEntryOk (w : MicroWord) (ua : Nat) : Bool :=
  if w = 0 then true
  else
    match decodeMicro w with
    | none => false
    | some (.mloop _ _ last) => decide (last.toNat > ua)
    | some _ => true

/-- Whether a bit of an entry outside the fields of its uop is set (R234), or a field that its form does not use (R235). -/
def microStray (w : Nat) : Bool :=
  let f (hi lo : Nat) : Nat := w / 2 ^ lo % 2 ^ (hi + 1 - lo)
  let used : List (Nat × Nat) :=
    match w / 2 ^ 123 with
    | 1 => [(118, 66)]
    | 2 => [(118, 54)]
    | 3 => [(112, 84)]
    | 4 => [(118, 113)]
    | 5 => [(118, 107), (100, 74), (65, 60)]
    | 6 => [(118, 97)]
    | 7 => [(118, 107), (97, 96), (59, 54)]
    | 8 => [(118, 98)]
    | 9 => [(112, 107), (97, 84)]
    | 10 => [(118, 97)]
    | 11 => [(63, 0)]
    | _ => []
  let used := if w / 2 ^ 123 = 12 then [] else (122, 119) :: used
  decide (w % 2 ^ 123 ≠ (used.map fun x => f x.1 x.2 * 2 ^ x.2).foldl (fun a b => a + b) 0) ||
    (decide (w / 2 ^ 123 = 6) && (if f 97 97 = 0 then decide (f 106 98 ≠ 0) else decide (f 112 107 ≠ 0))) ||
    (decide (w / 2 ^ 123 = 7) && (if f 97 96 = 0 then decide (f 112 107 ≠ 0) else decide (f 59 54 ≠ 0)))

/-- The number of the case of R235 by which an entry fails, counted from 1 in the rule's order. -/
def microCheck (e : MicroWord) : Nat :=
  let w := e.toNat
  let f (hi lo : Nat) : Nat := w / 2 ^ lo % 2 ^ (hi + 1 - lo)
  let u := w / 2 ^ 123
  let acc := [1, 2, 4, 5, 6, 7].contains u && decide (f 118 113 > 47)
  if u ≥ 13 then 1
  else if microStray w then 2
  else if f 122 122 = 0 ∧ f 121 119 ≠ 0 then 3
  else if acc || ((decide (u = 2) || decide (u = 7)) && decide (f 59 54 > 47)) then 4
  else if (u = 3 ∧ f 97 96 = 3) ∨ (u = 7 ∧ f 97 96 = 3) ∨ (u = 5 ∧ f 90 88 ≥ 6) then 5
  else if u = 8 then 6
  else if u = 9 then 7
  else 8

/-- A routine fault that the core takes in the next cycle (R231); MX's next bundle is filled in then. -/
def rtTrap (sec : Bool) (cause ua uop : Nat) (i2 i3 : Word) : Trap :=
  { cause := cause, slot := 6, sec := false, off := 0, info0 := BitVec.ofNat 64 cause,
    info1 := BitVec.ofNat 64 (ua % 512 + uop * 512 + 2 ^ 14 + (if sec then 2 ^ 15 else 0)), info2 := i2, info3 := i3,
    late := false, rt := true, age := 0, wait := false }

/-- The end of an MLDSTORE's last sampling cycle: all entries are written, or none and the fault follows (R230). -/
def finishLoad (c : Core) (now : Nat) (l : StoreLoad) : Core :=
  let m := readerMem c l.key
  let c := dropReader (updSeq c fun q => { q with state := 0, load := none }) l.key
  match (List.range l.n).find? fun i => !(microEntryOk (loadEntry m l.base i) (l.ua + i)) with
  | some i =>
    { c with rtDue := some (now + 1, rtTrap c.arch.seq.bySec 3 l.ua 0 (BitVec.ofNat 64 (l.ua + i)) 0) }
  | none =>
    { c with ustore := (List.range l.n).foldl (fun t i => tblSet (0 : MicroWord) t (l.ua + i) (loadEntry m l.base i)) c.ustore }

/-! ## Operands of micro-operations (R236) -/

/-- The latch word that an indexed micro-operation adds, or 0. -/
def idxWord (s : State) (i : MIdx) : Nat := if i.ix then (tblGet (0 : Word) (seqr s).latch i.mpx.toNat).toNat else 0

/-- Formed accumulator number. -/
def fAcc (k : Nat) (a : BitVec 6) : Nat := a.toNat + k % 256
/-- Formed tile number of ta, ts and td. -/
def fTile (k : Nat) (a : BitVec 6) : BitVec 6 := BitVec.ofNat 6 (a.toNat + k / 2 ^ 8 % 256)
/-- Formed granule. -/
def fWg (k : Nat) (a : BitVec 9) : Nat := (a.toNat + k / 2 ^ 16 % 256) % 512
/-- Formed tile number of st and qs. -/
def fSt (k : Nat) (a : BitVec 6) : BitVec 6 := BitVec.ofNat 6 (a.toNat + k / 2 ^ 24 % 256)
/-- Formed accumulator number of sacc and acc2. -/
def fAcc2 (k : Nat) (a : BitVec 6) : Nat := a.toNat + k / 2 ^ 32 % 256
/-- The index of the innermost micro-loop. -/
def loopIndex (s : State) : Nat :=
  match (seqr s).loops.getLast? with
  | some e => e.index
  | none => 0

/-- The uop of the entry at upc. -/
def uopOf (s : State) : Nat := (tblGet (0 : MicroWord) (cc s).ustore (seqr s).upc).toNat / 2 ^ 123

/-- Parks the sequencer on a fault of the micro-operation at upc, which has no effect (R231). -/
def park (s : State) (cause : Nat) (i2 i3 : Word) : State :=
  let u := uopOf s
  updCur s fun c =>
    { updSeq c (fun q => { q with state := 2, req := none, waiting := false }) with
      rtDue := some (s.tick + 1, rtTrap c.arch.seq.bySec cause c.arch.seq.upc u i2 i3) }

/-- Where the sequencer goes on after the micro-operation at upc has started (R247): next, or around the innermost loop;
the exit of a loop is a step of its own. -/
def microNext (s : State) (nxt : Nat) : State :=
  let q := seqr s
  match q.loops.getLast? with
  | some e =>
    if e.stop = q.upc then
      if e.index + 1 < e.count then
        updCur s fun c => updSeq c fun q =>
          { q with upc := e.start, loops := q.loops.dropLast ++ [{ e with index := e.index + 1 }] }
      else { s with work := .event { due := s.tick, instr := .microLoopExit,
                                     ev := { Ev.none with core := s.cur.core } } :: s.work }
    else updCur s fun c => updSeq c fun q => { q with upc := nxt }
  | none => updCur s fun c => updSeq c fun q => { q with upc := nxt }

/-- Performs a micro-operation under its wait for its unit and earlier work, then its checks; one that starts goes on. -/
def microOp (s : State) (busy : Bool) (k : Chk) (f : State → State) : Host.Outcome State Fault Refusal :=
  if busy then .next s
  else
    match k with
    | .ok =>
      .next (microNext (updCur (f s) fun c => updSeq c fun q => { q with nextStart := s.tick + 1, waiting := false })
        ((seqr s).upc + 1))
    | .wait => .next (updCur s fun c => updSeq c fun q => { q with waiting := true })
    | .rewind => .next (askRewind s s.cur.core none)
    | .fault c x y => .next (park s c x y)

/-- Whether two lists of ranges (first, count) share a byte. -/
def bytesMeet (a b : List (Nat × Nat)) : Bool :=
  a.any fun x => b.any fun y =>
    decide (0 < x.2) && decide (0 < y.2) && decide (x.1 < y.1 + y.2) && decide (y.1 < x.1 + x.2)

/-- Whether an earlier micro-operation in flight keeps one from starting (R251). -/
def depends (s : State) (rAcc wAcc : List Nat) (rWb wWb : List (Nat × Nat)) (mma : Bool) : Bool :=
  (seqr s).fly.any fun f =>
    decide (s.tick ≤ f.done) &&
      (f.wAcc.any (fun a =>
          (rAcc.any fun b => decide (a = b)) && !(mma && f.mma && (wAcc.any fun b => decide (a = b)))) ||
        (f.wAcc.any fun a => (wAcc.any fun b => decide (a = b)) && !(mma && f.mma)) ||
        (f.rAcc.any fun a => (wAcc.any fun b => decide (a = b)) && !(mma && f.mma && f.wAcc.any fun b => decide (a = b))) ||
        bytesMeet f.wWb rWb || bytesMeet f.wWb wWb || bytesMeet f.rWb wWb)

/-- The check of an accumulator number (R33, R236). -/
def accChk (s : State) (a : Nat) : Chk :=
  faultIf (decide (a ≥ 48) || (decide (a ≥ 40) && (cc s).mode)) 17 (BitVec.ofNat 64 a) 0

/-- The wait and checks of R38 and R241 at a micro-operation: tile t over the chunks m. -/
def tileChk (s : State) (t : BitVec 6) (m : BitVec 128) : Chk :=
  let x := tileOf (cc s) t.toNat
  let p := x.pois &&& m
  if decide (tState x.ctl = 2) || !(tReady x m) then .wait
  else if x.cmp && decide (tSeq x.ctl ≠ tExp x.ctl) then
    .fault 6 (BitVec.ofNat 64 t.toNat) (BitVec.ofNat 64 (tExp x.ctl))
  else if p = 0 then .ok
  else if x.inSeg then .rewind
  else .fault 10 (BitVec.ofNat 64 t.toNat) (p.extractLsb' 64 64)

/-- A tile-descriptor routine fault under a condition. -/
def tileIf (b : Bool) (t : BitVec 6) : Chk := descIf b t

/-- A panel fault under a condition. -/
def panelIf (b : Bool) (g : Nat) : Chk := faultIf b 18 (BitVec.ofNat 64 g) 0

/-- Chunks that cover columns j0 to j0 + n − 1 of the first rows of a tile. -/
def colMask (w : Word) (rows j0 n : Nat) : BitVec 128 :=
  let e := (fmtNty (tFmt w)).width
  let one (i : Nat) := chunkMask (i * tRowBytes w + j0 * e / 8) (i * tRowBytes w + ((j0 + n) * e + 7) / 8)
  (List.range rows).foldl (fun m i => m ||| one i) 0

/-- The formats of matrix operands (R237). -/
def matFmt (c : Nat) : Bool :=
  decide (c = 1) || decide (c = 2) || decide (c = 3) || decide (c = 4) || decide (c = 5) || decide (c = 6) ||
    decide (c = 7) || decide (c = 10) || decide (c = 11) || decide (c = 14)

/-- I8, I4 and N8. -/
def byteInts (c : Nat) : Bool := decide (c = 10) || decide (c = 11) || decide (c = 14)

/-- The check of fmt.cf (R50). -/
def cfChk (fm : Word32) : Chk := faultIf (decide (fmtCf fm ≠ 0) && decide (fmtCf fm ≠ 8)) 7 0 0

/-- The format faults of MMA and MMAS (R50, R119, R121, R137, R237). -/
def mmaFmtChk (fm : Word32) (scaled : Bool) : Chk :=
  let a := fmtAf fm
  let b := fmtBf fm
  let log (c : Nat) := decide (c = 6) || decide (c = 7)
  let bsm := fmtBsm fm
  (cfChk fm).and
    (faultIf (!(matFmt a) || !(matFmt b) || (log a != log b) || decide (bsm = 3) ||
      (decide (bsm = 2) && !(byteInts a && byteInts b)) ||
      (cfInt fm && !(byteInts a && byteInts b && decide (bsm = 0))) || (scaled != decide (bsm ≠ 0))) 7 0 0)

/-- K positions per cycle (R237). -/
def arrayRate (fm : Word32) (form : Nat) : Nat :=
  let w (c : Nat) := (fmtNty ((fmtOf (BitVec.ofNat 4 c)).getD .bf16)).width
  let m := max (w (fmtAf fm)) (w (fmtBf fm))
  let log := decide (fmtAf fm = 6) || decide (fmtAf fm = 7)
  let r := if m = 16 then 1 else if m = 4 then 8 else if log then 4 else 2
  if form = 1 then 2 * r else r

/-- Starts a micro-operation: in flight for occ cycles and done more, over a reader of the core. -/
def startFly (s : State) (w : MicroWork) (occ tail : Nat) (rAcc wAcc : List Nat) (rWb wWb : List (Nat × Nat))
    (mma : Bool) : State :=
  let key := s.nextId
  let last := s.tick + occ - 1
  let s := addReader s s.cur.core s.tick (.upTo last)
  updCur s fun c => updSeq c fun q =>
    { q with fly := (q.fly.filter fun f => decide (s.tick ≤ f.done)) ++
               [{ work := w, last := last, done := last + tail, rAcc := rAcc, wAcc := wAcc, rWb := rWb, wWb := wWb,
                  mma := mma, key := key }] }

/-- The array is occupied for occ cycles. -/
def useArray (s : State) (occ : Nat) : State := updCur s fun c => updSeq c fun q => { q with arrayFree := s.tick + occ }
/-- The fill port. -/
def useFill (s : State) (occ : Nat) : State := updCur s fun c => updSeq c fun q => { q with fillFree := s.tick + occ }
/-- The accumulator port. -/
def useAcc (s : State) (occ : Nat) : State := updCur s fun c => updSeq c fun q => { q with accFree := s.tick + occ }
/-- The drain port. -/
def useDrain (s : State) (occ : Nat) : State := updCur s fun c => updSeq c fun q => { q with drainFree := s.tick + occ }

/-- The undo space that the open segment still has for a micro-operation (R498): accumulators in protected mode,
weight-buffer granules and 64-byte scratchpad granules. -/
def undoUsed (c : Core) : Nat := 64 * c.undoG.length + 1024 * c.undoW.length

/-- Whether a segment end can come before the next micro-operation: MX is not held by its MCALLW (R498). -/
def heldMx (s : State) : Bool := (seqr s).hold.isSome

/-- What a micro-operation would record (R498): new accumulators, new weight-buffer granules, new scratchpad granules. -/
def microNeed (c : Core) (accs wbs grans : List Nat) : List Nat × List Nat × List Nat :=
  (if c.mode then accs.filter (fun a => !c.undoA.contains a) else [], wbs.filter fun g => !c.undoW.contains g,
    grans.filter fun g => !c.undoG.contains g)

/-- The judgment of R498: none where the micro-operation starts recording, some true where it starts without recording,
some false where it waits for a new segment. -/
def microRoom (s : State) (accs wbs grans : List Nat) : Option Bool :=
  let c := cc s
  let n := microNeed c accs wbs grans
  let alone := 1024 * wbs.length + 64 * grans.length
  let tooMuch := decide (c.undoA.length + n.1.length > 8) ||
    decide (undoUsed c + 1024 * n.2.1.length + 64 * n.2.2.length > 131072)
  if !tooMuch then none
  else if heldMx s || decide (alone > 131072) then some true
  else some false

/-- Writes the pre-images of newly recorded accumulators into a(40 + i) on, i the count recorded before (R33, R496); a rewind leaves
them. -/
def keepAccs (c : Core) (i : Nat) (l : List Nat) : Core :=
  match l with
  | [] => c
  | a :: r =>
    let put (t : Arch) : Arch := { t with acc := tblSet (0 : AccTile) t.acc (40 + i) (tblGet (0 : AccTile) c.arch.acc a) }
    keepAccs { c with arch := put c.arch, undo := put c.undo } (i + 1) r

/-- Records what a started micro-operation will change (R496, R498); an unprotected accumulator write, or one that starts
without recording, leaves the segment without a rewind. -/
def microRecord (s : State) (accs wbs grans : List Nat) : State :=
  let r := microRoom s accs wbs grans
  updCur s fun c =>
    let n := microNeed c accs wbs grans
    if r = none then
      let c := keepAccs c c.undoA.length n.1
      { c with undoA := c.undoA ++ n.1, undoW := c.undoW ++ n.2.1, undoG := c.undoG ++ n.2.2,
               noRewind := c.noRewind || (!c.mode && !accs.isEmpty) }
    else { c with noRewind := true }

/-- A micro-operation that must wait for a new segment asks for one (R498). -/
def roomWait (s : State) (accs wbs grans : List Nat) : Bool := decide (microRoom s accs wbs grans = some false)

/-- A micro-operation under its waits and checks, with the undo room it needs. -/
def microRun (s : State) (busy : Bool) (k : Chk) (accs wbs grans : List Nat) (f : State → State) :
    Host.Outcome State Fault Refusal :=
  if !busy && decide (k = .ok) && roomWait s accs wbs grans then .next (updCur s fun c => { c with endSeg := true })
  else microOp s busy k fun s => f (microRecord s accs wbs grans)

/-! ## Micro-operations (R241 to R250) -/

/-- MMA and MMAS share their checks: the chunks of ta, the panel, and for MMAS the scale tile. -/
def mmaCommon (s : State) (scaled : Bool) (acc : Nat) (ta : BitVec 6) (wg ka kb n : Nat) (st : BitVec 6) (sacc : Nat) :
    Host.Outcome State Fault Refusal :=
  let c := cc s
  let fm := (seqr s).fmts
  let h := panelHdr c.arch.wbuf wg
  let a := (tileOf c ta.toNat).ctl
  let t := (tileOf c st.toNat).ctl
  let zp := scaled && decide (fmtBsm fm = 2)
  let rA := acc :: (if zp then [sacc] else [])
  let nb := (n + 31) / 32
  let busy := decide (s.tick < (seqr s).arrayFree) || depends s [] [] (hdrBytes wg) [] false ||
    depends s rA [acc] (panelReads wg h kb n scaled) [] true
  let chk := (mmaFmtChk fm scaled).and ((accChk s acc).and ((if scaled then accChk s sacc else .ok).and
    ((tileIf (decide (tFmtCode a ≠ fmtAf fm) || decide (ka + n > tCols a)) ta).and
    ((panelIf (!(phV h) || decide (phFmt h ≠ fmtBf fm) || decide (kb + n > phK h) ||
        (decide (phForm h = 1) && (decide (kb % 4 ≠ 0) || decide (n % 4 ≠ 0))) ||
        (scaled && (decide (ka % 32 ≠ 0) || decide (kb % 32 ≠ 0) || !(phSc h)))) wg).and
    ((if scaled then tileIf (decide (tFmtCode t ≠ 13) || decide (tRows t < tRows a) || decide (tCols t < ka / 32 + nb)) st
      else .ok).and
    ((tileChk s ta (colMask a (tRows a) ka n)).and
      (if scaled then tileChk s st (colMask t (tRows a) (ka / 32) nb) else .ok)))))))
  let occ := (n + arrayRate fm (phForm h) - 1) / arrayRate fm (phForm h) * 2 ^ clampOf s s.cur.core
  microRun s busy chk [acc] [] [] fun s =>
    let s := markRead (if scaled then markRead s st else s) ta
    useArray (startFly s (.mma scaled acc a wg ka kb n t sacc) occ 8 rA [acc] (panelReads wg h kb n scaled) []
      true) occ

/-- ka and kb under adv (R236). -/
def advK (s : State) (adv : Bool) (k n : Nat) : Nat := if adv then k + loopIndex s * n else k

/-- MMA (R241). -/
def execMma (i : MIdx) (acc ta : BitVec 6) (wg : BitVec 9) (ka : BitVec 10) (kb : BitVec 11) (kn : BitVec 10) (adv : Bool)
    (s : State) : Host.Outcome State Fault Refusal :=
  let k := idxWord s i
  let n := kn.toNat + 1
  mmaCommon s false (fAcc k acc) (fTile k ta) (fWg k wg) (advK s adv ka.toNat n) (advK s adv kb.toNat n) n 0 0

/-- MMAS (R242). -/
def execMmas (i : MIdx) (acc ta : BitVec 6) (wg : BitVec 9) (ka : BitVec 10) (kb : BitVec 11) (kn : BitVec 10) (adv : Bool)
    (st sacc : BitVec 6) (s : State) : Host.Outcome State Fault Refusal :=
  let k := idxWord s i
  let n := kn.toNat + 1
  mmaCommon s true (fAcc k acc) (fTile k ta) (fWg k wg) (advK s adv ka.toNat n) (advK s adv kb.toNat n) n (fSt k st)
    (fAcc2 k sacc)

/-- Granules g to g + n − 1. -/
def granList (g n : Nat) : List Nat := (List.range n).map fun i => g + i

/-- MLDW (R239). -/
def execMldw (i : MIdx) (ts : BitVec 6) (wg : BitVec 9) (form : BitVec 2) (sc : Bool) (kn : BitVec 11) (s : State) :
    Host.Outcome State Fault Refusal :=
  let k := idxWord s i
  let fm := (seqr s).fmts
  let t := fTile k ts
  let g := fWg k wg
  let kk := kn.toNat + 1
  let w := (fmtNty ((fmtOf (BitVec.ofNat 4 (fmtBf fm))).getD .bf16)).width
  let n := panelBytes form.toNat w kk sc
  let gr := panelGran form.toNat w kk sc
  let ctl := (tileOf (cc s) t.toNat).ctl
  let busy := decide (s.tick < (seqr s).fillFree) || depends s [] [] [] (panelWrites g form.toNat w kk sc) false
  let chk := (faultIf (!(matFmt (fmtBf fm))) 7 0 0).and
    ((panelIf (decide (g + gr > 512) || (decide (form = 1) && decide (kk % 4 ≠ 0))) g).and
    ((tileIf (decide (tSize ctl < n)) t).and (tileChk s t (chunkMask 0 n))))
  microRun s busy chk [] (granList g gr) [] fun s =>
    useFill (startFly (markRead s t) (.mldw ctl g form.toNat sc kk) gr 0 [] [] []
      (panelWrites g form.toNat w kk sc) false) gr

/-- MZERO (R244). -/
def execMzero (i : MIdx) (acc : BitVec 6) (s : State) : Host.Outcome State Fault Refusal :=
  let a := fAcc (idxWord s i) acc
  let busy := decide (s.tick < (seqr s).accFree) || depends s [] [a] [] [] false
  microRun s busy (accChk s a) [a] [] [] fun s =>
    useAcc (startFly s (.mzero a) 8 0 [] [a] [] [] false) 8

/-- The 64-byte granules of the rows that a drain writes. -/
def drainGrans (ctl : Word) (c0 cnt : Nat) : List Nat :=
  let w := (fmtNty (tFmt ctl)).width
  let lo (i : Nat) := tBase ctl + i * tRowBytes ctl + c0 * w / 8
  let hi (i : Nat) := tBase ctl + i * tRowBytes ctl + ((c0 + cnt) * w + 7) / 8
  if cnt = 0 then []
  else ((List.range (tRows ctl)).flatMap fun i => granList (lo i / 64) ((hi i - 1) / 64 + 1 - lo i / 64)).eraseDups

/-- Columns that a drain writes. -/
def drainCols (ctl : Word) (c0 : Nat) : Nat := min 128 (tCols ctl - c0)

/-- MDRAIN (R246): arms td at its start where ar is 1. -/
def execMdrain (i : MIdx) (acc td : BitVec 6) (c0 : BitVec 10) (r : RSel) (ar : Bool) (tag : BitVec 12) (q : Bool)
    (qs : BitVec 6) (s : State) : Host.Outcome State Fault Refusal :=
  let k := idxWord s i
  let fm := (seqr s).fmts
  let a := fAcc k acc
  let t := fTile k td
  let u := fSt k qs
  let ctl := (tileOf (cc s) t.toNat).ctl
  let uc := (tileOf (cc s) u.toNat).ctl
  let busy := decide (s.tick < (seqr s).drainFree) || depends s [a] [] [] [] false
  let chk := (cfChk fm).and ((rmChk r fm).and ((accChk s a).and ((busyChk s t).and
    (if q then (tileIf (decide (tSize uc < 640)) u).and (tileChk s u (chunkMask 0 640)) else .ok))))
  microRun s busy chk [] [] (drainGrans ctl c0.toNat (drainCols ctl c0.toNat)) fun s =>
    let s := if q then markRead s u else s
    let s := if ar then updCur s fun c => updTile c t.toNat fun x => armWord x .drain (some tag) false c.segOpen else s
    let w : MicroWork :=
      .mdrain a t ctl c0.toNat r (seqr s).tsa (seqr s).tsb (if q then some uc else none)
    useDrain (startFly s w 8 12 [a] [] [] [] false) 8

/-- MSUMROW (R243). The source bytes of its .b form are those of the stored form (DEDUCED, see the log). -/
def execMsumrow (i : MIdx) (b : Bool) (acc ta : BitVec 6) (wg : BitVec 9) (s : State) :
    Host.Outcome State Fault Refusal :=
  let k := idxWord s i
  let a := fAcc k acc
  let free := decide (s.tick < (seqr s).accFree)
  if b then
    let g := fWg k wg
    let h := panelHdr (cc s).arch.wbuf g
    let busy := free || depends s [] [] (hdrBytes g) [] false || depends s [] [a] (storedReads g h) [] false
    let chk := (accChk s a).and (panelIf (!(phV h) || !(byteInts (phFmt h))) g)
    let occ := 8 + (storedBytes (phForm h) (phNty h).width (phK h) + 2047) / 2048
    microRun s busy chk [a] [] [] fun s =>
      useAcc (startFly s (.msumB a g) occ 0 [] [a] (storedReads g h) [] false) occ
  else
    let t := fTile k ta
    let ctl := (tileOf (cc s) t.toNat).ctl
    let busy := free || depends s [] [a] [] [] false
    let chk := (accChk s a).and ((tileIf (!(byteInts (tFmtCode ctl))) t).and (tileChk s t (tMask (tileOf (cc s) t.toNat))))
    let occ := 8 + (tSize ctl + 2047) / 2048
    microRun s busy chk [a] [] [] fun s =>
      useAcc (startFly (markRead s t) (.msumA a ctl) occ 0 [] [a] [] [] false) occ

/-- MACC (R244). -/
def execMacc (i : MIdx) (mode : BitVec 2) (acc ta acc2 : BitVec 6) (s : State) : Host.Outcome State Fault Refusal :=
  let k := idxWord s i
  let fm := (seqr s).fmts
  let a := fAcc k acc
  let free := decide (s.tick < (seqr s).accFree)
  if mode = 0 then
    let b := fAcc2 k acc2
    let busy := free || depends s [a, b] [a] [] [] false
    microRun s busy ((cfChk fm).and ((accChk s a).and (accChk s b))) [a] [] [] fun s =>
      useAcc (startFly s (.maccA a b) 8 0 [a, b] [a] [] [] false) 8
  else
    let t := fTile k ta
    let x := tileOf (cc s) t.toNat
    let busy := free || depends s [a] [a] [] [] false
    let chk := (cfChk fm).and ((accChk s a).and ((tileIf (cfInt fm && !(fmtNty (tFmt x.ctl)).isInt) t).and
      (tileChk s t (tMask x))))
    microRun s busy chk [a] [] [] fun s =>
      useAcc (startFly (markRead s t) (.maccT (decide (mode = 2)) a x.ctl) 8 0 [a] [a] [] [] false) 8

/-- MLOOP (R247). -/
def execMloop (i : MIdx) (cnt : BitVec 12) (last : BitVec 9) (s : State) : Host.Outcome State Fault Refusal :=
  let n := if i.ix then idxWord s i / 2 ^ 48 % 4096 else cnt.toNat
  let q := seqr s
  let started (s : State) := updCur s fun c => updSeq c fun q => { q with nextStart := s.tick + 1, waiting := false }
  if n = 0 then .next (microNext (started s) (last.toNat + 1))
  else if q.loops.length ≥ 3 then .next (park s 14 0 0)
  else
    .next (updCur (started s) fun c => updSeq c fun q =>
      { q with loops := q.loops ++ [{ count := n, index := 0, stop := last.toNat, start := q.upc + 1 }],
               upc := q.upc + 1 })

/-- MWAITT (R248). -/
def execMwaitt (i : MIdx) (ta : BitVec 6) (first cm : BitVec 7) (s : State) : Host.Outcome State Fault Refusal :=
  let t := fTile (idxWord s i) ta
  let x := tileOf (cc s) t.toNat
  let m := BitVec.ofNat 128 ((2 ^ (cm.toNat + 1) - 1) * 2 ^ first.toNat)
  let chk := (tileIf (decide (512 * (first.toNat + cm.toNat) ≥ tSize x.ctl)) t).and (tileChk s t m)
  microOp s false chk fun s => markRead s t

/-- MSETS (R245). -/
def execMsets (i : MIdx) (tsa tsb : Word32) (s : State) : Host.Outcome State Fault Refusal :=
  let k := idxWord s i
  microOp s false .ok fun s => updCur s fun c => updSeq c fun q =>
    { q with tsa := if i.ix then BitVec.ofNat 32 k else tsa, tsb := if i.ix then BitVec.ofNat 32 (k / 2 ^ 32) else tsb }

/-- MEND (R250): the routine ends once every earlier micro-operation has completed. -/
def execMend (s : State) : Host.Outcome State Fault Refusal :=
  .next (updCur s fun c => updSeq c fun q => { q with loops := [], mend := some s.tick, waiting := false })

/-- MICRO_LOOP_EXIT (R247): the innermost entry is popped and the sequencer continues after its end. -/
def execMicroLoopExit (s : State) : Host.Outcome State Fault Refusal :=
  .next (updCore s s.ev.core fun c => updSeq c fun q =>
    match q.loops.getLast? with
    | some e => { q with loops := q.loops.dropLast, upc := e.stop + 1 }
    | none => q)

/-- ROUTINE_END (R229): MEND has started and every earlier micro-operation has completed; MX's hold ends with it. -/
def execRoutineEnd (s : State) : Host.Outcome State Fault Refusal :=
  .next (updCore s s.ev.core fun c => updSeq c fun q => { q with state := 0, mend := none, hold := none })

/-- Whether a core's routine ends in this cycle. -/
def routineEnds (c : Core) (now : Nat) : Bool :=
  decide (c.arch.seq.state = 1) && c.arch.seq.mend.isSome && c.arch.seq.fly.all fun f => decide (f.done ≤ now)

/-! ## What micro-operations write in their last occupied cycle -/

/-- Accumulator tile a. -/
def accOf (c : Core) (a : Nat) : AccTile := tblGet (0 : AccTile) c.arch.acc a

/-- Writes accumulator tile a. -/
def setAcc (c : Core) (a : Nat) (v : AccTile) : Core :=
  { c with arch := { c.arch with acc := tblSet (0 : AccTile) c.arch.acc a v } }

/-- The sum of the elements of a block of at most 32 (R243). -/
def blockSum (f : Nat → Int) (lo n : Nat) : Int :=
  match n with
  | 0 => 0
  | n + 1 => blockSum f lo n + f (lo + n)

/-- Draws of a drain of n elements, where its mode is rst. -/
def drainDraws (c : Core) (m : RM) (n : Nat) : List Word × Word :=
  let x := tblGet (1 : Word) c.arch.seeds 5
  if m = .rst then draws ((n + 3) / 4) x else ([], x)

/-- The chunks that the rows from r0 on below r1 touch. -/
def rowChunks (ctl : Word) (c0 cnt r0 r1 : Nat) : BitVec 128 :=
  let w := (fmtNty (tFmt ctl)).width
  (List.range (r1 - r0)).foldl (fun m i =>
    let b := (r0 + i) * tRowBytes ctl
    m ||| chunkMask (b + c0 * w / 8) (b + ((c0 + cnt) * w + 7) / 8)) 0

/-- The writes of a drain: groups of 16 rows in start + 12 and the cycles after, each chunk's bit with its last bytes. -/
def drainStores (ctl : Word) (t : BitVec 6) (c0 cnt rows start : Nat) (code : Nat → Nat → Nat) : List Store :=
  let w := (fmtNty (tFmt ctl)).width
  let off (i : Nat) := tBase ctl + i * tRowBytes ctl + c0 * w / 8
  let n := ((c0 + cnt) * w + 7) / 8 - c0 * w / 8
  let sh := c0 * w % 8
  (List.range ((rows + 15) / 16)).flatMap fun g =>
    let hi := min rows (16 * g + 16)
    let part := (List.range (hi - 16 * g)).map fun r =>
      let i := 16 * g + r
      (off i, n, (2 ^ (cnt * w) - 1) * 2 ^ sh, build w cnt (fun j => code i j) * 2 ^ sh)
    let bits := rowChunks ctl c0 cnt (16 * g) hi &&& ~~~(rowChunks ctl c0 cnt hi rows)
    [{ due := start + 12 + g, group := 4, order := 0, sec := false, k := .bits (if cnt = 0 then [] else part) },
     { due := start + 12 + g, group := 4, order := 1, sec := false, k := .tileBits t (if cnt = 0 then 0 else bits) }]

/-- Applies a micro-operation's work in its last occupied cycle, from the scratchpad bytes m that it sampled. -/
def applyWork (c : Core) (f : Fly) (m : Mem) : Core :=
  let fm := c.arch.seq.fmts
  match f.work with
  | .mma scaled a ta wg ka kb n st sacc =>
    let old := accOf c a
    let sa := accOf c sacc
    setAcc c a (buildAcc fun i j =>
      if i < tRows ta then
        mmaBlocks fm m c.arch.wbuf scaled ta wg ka kb n st sa i j ((n + 31) / 32) 0 (accElem old i j)
      else accElem old i j)
  | .mldw ts wg form sc k =>
    let fmt := fmtBf fm
    let w := (fmtNty ((fmtOf (BitVec.ofNat 4 fmt)).getD .bf16)).width
    let hdr := (k - 1) * 512 + fmt * 32 + (if sc then 16 else 0) + form * 4 + 1
    let body := memBytes m (tBase ts) (panelBytes form w k sc)
    { c with arch := { c.arch with wbuf := memWrite c.arch.wbuf (1024 * wg) (bytesOf hdr 64 ++ body) } }
  | .mzero a => setAcc c a 0
  | .mdrain a t ctl c0 r tsa tsb qs =>
    let cnt := drainCols ctl c0
    let rows := tRows ctl
    let md := modeOf r fm
    let d := drainDraws c md (rows * cnt)
    let acc := accOf c a
    let dst := fmtNty (tFmt ctl)
    let q (j : Nat) : Option (Num × Int) := qs.map fun u =>
      (decodeFlt .fp32 (fmtFtz fm) (memRead m (tBase u + 4 * j) 4), intOf true 8 (memRead m (tBase u + 512 + j) 1))
    let code (i j : Nat) := drainCode fm dst (rndOf md fm (rngAt d.1 (i * cnt + j))) (accElem acc i j) tsa tsb (q j)
    { c with stores := c.stores ++ drainStores ctl t c0 cnt rows (f.last - 7) code,
             arch := { c.arch with seeds := tblSet (1 : Word) c.arch.seeds 5 d.2 } }
  | .msumA a ta =>
    let old := accOf c a
    let cols := tCols ta
    let ty := tFmt ta
    setAcc c a (buildAcc fun i b =>
      if i < tRows ta ∧ b < (cols + 31) / 32 then
        intCode 32 (blockSum (fun j => numInt (decodeNum (fmtNty ty) false (tElem m ta i j))) (32 * b) (min 32 (cols - 32 * b)))
      else accElem old i b)
  | .msumB a wg =>
    let old := accOf c a
    let h := panelHdr c.arch.wbuf wg
    let val (k j : Nat) : Int :=
      match panelElem c.arch.wbuf wg k j with
      | none => 0
      | some x => numInt (decodeNum (phNty h) false x)
    setAcc c a (buildAcc fun j e =>
      if 64 ≤ e ∧ e - 64 < (phK h + 31) / 32 then
        intCode 32 (blockSum (fun k => val k j) (32 * (e - 64)) (min 32 (phK h - 32 * (e - 64))))
      else accElem old j e)
  | .maccA a b =>
    let x := accOf c a
    let y := accOf c b
    setAcc c a (buildAcc fun i j =>
      if cfInt fm then intCode 32 (intOf true 32 (accElem x i j) + intOf true 32 (accElem y i j))
      else encodeFlt .fp32 (rne32 fm)
        (Num.add .rne (decodeFlt .fp32 (fmtFtz fm) (accElem x i j)) (decodeFlt .fp32 (fmtFtz fm) (accElem y i j))))
  | .maccT load a ta =>
    let x := accOf c a
    let ty := fmtNty (tFmt ta)
    setAcc c a (buildAcc fun i j =>
      if i < tRows ta ∧ j < tCols ta then
        let v := decodeNum ty (fmtFtz fm) (tElem m ta i j)
        if cfInt fm then intCode 32 ((if load then 0 else intOf true 32 (accElem x i j)) + numInt v)
        else encodeFlt .fp32 (rne32 fm)
          (if load then v else Num.add .rne (decodeFlt .fp32 (fmtFtz fm) (accElem x i j)) v)
      else accElem x i j)

/-- The micro-operations whose last occupied cycle this is, in program order. -/
def applyFlies (c : Core) (now : Nat) (l : List Fly) : Core :=
  match l with
  | [] => c
  | f :: r => applyFlies (if f.last = now then dropReader (applyWork c f (readerMem c f.key)) f.key else c) now r

end Sys2Proof.Machine
end

