-- ==== Sys2Proof/Machine/Xform.lean ====
section
/-! DEFINITION. The transform slot (R254 to R261): XTRN, XCVT, XPACK with their beats, XRATIO, XEXP with its blocks. -/

namespace Sys2Proof.Machine

/-- Control word of tile t of the acting core. -/
def ctlOf (s : State) (t : BitVec 6) : Word := (tileOf (cc s) t.toNat).ctl

/-- The wait, seq comparison and poison trap on a transform's source (R254). -/
def srcChk (s : State) (ta : BitVec 6) : Chk :=
  let m := tMask (tileOf (cc s) ta.toNat)
  (readyChk s ta m).and (poisonChk s ta m)

/-- Beats of a destination: two chunks a cycle (R254). -/
def beatCount (td : Word) : Nat := ((tSize td + 511) / 512 + 1) / 2

/-- Starts a transform: the destinations are armed, the source sampled from c + 2 on, the beats posted. -/
def startXf (s : State) (i : Instr) (trn : Bool) (td ta : BitVec 6) (td1 : Option (BitVec 6)) (mode : RSel) (n : Nat)
    (blk : Bool) : State :=
  let a := ctlOf s ta
  let d := ctlOf s td
  let c := cc s
  let gap := 2 ^ clampOf s s.cur.core
  let b := max (s.tick + (if trn then 8 else 6)) (if trn then c.xfTrn else c.xfCvt)
  let fm := readFmt s
  let seed := readSeed s 4
  let wa := (fmtNty (tFmt a)).width
  let wd := (fmtNty (tFmt d)).width
  let win : Window := if trn then .trn b gap (tBase a) (tRowBytes a) wa (tRowBytes d) wd
    else .conv b gap (tBase a) (tRowBytes a) wa (tRowBytes d) wd blk
  let key := s.nextId
  let s := markRead s ta
  let s := armTile s td .transform none
  let s := match td1 with
    | some t => armTile s t .transform none
    | none => s
  let s := addReader s s.cur.core (s.tick + 2) win
  let s := if n > 0 then setSeed s 4 (draws ((n + 3) / 4) seed).2 else s
  let job : XfJob :=
    { key := key, instr := i, ta := a, td := d, td1 := (td1.map (ctlOf s)).getD 0, mode := mode, fmt := fm,
      seed := seed, gap := gap }
  let s := updCur s fun c =>
    { c with xfJobs := c.xfJobs ++ [job], xfTrn := if trn then b + (beatCount d - 1) * gap + 1 else c.xfTrn,
             xfCvt := if trn then c.xfCvt else b + (beatCount d - 1) * gap + 1 }
  post s b .transformBeat { Ev.none with core := s.cur.core, id := key, n := 0 }

/-- The checks of XTRN (R255). -/
def chkXtrn (td ta : BitVec 6) (s : State) : Chk :=
  let a := ctlOf s ta
  let d := ctlOf s td
  (srcChk s ta).and
    ((descIf (decide (tFmtCode a ≠ tFmtCode d) || decide (tRows d ≠ tCols a) || decide (tCols d ≠ tRows a)) td).and
      (busyChk s td))

/-- XTRN (R255). -/
def execXtrn (td ta : BitVec 6) (s : State) : Host.Outcome State Fault Refusal :=
  perform s (chkXtrn td ta s) fun s => startXf s (.xtrn td ta) true td ta none .rne 0 false

/-- Same rows and columns. -/
def sameShape (a d : Word) : Bool := decide (tRows a = tRows d) && decide (tCols a = tCols d)

/-- Whether XCVT rounds: its formats form no conversion of R584. -/
def xcvtRounds (s : State) (ta : BitVec 6) (dst : Fmt) : Bool := !(roundsNothing (fmtNty dst) (fmtNty (tFmt (ctlOf s ta))))

/-- The draws of a transform over n elements: none unless it rounds in rst. -/
def xfDraws (s : State) (r : RSel) (n : Nat) : Nat := if modeOf r (readFmt s) = .rst then n else 0

/-- The checks of XCVT (R256). -/
def chkXcvt (td ta : BitVec 6) (dst : Fmt) (r : RSel) (s : State) : Chk :=
  let a := ctlOf s ta
  let d := ctlOf s td
  (srcChk s ta).and ((descIf (decide (tFmt d ≠ dst) || !(sameShape a d)) td).and
    ((if xcvtRounds s ta dst then rmChk r (readFmt s) else .ok).and (busyChk s td)))

/-- XCVT (R256). -/
def execXcvt (td ta : BitVec 6) (dst : Fmt) (r : RSel) (s : State) : Host.Outcome State Fault Refusal :=
  perform s (chkXcvt td ta dst r s) fun s =>
    let n := tRows (ctlOf s ta) * tCols (ctlOf s ta)
    if xcvtRounds s ta dst then startXf s (.xcvt td ta dst r) false td ta none r (xfDraws s r n) false
    else startXf s (.xcvt td ta dst r) false td ta none .rne 0 false

/-- The checks of XPACK (R257). -/
def chkXpack (td ta : BitVec 6) (dst : Fmt) (r : RSel) (s : State) : Chk :=
  let a := ctlOf s ta
  let d := ctlOf s td
  let e := ctlOf s (td + 1)
  (srcChk s ta).and ((descIf (!(isWideFlt (tFmt a))) ta).and
    ((descIf (decide (tFmt d ≠ dst) || !(sameShape a d)) td).and
    ((descIf (decide (tFmtCode e ≠ 13) || decide (tRows e ≠ tRows a) || decide (tCols e < (tCols a + 31) / 32)) (td + 1)).and
    ((rmChk r (readFmt s)).and ((busyChk s td).and (busyChk s (td + 1)))))))

/-- XPACK (R257). -/
def execXpack (td ta : BitVec 6) (dst : Fmt) (r : RSel) (s : State) : Host.Outcome State Fault Refusal :=
  perform s (chkXpack td ta dst r s) fun s =>
    let n := tRows (ctlOf s ta) * tCols (ctlOf s ta)
    startXf s (.xpack td ta dst r) false td ta (some (td + 1)) r (xfDraws s r n) true

/-- XRATIO (R258). -/
def execXratio (q : BitVec 16) (s : State) : Host.Outcome State Fault Refusal :=
  perform s .ok fun s => land s 1 (.xratio q)

/-! ## Beats -/

/-- The largest finite value of a destination of XPACK (R257). -/
def packMax (dst : Fmt) : Num :=
  match fmtNty dst with
  | .flt t => decodeFlt t false t.maxMag
  | .l8 => decodeL8 127
  | .l4 => decodeL4 7
  | .int sg w => Num.ofInt (intMax sg w)

/-- The larger magnitude, NaN excluded. -/
def magMax (a x : Num) : Num :=
  if x.isNan then a
  else
    let m := if x.neg? then x.negate else x
    if Num.cmp m a > 0 then m else a

/-- The scale of a block whose largest magnitude is m: the smallest code that covers it, or 0xFE. -/
def packScale (dst : Fmt) (m : Num) : Nat :=
  match (List.range 254).find? fun i => decide (Num.cmp m (Num.mul (packMax dst) (decodeScale (i + 1))) ≤ 0) with
  | some i => i + 1
  | none => 0xFE

/-- The scale of block b of row i of a source (R257). -/
def blockScale (m : Mem) (a : Word) (ftz : Bool) (dst : Fmt) (i b : Nat) : Nat :=
  let ty := fmtNty (tFmt a)
  packScale dst ((List.range (min 32 (tCols a - 32 * b))).foldl
    (fun x k => magMax x (decodeNum ty ftz (tElem m a i (32 * b + k)))) (.zero false))

/-- The random bits of element e of a transform. -/
def xfRng (j : XfJob) (e : Nat) : Rnd :=
  let md := modeOf j.mode j.fmt
  rndOf md j.fmt (if md = .rst then rngAt (draws (e / 4 + 1) j.seed).1 e else 0)

/-- The code of destination element (i, k) of a transform, from the source bytes m. -/
def xfElem (j : XfJob) (m : Mem) (i k : Nat) : Nat :=
  match j.instr with
  | .xtrn _ _ => tElem m j.ta k i
  | .xcvt _ _ dst _ => vcvtCode dst (tFmt j.ta) (xfRng j (i * tCols j.ta + k)) (tElem m j.ta i k)
  | .xpack _ _ dst _ =>
    quantize (fmtNty dst) (xfRng j (i * tCols j.ta + k)) (decodeNum (fmtNty (tFmt j.ta)) (fmtFtz j.fmt) (tElem m j.ta i k))
      (decodeScale (blockScale m j.ta (fmtFtz j.fmt) dst i (k / 32))) 0
  | _ => 0

/-- Byte o of a transform's destination. The bits of a row's last byte that no element holds are free. -/
def xfByte (j : XfJob) (m : Mem) (now o : Nat) : Byte :=
  let w := (fmtNty (tFmt j.td)).width
  let rb := tRowBytes j.td
  let i := o / rb
  let p := o % rb
  if w = 4 then
    let hi := if 2 * p + 1 < tCols j.td then xfElem j m i (2 * p + 1) else (Config.word now o).toNat % 16
    BitVec.ofNat 8 (xfElem j m i (2 * p) + 16 * hi)
  else BitVec.ofNat 8 (xfElem j m i (p * 8 / w) / 2 ^ (p * 8 % w))

/-- The destination's number. -/
def xfDest (j : XfJob) : BitVec 6 :=
  match j.instr with
  | .xtrn td _ => td
  | .xcvt td _ _ _ => td
  | .xpack td _ _ _ => td
  | _ => 0

/-- The writes of beat n of a transform: chunks 2n and 2n + 1, and with an XPACK's last beat its scale tile. -/
def beatStores (j : XfJob) (m : Mem) (now n : Nat) : List Store :=
  let size := tSize j.td
  let lo := 1024 * n
  let hi := min size (lo + 1024)
  let unit := match j.instr with | .xtrn .. => 0 | _ => 4
  let data := (List.range (hi - lo)).map fun o => xfByte j m now (lo + o)
  [{ due := now, group := 5, order := unit, sec := false, k := .bytes (tBase j.td + lo) data },
   { due := now, group := 5, order := unit + 1, sec := false, k := .tileBits (xfDest j) (chunkMask lo hi) }] ++
  (match j.instr with
    | .xpack td _ dst _ =>
      if n + 1 = beatCount j.td then
        let nb := (tCols j.ta + 31) / 32
        let cells := (List.range (tRows j.ta)).map fun i =>
          (tBase j.td1 + i * tRowBytes j.td1,
            (List.range nb).flatMap fun b => bytesOf (blockScale m j.ta (fmtFtz j.fmt) dst i b) 2)
        [{ due := now, group := 5, order := unit + 2, sec := false, k := .cells cells },
         { due := now, group := 5, order := unit + 3, sec := false, k := .tileBits (td + 1) (chunkMask 0 (tSize j.td1)) }]
      else []
    | _ => [])

/-- TRANSFORM_BEAT (R254): a beat of a transform of the core; a transform that a rewind has stopped writes nothing. -/
def execTransformBeat (s : State) : Host.Outcome State Fault Refusal :=
  let k := s.ev.core
  match (coreOf s k).xfJobs.find? fun j => decide (j.key = s.ev.id) with
  | none => .next s
  | some j =>
    let n := s.ev.n
    let m := readerMem (coreOf s k) j.key
    let s := updCore s k fun c => { c with stores := c.stores ++ beatStores j m s.tick n }
    if n + 1 < beatCount j.td then .next (post s (s.tick + j.gap) .transformBeat { s.ev with n := n + 1 })
    else
      .next (updCore s k fun c => dropReader { c with xfJobs := c.xfJobs.filter fun x => decide (x.key ≠ j.key) } j.key)

/-! ## XEXP (R259 to R261) -/

/-- A block's input bytes: from byte p of the input, under a codec (R260). -/
def blockInput (codec p : Nat) (get : Nat → Byte) : Nat :=
  if codec = 0 then 512
  else if codec = 1 then 64 + (List.range 64).foldl (fun n i => n + popc (get (p + i)) 8) 0
  else 128

/-- Byte t of a block's output from input bytes at p (R260). -/
def blockByte (codec p t : Nat) (get : Nat → Byte) : Byte :=
  if codec = 0 then get (p + t)
  else if codec = 1 then
    if (get (p + t / 8)).getLsbD (t % 8) then
      let before := (List.range (t / 8)).foldl (fun n i => n + popc (get (p + i)) 8) 0 + popc (get (p + t / 8)) (t % 8)
      get (p + 64 + before)
    else 0
  else
    let w := t / 4
    let nib := (get (p + 64 + w / 2)).toNat / 2 ^ (4 * (w % 2)) % 16
    get (p + 4 * nib + t % 4)

/-- The output of a block. -/
def blockOut (codec p : Nat) (get : Nat → Byte) : BitVec 4096 :=
  BitVec.ofNat 4096 (build 8 512 fun t => (blockByte codec p t get).toNat)

/-- Decodes n blocks from byte p of a tile of size bytes, each of at most lim input bytes; the number of the first block
that does not pass. -/
def expand (codec size lim : Nat) (get : Nat → Byte) (n b p : Nat) : Except Nat (List (BitVec 4096)) :=
  match n with
  | 0 => .ok []
  | n + 1 =>
    if p + (if codec = 1 then 64 else 0) > size then .error b
    else
      let k := blockInput codec p get
      if p + k > size ∨ k > lim then .error b
      else
        match expand codec size lim get n (b + 1) (p + k) with
        | .ok r => .ok (blockOut codec p get :: r)
        | .error e => .error e

/-- Blocks that XEXP names. -/
def expBlocks (nb : BitVec 4) : Nat := 8 * (nb.toNat + 1)

/-- xratio.q as XF reads it. -/
def ratioOf (s : State) : Nat := (cc s).arch.xratio.toNat

/-- The decoded blocks of an XEXP, or the failing block. -/
def expResult (s : State) (ta : BitVec 6) (nb : BitVec 4) (codec : BitVec 3) : Except Nat (List (BitVec 4096)) :=
  let w := ctlOf s ta
  let m := (cc s).arch.scratch
  expand codec.toNat (tSize w) (131072 / ratioOf s) (fun o => memGet m (tBase w + o)) (expBlocks nb) 0 0

/-- Bytes that count for R259: in the FIFO, popped since the segment's entry (R496), and still to land. -/
def fifoBytes (c : Core) : Nat :=
  512 * (c.arch.fifo.length + c.fifoPop + (c.expJobs.foldl (fun n j => n + j.blocks.length) 0))

/-- The checks of XEXP (R254, R259, R260). -/
def chkXexp (ta : BitVec 6) (nb : BitVec 4) (codec : BitVec 3) (s : State) : Chk :=
  (srcChk s ta).and
    ((match expResult s ta nb codec with
      | .error b => Chk.fault 19 (BitVec.ofNat 64 b) 0
      | .ok _ => Chk.ok).and (faultIf (decide (fifoBytes (cc s) + 512 * expBlocks nb > 65536)) 21 0 0))

/-- The cycle in which block b lands, the first landing in cycle first (R261), at a spacing stretched by a clamp (R518). -/
def blockTick (gap q first b : Nat) : Nat := first + 512 * b / min 2048 (4 * q) * gap

/-- XEXP (R260, R261). -/
def execXexp (ta : BitVec 6) (nb : BitVec 4) (codec : BitVec 3) (s : State) : Host.Outcome State Fault Refusal :=
  perform s (chkXexp ta nb codec s) fun s =>
    match expResult s ta nb codec with
    | .error _ => s
    | .ok blocks =>
      let q := ratioOf s
      let gap := 2 ^ clampOf s s.cur.core
      let first := max (s.tick + 10) (cc s).xfExp
      let key := s.nextId
      let s := updCur (freshKey (markRead s ta)) fun c =>
        { c with expJobs := c.expJobs ++ [{ key := key, blocks := blocks }],
                 xfExp := blockTick gap q first (expBlocks nb - 1) + 1 }
      (List.range (expBlocks nb)).foldl
        (fun s b => post s (blockTick gap q first b) .xexpBlockLands { Ev.none with core := s.cur.core, id := key }) s

/-- XEXP_BLOCK_LANDS (R261): the next block of an XEXP is appended to the decoder FIFO. -/
def execXexpBlockLands (s : State) : Host.Outcome State Fault Refusal :=
  .next (updCore s s.ev.core fun c =>
    match c.expJobs.find? fun j => decide (j.key = s.ev.id) with
    | none => c
    | some j =>
      match j.blocks with
      | [] => c
      | b :: r =>
        { c with arch := { c.arch with fifo := c.arch.fifo ++ [b] },
                 expJobs := (c.expJobs.map fun x => if x.key = j.key then { x with blocks := r } else x).filter
                   fun x => !x.blocks.isEmpty })

end Sys2Proof.Machine
end

