-- ==== Sys2Proof/Machine/Object.lean ====
section
/-! DEFINITION. Object memory (chapter 10, and R358 to R369 of chapter 09): the object table, layout, extents and
translations, blocks stored raw, compressed or shared, the object caches of the dies, write-backs, and the bits that an
access reads or writes. Where the manual lets a cache keep or drop a copy, or a translation hit or miss, the choice is free. -/

namespace Sys2Proof.Machine

/-- A free yes or no at a tick. -/
def pickBit (s : State) (a b : Nat) : Bool := decide (Config.pick s.tick a b % 2 = 1)

/-! ## The object table (R384 to R388) -/

/-- Word i of a list as a number. -/
def wN (e : List Word) (i : Nat) : Nat := (e.getD i 0).toNat

/-- n words of physical memory. -/
def physWords (s : State) (a n : Nat) : List Word := (List.range n).map fun i => physWord s (a + 8 * i)

/-- Base of the table slice of die d. -/
def otBase (s : State) (d : Nat) : Nat := (dieOf s d).motb.toNat / 4096 * 4096
/-- l, values outside 10 to 24 acting as 24 (R402). -/
def otLog (s : State) (d : Nat) : Nat :=
  let l := (dieOf s d).motb.toNat % 32
  if 10 ≤ l ∧ l ≤ 24 then l else 24
/-- Address of the entry of an object index. -/
def entAddr (s : State) (d i : Nat) : Nat := otBase s d + 64 * i

/-- The entry of an index as memory holds it; an index beyond the slice, or memory that is not there, gives none. -/
def tableEntry (s : State) (d i : Nat) : Option (List Word) :=
  if i < 2 ^ otLog s d ∧ memReadable s (entAddr s d i) 64 then some (physWords s (entAddr s d i) 8) else none

/-- The entry by the resolution cache, where it holds it and the free choice lets it hit, else by memory (R395). -/
def entryOf (s : State) (d i : Nat) : Option (List Word) :=
  match (dieOf s d).rescache.find? fun x => x.1 = i with
  | some x => if pickBit s d i then some x.2 else tableEntry s d i
  | none => tableEntry s d i

/-- Whether an entry is live. -/
def eLive (e : List Word) : Bool := decide (wN e 0 / 2 ^ 62 = 1)
/-- gen. -/
def eGen (e : List Word) : Nat := wN e 0 / 2 ^ 46 % 2 ^ 16
/-- lgen. -/
def eLgen (e : List Word) : Nat := wN e 0 / 2 ^ 42 % 16
/-- attr: 1 compressed, 2 dedup, 4 grid, 8 KV-paged, 16 mirrored. -/
def eAttr (e : List Word) : Nat := wN e 0 / 2 ^ 37 % 32
/-- fmt. -/
def eFmt (e : List Word) : Nat := wN e 0 / 2 ^ 33 % 16
/-- nd. -/
def eNd (e : List Word) : Nat := wN e 0 / 2 ^ 30 % 8
/-- res. -/
def eRes (e : List Word) : Nat := wN e 0 / 2 ^ 28 % 4
/-- hdie. -/
def eHdie (e : List Word) : Nat := wN e 0 / 2 ^ 26 % 4
/-- peer. -/
def ePeer (e : List Word) : Nat := wN e 0 / 2 ^ 14 % 4096
/-- ver. -/
def eVer (e : List Word) : Nat := wN e 1 % 2 ^ 48
/-- size. -/
def eSize (e : List Word) : Nat := wN e 2 % 2 ^ 48
/-- xs. -/
def eXs (e : List Word) : Nat := wN e 3 / 2 ^ 48 % 4
/-- root. -/
def eRoot (e : List Word) : Nat := wN e 3 % 2 ^ 48 / 64 * 64
/-- Domain slot k. -/
def eDom (e : List Word) (k : Nat) : Nat := wN e (4 + k / 2) / 2 ^ (32 * (k % 2)) % 2 ^ 32
/-- ord(k). -/
def eOrd (e : List Word) (k : Nat) : Nat := wN e 6 / 2 ^ (46 + 3 * k) % 8
/-- tb0. -/
def eTb0 (e : List Word) : Nat := wN e 6 / 2 ^ 42 % 16
/-- tb1. -/
def eTb1 (e : List Word) : Nat := wN e 6 / 2 ^ 38 % 16
/-- shn. -/
def eShn (e : List Word) : Nat := wN e 7 / 2 ^ 62
/-- shg. -/
def eShg (e : List Word) : Nat := wN e 7 / 2 ^ 57 % 32

/-- log2 of the extent size. -/
def eXlog (e : List Word) : Nat := if eXs e = 0 then 16 else if eXs e = 1 then 21 else 26
/-- Whether attribute bit i is set. -/
def eHas (e : List Word) (i : Nat) : Bool := decide (eAttr e / 2 ^ i % 2 = 1)
/-- Width of the entry's elements. -/
def eWidth (e : List Word) : Nat := (fmtNty ((fmtOf (BitVec.ofNat 4 (eFmt e))).getD .i8)).width
/-- The identity layout (R389). -/
def eIdentity (e : List Word) : Bool :=
  (List.range 6).all (fun k => decide (eOrd e k = k)) && decide (eTb0 e = 0) && decide (eTb1 e = 0)

/-- The rights of a domain: those of its lowest-numbered slot (R386). -/
def domRights (e : List Word) (dom : Nat) : Nat :=
  match (List.range 4).find? fun k => eDom e k / 2 ^ 16 = dom with
  | some k => eDom e k % 4096
  | none => 0

/-- A resolved object: its key (home package and index), its entry and its root block. -/
structure Obj where
  key : Nat
  e : List Word
  r : List Word
  deriving DecidableEq, Repr

/-- Extent of dimension d. -/
def oExt (o : Obj) (d : Nat) : Nat := wN o.r d
/-- Product of the extents below dimension d. -/
def oPi (o : Obj) (d : Nat) : Nat := (List.range d).foldl (fun a j => a * oExt o j) 1
/-- The number of elements. -/
def oCount (o : Obj) : Nat := oPi o (eNd o.e)

/-- The checks of R387 on the entry's own fields. -/
def entryOk (e : List Word) : Bool :=
  let nd := eNd e
  decide (nd ≠ 0) && decide (nd ≠ 7) && decide (eFmt e ≠ 15) && decide (eXs e ≠ 3) && decide (eShn e ≠ 3) &&
    (decide (eShn e = 0) || (decide (16 ≤ eShg e) && decide (eShg e ≤ 26) && decide (eXlog e ≤ eShg e))) &&
    (List.range nd).all (fun k => decide (eOrd e k < nd) && (List.range k).all fun j => decide (eOrd e j ≠ eOrd e k)) &&
    (List.range 6).all (fun k => decide (k < nd) || decide (eOrd e k = k)) &&
    (decide (eTb0 e = 0) && decide (eTb1 e = 0) || decide (2 ≤ nd)) &&
    !(eHas e 4 && (eHas e 0 || eHas e 1 || eHas e 3)) && !(eHas e 3 && decide (eXs e ≠ 0)) &&
    !(eHas e 2 && (decide (nd ≠ 1) || !(eIdentity e)))

/-- The checks of R387 and R470 on the shape record. -/
def shapeOk (o : Obj) : Bool :=
  let e := o.e
  let nd := eNd e
  (List.range nd).all (fun d => decide (oExt o d ≠ 0)) &&
    (decide (eTb0 e = 0) && decide (eTb1 e = 0) ||
      (decide (oExt o (eOrd e 0) % 2 ^ eTb0 e = 0) && decide (oExt o (eOrd e 1) % 2 ^ eTb1 e = 0))) &&
    decide ((oCount o * eWidth e + 7) / 8 ≤ eSize e) &&
    !(eHas e 2 && decide (wN o.r 6 = 0)) &&
    (!(eHas e 3) ||
      (decide (nd = 4) && eIdentity e && decide (oExt o 1 = 16) &&
        decide (oExt o 0 * 16 * oExt o 2 * eWidth e / 8 = 65536)))

/-- The object of an entry with its root block; none where that block cannot be read (R387: as not live). -/
def objWith (s : State) (key : Nat) (e : List Word) : Option Obj :=
  if memReadable s (eRoot e) 96 then
    let o : Obj := { key := key, e := e, r := physWords s (eRoot e) 12 }
    if shapeOk o then some o else none
  else none

/-! ## Layout (R389 to R392) -/

/-- stored_number of R389. -/
def storedNumber (o : Obj) (el : Nat) : Nat :=
  let e := o.e
  let c (d : Nat) := el / oPi o d % oExt o d
  let p (k : Nat) := c (eOrd e k)
  let px (k : Nat) := oExt o (eOrd e k)
  let nd := eNd e
  let prod (lo hi : Nat) := (List.range (hi - lo)).foldl (fun a j => a * px (lo + j)) 1
  let sum (lo : Nat) := (List.range (nd - lo)).foldl (fun a k => a + p (lo + k) * prod lo (lo + k)) 0
  if eTb0 e = 0 ∧ eTb1 e = 0 then sum 0
  else
    let t0 := 2 ^ eTb0 e
    let t1 := 2 ^ eTb1 e
    let u := (p 1 % t1) * t0 + p 0 % t0
    let t := p 0 / t0 + px 0 / t0 * (p 1 / t1)
    u + t0 * t1 * (t + px 0 / t0 * (px 1 / t1) * sum 2)

/-- The bit of the stored image where element el of width w begins; none beyond the object (R390). -/
def elemBit (o : Obj) (w : Nat) (el : Int) : Option Nat :=
  if el < 0 then none
  else if eIdentity o.e then
    if el.toNat * w + w ≤ 8 * eSize o.e then some (el.toNat * w) else none
  else if w = eWidth o.e ∧ el.toNat < oCount o then some (storedNumber o el.toNat * w)
  else none

/-- The shard of a stored byte and its byte there (R391). -/
def shardOf (o : Obj) (b : Nat) : Nat × Nat :=
  let n := 2 ^ eShn o.e
  let g := 2 ^ eShg o.e
  if n = 1 then (0, b) else (b / g % n, b / (n * g) * g + b % g)

/-- The home die of a shard. -/
def homeDie (o : Obj) (q : Nat) : Nat := (eHdie o.e + q) % 4

/-- Bytes of an extent entry. -/
def extSize (o : Obj) : Nat := if eHas o.e 3 || eHas o.e 4 then 16 else 8

/-- Address of the entry of extent x of shard q. -/
def extAddr (o : Obj) (q x : Nat) : Nat := wN o.r (8 + q) % 2 ^ 48 + x * extSize o

/-- The extent entry in memory; where memory is not there, an absent one. -/
def extMem (s : State) (o : Obj) (q x : Nat) : Nat × Nat :=
  let a := extAddr o q x
  if memReadable s a (extSize o) then
    ((physWord s a).toNat, if extSize o = 16 then (physWord s (a + 8)).toNat else 0)
  else (0, 0)

/-- Whether a translation is of an extent of an object under its layout generation (R394). -/
def xlatOf (o : Obj) (q x : Nat) (t : Xlat) : Bool :=
  decide (t.obj = o.key) && decide (t.lgen.toNat = eLgen o.e) && decide (t.shard = q) && decide (t.ext = x)

/-- The first-level TLB of a ring cluster; a unit that lies in none has none. -/
def ringTlb (y : Die) (ring : Option Nat) : List Xlat :=
  match ring with
  | some c => tblGet ([] : List Xlat) y.tlbs c
  | none => []

/-- The extent entry as die d translates it, for a core's request through its ring cluster's TLB first: by a translation that hits,
else by the table (R394). -/
def extEntry (s : State) (d : Nat) (o : Obj) (q x : Nat) (ring : Option Nat := none) : Nat × Nat :=
  match (ringTlb (dieOf s d) ring ++ (dieOf s d).xlats).find? (xlatOf o q x) with
  | some t => if pickBit s (1000 + d) (o.key + 7 * x + q) then (t.w0.toNat, t.w1.toNat) else extMem s o q x
  | none => extMem s o q x

/-- A TLB of n translations takes one more; the oldest goes (DESIGN CHOICE, see the log). -/
def tlbAdd (l : List Xlat) (o : Obj) (q x n : Nat) (t : Xlat) : List Xlat :=
  let l := l.filter (fun t => !(xlatOf o q x t)) ++ [t]
  l.drop (l.length - n)

/-- A die keeps the translation of a present extent in its last-level TLB of 12,288 translations, and the ring cluster of the core
that asked in its first-level TLB of 512 (R394). -/
def noteXlat (s : State) (d : Nat) (o : Obj) (q x : Nat) (w : Nat × Nat) (ring : Option Nat := none) : State :=
  if w.1 / 2 ^ 63 = 0 then s
  else
    let t : Xlat := { obj := o.key, lgen := BitVec.ofNat 4 (eLgen o.e), shard := q, ext := x, w0 := BitVec.ofNat 64 w.1,
                      w1 := BitVec.ofNat 64 w.2 }
    updDie s d fun y =>
      { y with xlats := tlbAdd y.xlats o q x 12288 t,
               tlbs := match ring with
                 | some c => tblPut y.tlbs c (tlbAdd (ringTlb y ring) o q x 512 t)
                 | none => y.tlbs }

/-- v of an extent entry; an indirect KV page reads as absent (R403). -/
def xPresent (o : Obj) (w : Nat × Nat) : Bool := decide (w.1 / 2 ^ 63 = 1) && !(eHas o.e 3 && decide (w.1 / 2 ^ 62 % 2 = 1))
/-- ind. -/
def xInd (w : Nat × Nat) : Bool := decide (w.1 / 2 ^ 62 % 2 = 1)
/-- mv. -/
def xMv (w : Nat × Nat) : Bool := decide (w.1 / 2 ^ 61 % 2 = 1)
/-- cow. -/
def xCow (w : Nat × Nat) : Bool := decide (w.1 / 2 ^ 60 % 2 = 1)
/-- pa. -/
def xPa (w : Nat × Nat) : Nat := w.1 % 2 ^ 48
/-- mpa. -/
def xMpa (w : Nat × Nat) : Nat := w.2 % 2 ^ 48
/-- dtag. -/
def xDtag (w : Nat × Nat) : Nat := w.2 / 2 ^ 48
/-- refc. -/
def xRefc (w : Nat × Nat) : Nat := w.2 / 2 ^ 32 % 2 ^ 16

/-! ## Stored blocks (R340, R396, R397) -/

/-- The key slot of an owner tag: the lowest-numbered valid one (R340). -/
def keyFor (s : State) (tag : Nat) : Option Key := (s.keys.find? fun k => k.2.tag.toNat = tag).map Prod.snd

/-- The owner tag of an entry. -/
def ownerTag (e : List Word) : Nat := eDom e 0 / 2 ^ 16

/-- n sectors of 128 bytes from a, decrypted under a tag's key slot. -/
def sectorsIn (s : State) (tag a n : Nat) : List Byte :=
  match keyFor s tag with
  | none => memBytes s.mem a (128 * n)
  | some k => (List.range n).flatMap fun i => xtsSector k (a + 128 * i) true (memBytes s.mem (a + 128 * i) 128)

/-- Writes whole sectors, encrypted under a tag's key slot. -/
def sectorsOut (s : State) (tag a : Nat) (bs : List Byte) : State :=
  let bs := bs ++ List.replicate ((128 - bs.length % 128) % 128) 0
  match keyFor s tag with
  | none => physWrite s a bs
  | some k =>
    physWrite s a ((List.range (bs.length / 128)).flatMap fun i =>
      xtsSector k (a + 128 * i) false (bs.drop (128 * i) |>.take 128))

/-- The 512 bytes at an address; none where they cannot be read. -/
def rawBlock (s : State) (tag a : Nat) : Option (BitVec 4096) :=
  if memReadable s a 512 then some (BitVec.ofNat 4096 (natOfBytes (sectorsIn s tag a 4))) else none

/-- The block that an indirection entry describes (R396); none where it is uncorrectable. -/
def indBlock (s : State) (tag : Nat) (en : Nat) : Option (BitVec 4096) :=
  let codec := en / 2 ^ 58 % 4
  let n := en / 2 ^ 60 % 4 + 1
  let sa := en % 2 ^ 48 / 128 * 128
  if en / 2 ^ 63 = 0 then some 0
  else if codec = 3 ∨ (codec = 0 ∧ n ≠ 4) then none
  else if !(memReadable s sa (128 * n)) then none
  else
    let bs := sectorsIn s tag sa n
    some (blockOut codec 0 fun i => bs.getD i 0)

/-- The block at an offset of an extent (R396, R400). -/
def storedBlock (s : State) (o : Obj) (w : Nat × Nat) (off : Nat) : Option (BitVec 4096) :=
  let tag := ownerTag o.e
  if xInd w then
    let a := xPa w + 8 * (off / 512)
    if memReadable s a 8 then indBlock s tag (physWord s a).toNat else none
  else
    match rawBlock s tag (xPa w + off) with
    | some b => some b
    | none => if eHas o.e 4 then rawBlock s tag (xMpa w + off) else none

/-- The bits of the bytes of a mask. -/
def byteMask (m : BitVec 512) (n : Nat) : Nat :=
  match n with
  | 0 => 0
  | n + 1 => byteMask m n + (if m.getLsbD n then 255 * 256 ^ n else 0)

/-- New bytes inside a mask, old ones outside it. -/
def overBytes (m : BitVec 512) (old new : BitVec 4096) : BitVec 4096 := blend (BitVec.ofNat 4096 (byteMask m 512)) old new

/-- The bytes of a block. -/
def blockBytes (b : BitVec 4096) : List Byte := bytesOf b.toNat 512

/-- Writes the bytes of a mask into the block at an address, sector by sector under encryption. -/
def rawPut (s : State) (tag a : Nat) (m : BitVec 512) (data : BitVec 4096) : State :=
  match keyFor s tag with
  | none =>
    (List.range 512).foldl (fun s i =>
      if m.getLsbD i then physWrite s (a + i) [data.extractLsb' (8 * i) 8] else s) s
  | some _ =>
    (List.range 4).foldl (fun s j =>
      let mj := m.extractLsb' (128 * j) 128
      if mj = 0 then s
      else
        let old := BitVec.ofNat 4096 (natOfBytes (sectorsIn s tag (a + 128 * j) 1) * 2 ^ (1024 * j))
        let new := overBytes m old data
        sectorsOut s tag (a + 128 * j) (blockBytes new |>.drop (128 * j) |>.take 128)) s

/-! ## Free sectors and pages (R398, R402) -/

/-- Free sectors a die holds. -/
def sectorsFree (s : State) (d : Nat) : Nat := (dieOf s d).msfree.toNat

/-- Pushes an entry on a stack at a base; ignored when full. Answers the state and the new count. -/
def pushStack (s : State) (base : Word) (n : Word) (v : Nat) : State × Word :=
  if n.toNat ≥ 2 ^ (base.toNat % 64) then (s, n)
  else (physPut s (base.toNat / 4096 * 4096 + 8 * n.toNat) (BitVec.ofNat 64 v), n + 1)

/-- Pushes a sector on die d's stack. -/
def pushSector (s : State) (d a : Nat) : State :=
  let x := pushStack s (dieOf s d).msstk (dieOf s d).msfree (a / 128 * 128)
  updDie x.1 d fun y => { y with msfree := x.2 }

/-- Takes n sectors from die d's stack: their lowest address, where they lie (DESIGN CHOICE, see the log). -/
def popSectors (s : State) (d n : Nat) : Option (State × Nat) :=
  let y := dieOf s d
  let f := y.msfree.toNat
  if f < n then none
  else
    let base := y.msstk.toNat / 4096 * 4096
    let l := (List.range n).map fun i => (physWord s (base + 8 * (f - 1 - i))).toNat
    some (updDie s d fun y => { y with msfree := BitVec.ofNat 64 (f - n) }, l.foldl min (l.getD 0 0))

/-- Pushes the sectors of a location back. -/
def freeSectors (s : State) (d sa n : Nat) : State :=
  (List.range n).foldl (fun s i => pushSector s d (sa + 128 * i)) s

/-! ## Codecs of a stored block (R260, R397) -/

/-- Zero map: bitmap and the non-zero bytes. -/
def zeroMap (bs : List Byte) : List Byte :=
  bytesOf ((List.range 512).foldl (fun a i => if bs.getD i 0 ≠ 0 then a + 2 ^ i else a) 0) 64 ++ bs.filter (fun b => b ≠ 0)

/-- The distinct words of a block, in the order they first stand. -/
def paletteOf (ws : List Nat) : List Nat := ws.eraseDups

/-- Word palette, where at most 16 words occur. -/
def paletteCode (bs : List Byte) : Option (List Byte) :=
  let ws := (List.range 128).map fun i => natOfBytes (bs.drop (4 * i) |>.take 4)
  let p := paletteOf ws
  if p.length > 16 then none
  else
    let idx (w : Nat) := p.findIdx (fun x => x = w)
    some ((p ++ List.replicate (16 - p.length) 0).flatMap (fun w => bytesOf w 4) ++
      (List.range 64).map fun i => BitVec.ofNat 8 (idx (ws.getD (2 * i) 0) + 16 * idx (ws.getD (2 * i + 1) 0)))

/-- The codec and bytes that store a block: the fewest sectors, ties to the lower codec number; raw if not compressed. -/
def encodeBlock (comp : Bool) (b : BitVec 4096) : Nat × List Byte :=
  let bs := blockBytes b
  let n (l : List Byte) := (l.length + 127) / 128
  let best := (0, bs)
  if !comp then best
  else
    let z := zeroMap bs
    let best := if n z < 4 then (1, z) else best
    match paletteCode bs with
    | some p => if n p < n best.2 then (2, p) else best
    | none => best

/-! ## The dedup index (R399) -/

/-- Base and log of the dedup index of die d. -/
def dedupBase (s : State) (d : Nat) : Nat × Nat :=
  ((dieOf s d).mdidx.toNat / 4096 * 4096, (dieOf s d).mdidx.toNat % 32)

/-- The addresses probed for a hash: the slot and the next 7, up to the first invalid one, which is the last given. -/
def probes (s : State) (base m h fuel i : Nat) : List Nat :=
  match fuel with
  | 0 => []
  | f + 1 =>
    let a := base + 32 * ((h + i) % 2 ^ m)
    if (physWord s (a + 8)).toNat / 2 ^ 63 = 0 then [a] else a :: probes s base m h f (i + 1)

/-- The first 64 bits of SHA-384 over a block. -/
def blockHash (b : BitVec 4096) : Nat := natOfBytes ((sha384 (blockBytes b)).take 8)

/-- The valid index entry that shares a location: among the entries of which memory lists a byte, the one that names it. -/
def dedupOf (s : State) (d sa : Nat) : Option Nat :=
  let x := dedupBase s d
  ((s.mem.filter fun c => decide (x.1 ≤ c.1) && decide (c.1 < x.1 + 32 * 2 ^ x.2)).map fun c => x.1 + (c.1 - x.1) / 32 * 32).find? fun a =>
    (physWord s (a + 8)).toNat / 2 ^ 63 = 1 && (physWord s (a + 16)).toNat % 2 ^ 48 / 128 = sa / 128

/-- Lets go of an old location (R397 step 5, R399). -/
def dropLocation (s : State) (d : Nat) (old : Nat) : State :=
  if old / 2 ^ 63 = 0 then s
  else
    let sa := old % 2 ^ 48 / 128 * 128
    let n := old / 2 ^ 60 % 4 + 1
    if old / 2 ^ 62 % 2 = 0 then freeSectors s d sa n
    else
      match dedupOf s d sa with
      | none => s
      | some a =>
        let w := (physWord s (a + 8)).toNat
        let c := w / 2 ^ 32 % 2 ^ 16
        if c ≤ 1 then freeSectors (physPut s (a + 8) 0) d sa n
        else physPut s (a + 8) (BitVec.ofNat 64 (w - 2 ^ 32))

/-- A candidate of the index that holds the block for the owner tag, and can count one more. -/
def dedupHit (s : State) (d tag h : Nat) (b : BitVec 4096) : Option Nat :=
  let x := dedupBase s d
  (probes s x.1 x.2 h 8 0).find? fun a =>
    let w := (physWord s (a + 8)).toNat
    decide (w / 2 ^ 63 = 1) && decide ((physWord s a).toNat = h) && decide (w % 2 ^ 16 = tag) &&
      decide (w / 2 ^ 32 % 2 ^ 16 < 65535) && decide (indBlock s tag (physWord s (a + 16)).toNat = some b)

/-- Where a new location is recorded in the index: its first invalid slot among the 8. -/
def dedupRoom (s : State) (d h : Nat) : Option Nat :=
  let x := dedupBase s d
  (probes s x.1 x.2 h 8 0).find? fun a => (physWord s (a + 8)).toNat / 2 ^ 63 = 0

/-- Stores a merged block into an indirect extent whose entry stands at address a (R397). None: no free sector. -/
def storeInd (s : State) (d tag attr a : Nat) (b : BitVec 4096) : Option State :=
  let old := (physWord s a).toNat
  let h := blockHash b
  let hit := if attr / 2 % 2 = 1 then dedupHit s d tag h b else none
  match hit with
  | some x =>
    let w := (physWord s (x + 8)).toNat
    let s := physPut s (x + 8) (BitVec.ofNat 64 (w + 2 ^ 32))
    let new := physWord s (x + 16)
    some (dropLocation (physPut s a new) d old)
  | none =>
    let c := encodeBlock (decide (attr % 2 = 1)) b
    let n := (c.2.length + 127) / 128
    let room := if attr / 2 % 2 = 1 then dedupRoom s d h else none
    let word (sa : Nat) (dd : Bool) := 2 ^ 63 + (if dd then 2 ^ 62 else 0) + (n - 1) * 2 ^ 60 + c.1 * 2 ^ 58 + sa
    if old / 2 ^ 62 = 2 ∧ old / 2 ^ 60 % 4 + 1 = n then
      let sa := old % 2 ^ 48 / 128 * 128
      some (physPut (sectorsOut s tag sa c.2) a (BitVec.ofNat 64 (word sa false)))
    else
      match popSectors s d n with
      | none => none
      | some (s, sa) =>
        let s := sectorsOut s tag sa c.2
        let s := physPut s a (BitVec.ofNat 64 (word sa room.isSome))
        let s := match room with
          | none => s
          | some x =>
            physPut (physPut (physPut s x (BitVec.ofNat 64 h)) (x + 8) (BitVec.ofNat 64 (2 ^ 63 + 2 ^ 32 + tag))) (x + 16)
              (BitVec.ofNat 64 (word sa true))
        some (dropLocation s d old)

/-! ## Object caches and write-backs (R359, R369) -/

/-- Whether a line holds a block. -/
def lineIs (key q blk : Nat) (l : Line) : Bool := decide (l.obj = key) && decide (l.shard = q) && decide (l.blk = blk)

/-- The line of a block in die d's cache. -/
def lineOf (s : State) (d key q blk : Nat) : Option Line := (dieOf s d).lines.find? (lineIs key q blk)

/-- Replaces a line; one that holds nothing goes. -/
def putLine (s : State) (d : Nat) (l : Line) : State :=
  updDie s d fun y =>
    { y with lines := y.lines.filter (fun x => !(lineIs l.obj l.shard l.blk x)) ++
               (if l.mask = 0 && !l.full then [] else [l]) }

/-- Discards a block's copy in a die. -/
def dropLine (s : State) (d key q blk : Nat) : State :=
  updDie s d fun y => { y with lines := y.lines.filter fun x => !(lineIs key q blk x) }

/-- An entry's words under the attributes and the layout generation of a tag (R369). -/
def underTag (e : List Word) (attr lgen : Nat) : List Word :=
  let w := wN e 0
  BitVec.ofNat 64 (w - w / 2 ^ 37 % 32 * 2 ^ 37 + attr % 32 * 2 ^ 37 - w / 2 ^ 42 % 16 * 2 ^ 42 + lgen % 16 * 2 ^ 42) :: e.drop 1

/-- The object that a line's tag names, under the tag's attributes and layout generation: by the entry it came with, else by the
table of its die. -/
def objOfLine (s : State) (d : Nat) (l : Line) : Option Obj :=
  let e := if l.ent.isEmpty then (tableEntry s d (l.obj % 2 ^ 24)).getD [] else l.ent
  if e.isEmpty then none else some { key := l.obj, e := underTag e l.attr l.lgen, r := physWords s (eRoot e) 12 }

/-- The extent entry of a write-back: the table's, or, where that names no extent, a translation that die d holds under the line's
layout generation. -/
def backEntry (s : State) (d : Nat) (o : Obj) (q x : Nat) : Nat × Nat :=
  let w := extMem s o q x
  if xPresent o w then w
  else
    match (dieOf s d).xlats.find? (xlatOf o q x) with
    | some t => (t.w0.toNat, t.w1.toNat)
    | none => w

/-- Writes a merged block back to its residency (R369, R397, R400); none where no sector is free, where the extent is not
there, or where the extent is on its way (R401) and the mover did not ask (force). -/
def putBlock (s : State) (d : Nat) (force : Bool) (o : Obj) (attr q blk : Nat) (m : BitVec 512) (data : BitVec 4096) : Option State :=
  let b := 512 * blk
  let x := b / 2 ^ eXlog o.e
  let off := b % 2 ^ eXlog o.e
  let w := backEntry s d o q x
  let tag := ownerTag o.e
  if !(xPresent o w) || (xMv w && !force) then none
  else if xInd w then
    let a := xPa w + 8 * (off / 512)
    match indBlock s tag (physWord s a).toNat with
    | none => storeInd s (homeDie o q) tag attr a (overBytes m 0 data)
    | some old => storeInd s (homeDie o q) tag attr a (overBytes m old data)
  else
    let s := rawPut s tag (xPa w + off) m data
    some (if eHas o.e 4 then rawPut s tag (xMpa w + off) m data else s)

/-- A line written back; where it cannot be it stays dirty (R398, R401). The home die's own written bytes yield to it. -/
def writeBack (s : State) (d : Nat) (l : Line) (force : Bool := false) : State :=
  if l.mask = 0 then s
  else
    match objOfLine s d l with
    | none => s
    | some o =>
      match putBlock s d force o l.attr l.shard l.blk l.mask l.data with
      | none => s
      | some s =>
        let h := homeDie o l.shard
        let s := putLine s d { l with mask := 0, full := l.full && decide (d ≠ h) }
        match lineOf s h l.obj l.shard l.blk with
        | some y => if h = d then s else putLine s h { y with mask := y.mask &&& ~~~l.mask }
        | none => s

/-- Writes back every dirty line of an object in a die. -/
def writeBackObj (s : State) (d key : Nat) : State :=
  ((dieOf s d).lines.filter fun l => decide (l.obj = key)).foldl (fun s l => writeBack s d l) s

/-- Whether a die holds a dirty line of an object. -/
def dirtyIn (s : State) (d key : Nat) : Bool := (dieOf s d).lines.any fun l => decide (l.obj = key) && decide (l.mask ≠ 0)

/-- Discards a die's clean copies of an object (R365). -/
def dropClean (s : State) (d key : Nat) : State :=
  updDie s d fun y =>
    { y with lines := (y.lines.map fun l => if l.obj = key then { l with full := false } else l).filter
               fun l => l.full || decide (l.mask ≠ 0) }

/-- Takes the first of these lines out of a cache that can go: a clean one, or one that its write-back leaves clean. -/
def evictFirst (s : State) (d : Nat) (l : List Line) : State :=
  match l with
  | [] => s
  | x :: r =>
    let t := writeBack s d x
    match lineOf t d x.obj x.shard x.blk with
    | none => t
    | some y => if y.mask = 0 then dropLine t d x.obj x.shard x.blk else evictFirst s d r

/-- Lines of a die's object cache: 256 MiB (R1). -/
def cacheLines : Nat := 524288

/-- A full cache lets a line go, a free choice, before it takes another block (R1, R369). -/
def makeRoom (s : State) (d key q blk : Nat) : State :=
  let l := (dieOf s d).lines
  if l.length < cacheLines ∨ (lineOf s d key q blk).isSome then s
  else
    let i := Config.pick s.tick (6000 + d) (key + 8 * blk + q) % l.length
    evictFirst s d (l.drop i ++ l.take i)

/-- What a read of a block gives. -/
inductive Blk where
  | data (v : BitVec 4096)
  | poison
  | missing
  deriving DecidableEq, Repr

/-- Evictions that the caches of other dies may make before a read of a block: a free choice for each dirty line. -/
def evictOthers (s : State) (d key q blk : Nat) : State :=
  (List.range 4).foldl (fun s e =>
    match lineOf s e key q blk with
    | some l => if e ≠ d ∧ l.mask ≠ 0 ∧ pickBit s (2000 + e) (key + 8 * blk + q) then writeBack s e l else s
    | none => s) s

/-- What a written line shows over a block. -/
def overLine (l : Option Line) (b : BitVec 4096) : BitVec 4096 :=
  match l with
  | some x => overBytes x.mask b x.data
  | none => b

/-- Reads block blk of shard q of an object on die d through an extent entry (R359, R360). ent: the table entry, where it came from
elsewhere. -/
def readWith (s : State) (d : Nat) (o : Obj) (ent : List Word) (q blk : Nat) (w : Nat × Nat) : State × Blk :=
  let off := 512 * blk % 2 ^ eXlog o.e
  if !(xPresent o w) then (s, .missing)
  else
    let own := lineOf s d o.key q blk
    let hit := match own with
      | some l => l.full && pickBit s (3000 + d) (o.key + 8 * blk + q)
      | none => false
    if hit then (s, .data ((own.map Line.data).getD 0))
    else
      let s := evictOthers s d o.key q blk
      match storedBlock s o w off with
      | none => (s, .poison)
      | some b =>
        let h := homeDie o q
        let b := if h = d then b else overLine (lineOf s h o.key q blk) b
        let b := overLine own b
        if h = d then (s, .data b)
        else
          (putLine (makeRoom s d o.key q blk) d
            { obj := o.key, shard := q, blk := blk, mask := (own.map Line.mask).getD 0, data := b, full := true,
              attr := (own.map Line.attr).getD (eAttr o.e), lgen := (own.map Line.lgen).getD (eLgen o.e), ent := ent }, .data b)

/-- Reads block blk of shard q of an object on die d, for a core's request through its ring cluster. -/
def readBlock (s : State) (d : Nat) (o : Obj) (ent : List Word) (q blk : Nat) (ring : Option Nat := none) : State × Blk :=
  let x := 512 * blk / 2 ^ eXlog o.e
  let w := extEntry s d o q x ring
  readWith (if xPresent o w then noteXlat s d o q x w ring else s) d o ent q blk w

/-- Reads a list of blocks. -/
def readBlocks (s : State) (d : Nat) (o : Obj) (ent : List Word) (l : List (Nat × Nat)) (ring : Option Nat := none) :
    State × List ((Nat × Nat) × Blk) :=
  match l with
  | [] => (s, [])
  | a :: r =>
    let x := readBlock s d o ent a.1 a.2 ring
    let y := readBlocks x.1 d o ent r ring
    (y.1, (a, x.2) :: y.2)

/-- The shard and block of a bit of the stored image. -/
def blockOf (o : Obj) (bit : Nat) : Nat × Nat :=
  let x := shardOf o (bit / 8)
  (x.1, x.2 / 512)

/-- The bit within its block. -/
def bitIn (o : Obj) (bit : Nat) : Nat := (shardOf o (bit / 8)).2 % 512 * 8 + bit % 8

/-- A block among those read. -/
def blkFind (l : List ((Nat × Nat) × Blk)) (a : Nat × Nat) : Blk :=
  match l.find? fun x => x.1 = a with
  | some x => x.2
  | none => .missing

/-- The code of w bits at a bit of the image, from blocks read; none where missing; the flag is poison. -/
def bitsFrom (o : Obj) (l : List ((Nat × Nat) × Blk)) (bit w : Nat) : Option (Nat × Bool) :=
  match blkFind l (blockOf o bit) with
  | .data v => some (v.toNat / 2 ^ bitIn o bit % 2 ^ w, false)
  | .poison => some (0, true)
  | .missing => none

/-- A plain write of w bits at a bit of the image, performed in die d's cache (R359). -/
def writeBits (s : State) (d : Nat) (o : Obj) (ent : List Word) (bit w v : Nat) : State :=
  let a := blockOf o bit
  let p := bitIn o bit
  let old := lineOf s d o.key a.1 a.2
  let cur := (old.map Line.data).getD 0
  let m := (old.map Line.mask).getD 0
  let n := if w % 8 = 0 ∧ p % 8 = 0 then w / 8 else 1
  let mask := BitVec.ofNat 512 ((2 ^ n - 1) * 2 ^ (p / 8))
  -- a part of a byte keeps the byte's other bits, as the die reads them
  let cur :=
    if n * 8 = w ∨ m &&& mask = mask then cur
    else
      match (readBlock s d o ent a.1 a.2).2 with
      | .data b => overBytes m b cur
      | _ => cur
  let field : BitVec 4096 := BitVec.ofNat 4096 ((2 ^ w - 1) * 2 ^ p)
  let data := blend field cur (BitVec.ofNat 4096 (v % 2 ^ w * 2 ^ p))
  putLine (makeRoom s d o.key a.1 a.2) d
    { obj := o.key, shard := a.1, blk := a.2, mask := m ||| mask, data := data, full := (old.map Line.full).getD false,
      attr := eAttr o.e, lgen := eLgen o.e, ent := ent }

/-- Copies of a block on the dies other than its home go before an engine's write (R380): a dirty one is written back; one that
cannot be stays. -/
def flushOthers (s : State) (o : Obj) (q blk : Nat) : State :=
  let h := homeDie o q
  (List.range 4).foldl (fun s e =>
    if e = h then s
    else
      match lineOf s e o.key q blk with
      | some l =>
        let t := writeBack s e l
        match lineOf t e o.key q blk with
        | some y => if y.mask = 0 then dropLine t e o.key q blk else t
        | none => t
      | none => s) s

/-- The blocks that elements of w bits of an object stand in. -/
def elemBlocks (o : Obj) (w : Nat) (els : List Int) : List (Nat × Nat) := ((els.filterMap fun e => elemBit o w e).map (blockOf o)).eraseDups

/-- The copies of an engine write's blocks on other dies go (R380). -/
def flushBlocks (s : State) (o : Obj) (l : List (Nat × Nat)) : State := l.foldl (fun s a => flushOthers s o a.1 a.2) s

/-- Whether another die still holds written bytes of one of these blocks, for want of a free sector (R398): the engine's write
waits. -/
def blocksHeld (s : State) (o : Obj) (l : List (Nat × Nat)) : Bool :=
  l.any fun a => (List.range 4).any fun e => decide (e ≠ homeDie o a.1) && (lineOf s e o.key a.1 a.2).any fun y => decide (y.mask ≠ 0)

/-- A write of w bits performed in the cache of the location's home die: an atomic (R371). -/
def homeWrite (s : State) (o : Obj) (ent : List Word) (bit w v : Nat) : State :=
  writeBits s (homeDie o (blockOf o bit).1) o ent bit w v

/-- An engine's write (R380). -/
def engineWrite (s : State) (o : Obj) (ent : List Word) (bit w v : Nat) : State :=
  let a := blockOf o bit
  homeWrite (flushOthers s o a.1 a.2) o ent bit w v

/-- n bytes of an identity object from byte a, as its home dies' caches hold them, through an extent entry already read where one is
given (R395); none where missing or poisoned. -/
def homeRead (s : State) (o : Obj) (a n : Nat) (ext : Option (Nat × Nat) := none) : Option Nat :=
  let l := blockOf o (8 * a)
  let h := homeDie o l.1
  match (readWith s h o [] l.1 l.2 (ext.getD (extEntry s h o l.1 (512 * l.2 / 2 ^ eXlog o.e)))).2 with
  | .data v => some (v.toNat / 2 ^ bitIn o (8 * a) % 2 ^ (8 * n))
  | _ => none

/-- Physical access (R336, R370): object lines that the holding die caches over an address range are written back and
their copies dropped, so that physical and object accesses there agree. -/
def flushPhys (s : State) (d a n : Nat) : State :=
  ((dieOf s d).lines).foldl (fun s l =>
    match objOfLine s d l with
    | none => s
    | some o =>
      let b := 512 * l.blk
      let w := extMem s o l.shard (b / 2 ^ eXlog o.e)
      let pa := xPa w + b % 2 ^ eXlog o.e
      if xPresent o w && !(xInd w) && decide (pa < a + n) && decide (a < pa + 512) then
        dropLine (writeBack s d l true) d l.obj l.shard l.blk
      else s) s

end Sys2Proof.Machine
end

