-- ==== Sys2Proof/Machine/Packet.lean ====
section
/-! DEFINITION. Packages, logical ports and paths (R441 to R443), and the numbered open packets of this package's dies
(R458). -/

namespace Sys2Proof.Machine

/-- The package at the far end of a logical port of package p (R441). -/
def portPeer (p l : Nat) : Nat :=
  let r := p / 32
  let q := p % 32
  if l < 62 then 32 * r + (q + 1 + l / 2) % 32 else 32 * ((r + 1 + (l - 62)) % 72) + q

/-- The intra-rack port pair toward position b from position a. -/
def rackPort (a b : Nat) : Nat := 2 * ((b + 31 - a) % 32)

/-- The cross-rack port toward rack b from rack a. -/
def crossPort (a b : Nat) : Nat := 62 + (b + 71 - a) % 72

/-- The first-hop logical port of each minimal path from package a to b, in order (R443). -/
def pathPorts (a b : Nat) : List Nat :=
  let ra := a / 32
  let rb := b / 32
  let qa := a % 32
  let qb := b % 32
  if a = b then []
  else if ra = rb then [rackPort qa qb, rackPort qa qb + 1]
  else if qa = qb then [crossPort ra rb]
  else [rackPort qa qb, rackPort qa qb + 1, crossPort ra rb, crossPort ra rb]

/-- The physical port bound to a logical port (R442). -/
def physOf (s : State) (l : Nat) : Nat := (tblFind s.lmap l).getD l

/-- A physical port. -/
def portOf (s : State) (p : Nat) : Port := tblGet Port.reset s.ports p

/-- Changes a physical port. -/
def updPort (s : State) (p : Nat) (f : Port → Port) : State := { s with ports := tblPut s.ports p (f (portOf s p)) }

/-- Whether a logical port carries traffic: its physical port is up (R444) and its binding in effect (R442). -/
def portUp (s : State) (l : Nat) : Bool :=
  decide ((portOf s (physOf s l)).state = 2) && !(s.lbind.any fun b => decide (b.1 = l))

/-- The first-hop ports of the minimal paths toward a package: one that has failed is on none (R443). -/
def minimalPaths (s : State) (b : Nat) : List Nat :=
  (pathPorts s.pkg.toNat b).filter fun l => decide ((portOf s (physOf s l)).state ≠ 3)

/-- The paths that may be used toward a package: those whose first port is up. -/
def livePaths (s : State) (b : Nat) : List Nat := (pathPorts s.pkg.toNat b).filter (portUp s)

/-- Whether a package cannot be reached: every port of every path is down or failed (R393). -/
def unreachable (s : State) (b : Nat) : Bool :=
  (pathPorts s.pkg.toNat b).all fun l =>
    let t := (portOf s (physOf s l)).state
    decide (t = 0) || decide (t = 3)

/-- A payload by its words. -/
def payloadOf (ws : List Word) : BitVec 1024 := BitVec.ofNat 1024 (natOfBytes (ws.flatMap fun w => bytesOf w.toNat 8))

/-- Word i of a payload. -/
def payloadWord (p : BitVec 1024) (i : Nat) : Word := p.extractLsb' (64 * i) 64

/-! ## The flit on the wire (R447, R448) -/

/-- The header beat of a flit: the fields at their bits. -/
def headerBits (f : Flit) : BitVec 128 :=
  f.crc ++ f.dpkg ++ f.ddie ++ f.dcore ++ f.cls ++ f.kind ++ f.seq ++ f.oslot ++ BitVec.ofBool f.rp ++ f.spkg ++ f.sdie ++
    BitVec.ofBool f.nv ++ f.nslot ++ f.csrc ++ f.ccnt

/-- The crc of a flit: over header bytes 0 to 11 and the payload. -/
def flitCrc (f : Flit) : BitVec 32 :=
  BitVec.ofNat 32 (crc32 (bytesOf (headerBits f).toNat 12 ++ bytesOf f.payload.toNat 128))

/-- A flit with its crc. -/
def sealed (f : Flit) : Flit := { f with crc := flitCrc f }

/-- An open flit of this package (R447, R454). -/
def openFlit (s : State) (d dpkg ddie kind seq : Nat) (payload : BitVec 1024) : Flit :=
  { dpkg := BitVec.ofNat 12 dpkg, ddie := BitVec.ofNat 2 ddie, dcore := 0, cls := 2, kind := BitVec.ofNat 4 kind,
    seq := BitVec.ofNat 24 seq, oslot := 0, rp := false, spkg := s.pkg, sdie := BitVec.ofNat 2 d, nv := false, nslot := 0,
    csrc := 0, ccnt := 0, payload := payload, crc := 0 }

/-- The next number of a pair of endpoints (R458). -/
def nextSeq (s : State) (d dpkg ddie : Nat) : Nat :=
  match s.txNext.find? fun x => x.1 = d && x.2.1.toNat = dpkg && x.2.2.1.toNat = ddie with
  | some x => x.2.2.2.toNat
  | none => 0

/-- Counts a pair's number on. -/
def bumpSeq (s : State) (d dpkg ddie : Nat) : State :=
  let n := nextSeq s d dpkg ddie
  { s with txNext := s.txNext.filter (fun x => !(x.1 = d && x.2.1.toNat = dpkg && x.2.2.1.toNat = ddie)) ++
             [(d, BitVec.ofNat 12 dpkg, BitVec.ofNat 2 ddie, BitVec.ofNat 24 (n + 1))] }

/-- A packet of die d to a die of another package, numbered, with the request it carries; it waits for a slot (R453). -/
def sendPacket (s : State) (d dpkg ddie kind : Nat) (payloads : List (BitVec 1024)) (req : Option Nat) : State :=
  let n := nextSeq s d dpkg ddie
  let p : Pkt :=
    { die := d, dpkg := BitVec.ofNat 12 dpkg, ddie := BitVec.ofNat 2 ddie, seq := BitVec.ofNat 24 n,
      flits := payloads.map fun x => openFlit s d dpkg ddie kind n x, sent := 0, path := 0, expiries := 0, req := req,
      next := 0 }
  bumpSeq { s with pkts := s.pkts ++ [p] } d dpkg ddie

/-- An unnumbered open flit of the link die to a package's die: an acknowledgement or a marker (R458). It goes out on the
link that its sender names. -/
def sendLink (s : State) (l dpkg ddie kind sdie : Nat) (payload : BitVec 1024) : State :=
  updPort s (physOf s l) fun p => { p with outq := p.outq ++ [(5, openFlit s sdie dpkg ddie kind 0 payload, none)] }

end Sys2Proof.Machine
end

