-- ==== Sys2Proof/Machine/Handle.lean ====
section
/-! DEFINITION. The handle unit (R263 to R266, R342 to R348, R393): requests, their resolution, what late and deferred
faults do, reports (R267), releases and acquires (R362 to R367). -/

namespace Sys2Proof.Machine

/-! ## Requests -/

/-- A request by its number. -/
def reqFind (s : State) (id : Nat) : Option Req := s.reqs.find? fun r => r.id = id

/-- Replaces a request. -/
def reqSet (s : State) (r : Req) : State := { s with reqs := s.reqs.map fun x => if x.id = r.id then r else x }

/-- A request that is over. -/
def reqDel (s : State) (id : Nat) : State := { s with reqs := s.reqs.filter fun r => decide (r.id ≠ id) }

/-- Adds a request; its number is the one the state offers next. -/
def reqAdd (s : State) (r : Req) : State := { s with reqs := s.reqs ++ [r], nextId := s.nextId + 1 }

/-- A resolution of a request at a tick. -/
def resolveAt (s : State) (due id : Nat) : State := post s due .handleResolution { Ev.none with id := id }

/-- A request of the acting slot. -/
def newReq (s : State) (h : Word) (op : ReqOp) (w : Nat) (elems : List (Nat × Int)) (st : ReqSt) : Req :=
  { id := s.nextId, core := s.cur.core, sec := s.cur.sec, off := s.cur.off, handler := (cc s).intrap,
    die := coreDie s.cur.core, dom := (cc s).dom, handle := h, op := op, w := w, elems := elems, data := [], left := [],
    ready := s.tick + 12, rdAt := none, st := st, eng := none,
    det := none, miss := [], bad := none, asks := 0, want := [], bads := [] }

/-- The ring cluster whose first-level TLB a request goes through: that of its core (R394). -/
def reqRing (r : Req) : Option Nat := if r.eng.isNone && decide (r.core < 384) then some (coreNum r.core / 8) else none

/-- The tile that a request writes. -/
def reqTile (r : Req) : Option (BitVec 6) :=
  match r.op with
  | .ldt _ _ t => some t
  | .pfxlook _ t _ _ => some t
  | _ => none

/-- The report chunk that a request owes (R267): tile and chunk. -/
def reqReport (r : Req) : Option (BitVec 6 × Nat) :=
  match r.op with
  | .amo _ _ nr _ _ _ t w => if nr then none else some (t, w / 64)
  | .acqv _ _ t k => some (t, k)
  | _ => none

/-- Whether the tile of a request still belongs to it (R500: a producer of a rewound segment has stopped). -/
def reqLive (s : State) (r : Req) : Bool :=
  match reqTile r with
  | some t => decide ((tileOf (coreOf s r.core) t.toNat).prod = .request r.id)
  | none => true

/-- Changes a descriptor on behalf of a producer outside the core: the segment's record follows, unless the producer was
armed in the open segment (R497). -/
def outTile (c : Core) (t : Nat) (f : Tile → Tile) : Core :=
  let inSeg := (tileOf c t).inSeg
  let c := updTile c t f
  if inSeg then c
  else { c with undo := { c.undo with tiles := tblPut c.undo.tiles t (f (tblGet Tile.reset c.undo.tiles t)) } }

/-- Completion and poison bits that a producer outside sets. -/
def outBits (c : Core) (t : Nat) (bits pois : BitVec 128) : Core :=
  outTile c t fun x => { x with map := x.map ||| bits, pois := x.pois ||| pois }

/-- The chunk of a tile that holds a bit address of the scratchpad. -/
def chunkAt (ctl : Word) (bit : Nat) : Nat := (bit / 8 - tBase ctl) / 512

/-- The chunks of a tile, in order. -/
def chunkList (ctl : Word) : List Nat := List.range ((tSize ctl + 511) / 512)

/-! ## Reports (R267) -/

/-- Key of a report chunk. -/
def repKey (t : BitVec 6) (k : Nat) : Nat := 128 * t.toNat + k

/-- The checks at issue on report chunk k of tile t. -/
def reportChk (s : State) (t : BitVec 6) (k : Nat) : Chk :=
  let x := tileOf (cc s) t.toNat
  (descIf (decide (tState x.ctl = 0) || decide (512 * k ≥ tSize x.ctl)) t).and
    ((busyChk s t).and (waitIf (decide (tblGet 0 (cc s).reports (repKey t k) ≥ 15))))

/-- The chunk's bit is cleared and one operation more is outstanding. -/
def reportStart (s : State) (t : BitVec 6) (k : Nat) : State :=
  let s := land s 1 (.clearBits t.toNat (BitVec.ofNat 128 (2 ^ k)))
  updCur s fun c => { c with reports := tblSet 0 c.reports (repKey t k) (tblGet 0 c.reports (repKey t k) + 1) }

/-- One operation has landed its result; the last sets the bit. -/
def reportDone (s : State) (core : Nat) (t : BitVec 6) (k : Nat) (poison : Bool) : State :=
  updCore s core fun c =>
    let n := tblGet 0 c.reports (repKey t k) - 1
    let c := { c with reports := tblSet 0 c.reports (repKey t k) n }
    let bit := BitVec.ofNat 128 (2 ^ k)
    outBits c t.toNat (if n = 0 then bit else 0) (if poison then bit else 0)

/-- REPORT_LANDS (R267, R311): the bytes of the result, then the count; where they land on no byte there are none. -/
def execReportLands (s : State) : Host.Outcome State Fault Refusal :=
  let e := s.ev
  let s := updCore s e.core fun c =>
    if e.bytes.isEmpty then c
    else { c with stores := c.stores ++ [{ due := s.tick, group := 3, order := e.id, sec := false, k := .bytes e.w.toNat e.bytes }] }
  .next (reportDone s e.core e.tile e.n e.flag)

/-! ## Faults of a request -/

/-- A job of a die. -/
def jobFind (s : State) (d id : Nat) : Option Job := (dieOf s d).jobs.find? fun j => j.id = id

/-- Changes a job of a die. -/
def jobUpd (s : State) (d id : Nat) (f : Job → Job) : State :=
  updDie s d fun y => { y with jobs := y.jobs.map fun j => if j.id = id then f j else j }

/-- A tile whose producer parked returns to ARMED when the producer goes on (R36, R348). -/
def rearm (s : State) (core t : Nat) (p : Producer) : State :=
  let x := tileOf (coreOf s core) t
  if x.prod = p ∧ tState x.ctl = 2 then
    updCore s core fun c => outTile c t fun x => { x with ctl := setField x.ctl 37 3 1 }
  else s

/-- A request of an engine is over, applied or with the code of its failure: the job goes on or fails in JOB_COMPLETE; the
record of a failed job follows the poisoning of its barrier (R290, R291, R344). -/
def engOver (s : State) (r : Req) (e : Eng) (code : Option Nat) (off : Word) : State :=
  let s := reqDel s r.id
  if e.poison then
    match e.fail with
    | some rec => postRecord s e.die rec
    | none => s
  else
    post s s.tick .jobComplete
      { Ev.none with die := e.die, id := e.job, flag := code.isSome, flag2 := true, code := BitVec.ofNat 16 (code.getD 0),
                     w := r.handle, w2 := off }

/-- The late fault of a request of a core (R265): the trap is held for MEM's next bundle, or for the return from a handler; a fault
of the handler's own instruction is a double fault. -/
def lateFaultCore (s : State) (r : Req) (cause : Nat) (i3 : Word) : State :=
  let t : Trap :=
    { cause := cause, slot := 5, sec := r.sec, off := r.off, info0 := BitVec.ofNat 64 cause, info1 := info1Of r.off r.sec,
      info2 := handleInfo r.handle, info3 := i3, late := true, rt := false, age := 0,
      wait := (coreOf s r.core).intrap }
  let s := match reqTile r with
    | some x =>
      if reqLive s r then
        updCore s r.core fun c =>
          outTile c x.toNat fun d => { d with ctl := setField d.ctl 37 3 0, map := 0, pois := 0, prod := .none }
      else s
    | none => s
  let s := match reqReport r with
    | some x => reportDone s r.core x.1 x.2 false
    | none => s
  let s := updCore s r.core fun c => { c with memReq := if c.memReq = some r.id then none else c.memReq }
  let s := reqDel s r.id
  if r.handler && (coreOf s r.core).intrap then
    post s s.tick .machineCheck { Ev.none with core := r.core, n := 1 }
  else updCore s r.core fun c => { c with lateHeld := c.lateHeld ++ [t] }

/-- A request fails at resolution, with a byte offset (R313, R345): a late fault of its core, or the failure of its job. -/
def lateFault (s : State) (r : Req) (cause : Nat) (i3 : Word) : State :=
  match r.eng with
  | some e => engOver s r e (some cause) i3
  | none => if r.id < (coreOf s r.core).born then reqDel s r.id else lateFaultCore s r cause i3

/-- Poisons every unfinished chunk of a request's tile (R272, R348): the chunks land with poison at a tick. -/
def poisonAll (s : State) (r : Req) (due : Nat) : State :=
  match reqTile r with
  | none => s
  | some t =>
    let s := rearm s r.core t.toNat (.request r.id)
    let x := tileOf (coreOf s r.core) t.toNat
    let ks := (chunkList x.ctl).filter fun k => !(x.map.getLsbD k)
    let s := reqSet s { r with elems := [], data := [], left := ks, st := .landing }
    ks.foldl (fun s k => post s due .tileChunkLands
      { Ev.none with core := r.core, id := r.id, tile := t, n := k, flag := true }) s

/-- The tile of a request and its first pending chunk, for word 4 of a record: a tile it writes or stores, a report's; 0 and 0 for a
request with neither. -/
def reqPlace (s : State) (r : Req) : Nat × Nat :=
  match r.op, reqTile r, reqReport r with
  | .stt t, _, _ => (t.toNat, 0)
  | _, some t, _ =>
    let x := tileOf (coreOf s r.core) t.toNat
    (t.toNat, ((chunkList x.ctl).find? fun k => !(x.map.getLsbD k)).getD 0)
  | _, none, some x => (x.1.toNat, x.2)
  | _, none, none => (0, 0)

/-- Word 4 of a core's record (R345). -/
def reqProg (s : State) (r : Req) : Word :=
  let p := reqPlace s r
  BitVec.ofNat 64 (r.off % 2 ^ 32 + p.1 * 2 ^ 32 + p.2 % 128 * 2 ^ 38 + (if r.sec then 2 ^ 45 else 0))

/-- The unit field of a core's record. -/
def unitOf (k : Nat) : Nat := if k < 384 then 0 else if k < 448 then 4 else 5

/-- A request parks on residency, or on a step load's bank (R342, R485): token, PFAULT, kind-1 record. -/
def parkCore (s : State) (r : Req) (code off : Nat) : State :=
  let tok := s.token
  let s := { reqSet s { r with st := .parked tok } with token := s.token + 1 }
  let s := match reqTile r with
    | some t => updCore s r.core fun c => outTile c t.toNat fun d => { d with ctl := setField d.ctl 37 3 2 }
    | none => s
  postRecord s r.die
    { kind := 1, code := code, unit := unitOf r.core, num := coreNum r.core, die := r.die, handle := r.handle,
      off := BitVec.ofNat 64 off, prog := reqProg s r, token := tok, src := 0 }

/-- A request of an engine parks: its job parks with its cursor and a kind-2 record (R290, R291). -/
def parkEng (s : State) (r : Req) (e : Eng) (off : Nat) : State :=
  let tok := s.token
  let s := { reqSet s { r with st := .parked tok } with token := s.token + 1 }
  let s := if !e.poison then
      jobUpd s e.die e.job fun j => { j with st := .parked tok, wait := r.handle, woff := off, chan := if j.kind = 5 then j.chan else 0 }
    else s
  postRecord s e.die
    { kind := 2, code := 0, unit := e.unit, num := e.num, die := e.die, handle := r.handle, off := BitVec.ofNat 64 off,
      prog := BitVec.ofNat 64 ((jobFind s e.die e.job).map Job.done |>.getD 0), token := tok, src := e.src }

/-- A request parks. -/
def parkReq (s : State) (r : Req) (code off : Nat) : State :=
  match r.eng with
  | some e => parkEng s r e off
  | none => parkCore s r code off

/-- The lowest byte offset in an object of elements of w bits. -/
def lowByte (w : Nat) (els : List Int) : Nat := (els.foldl min (els.headD 0)).toNat * w / 8

/-- The byte offset in the object of the first element that a request still has to reach. -/
def firstByte (r : Req) : Nat := lowByte r.w (r.elems.map Prod.snd)

/-- Cause 51 (R468): port, reason, package; the gcyc of the failure. -/
def raise51 (s : State) (k port reason pkg : Nat) : State :=
  raiseAsync s k { cause := 51, info0 := 51, info2 := BitVec.ofNat 64 (port + reason * 256 + pkg * 2 ^ 52), info3 := s.gcyc }

/-- Ends a request of a core as an abort does (R348, R393). ended marks a wait, whose trap follows when it looks again. A store
rewinds its segment while that is open; after the commit only its write is dropped (see the log). -/
def abortCore (s : State) (r : Req) : State :=
  match r.op with
  | .waitb .. => reqSet s { r with st := .ended }
  | .mwaitb .. => reqSet s { r with st := .ended }
  | .stt _ =>
    let held := (coreOf s r.core).heldStt.contains r.id
    let s := updCore (reqDel s r.id) r.core fun c => { c with heldStt := c.heldStt.filter fun i => decide (i ≠ r.id) }
    if held && decide ((coreOf s r.core).born ≤ r.id) then askRewind s r.core none else s
  | _ =>
    match reqTile r with
    | some _ => if reqLive s r then poisonAll s r s.tick else reqDel s r.id
    | none =>
      let s := match reqReport r with
        | some x => reportDone s r.core x.1 x.2 true
        | none => s
      let s := updCore s r.core fun c => { c with memReq := if c.memReq = some r.id then none else c.memReq }
      reqDel s r.id

/-- Ends a request as an abort does, a job's with a code. -/
def abortReq (s : State) (r : Req) (code : Nat) : State :=
  match r.eng with
  | some e =>
    if (match r.op with | .depb .. => true | _ => false) then reqSet s { r with st := .failed code }
    else engOver s r e (some code) (BitVec.ofNat 64 (((jobFind s e.die e.job).map Job.woff).getD 0))
  | none => abortCore s r

/-- A request whose package cannot be reached ends as an abort, with cause 51, reason 2 (R393, R460). -/
def endUnreachable (s : State) (r : Req) (pkg : Nat) : State :=
  let k := if isCompute r.core && r.eng.isNone then r.core else noticeCore s r.die
  raise51 (abortReq s r 68) k 0 2 pkg

/-! ## Resolution (R264, R393) -/

/-- What the handle unit finds. -/
inductive Rsv where
  | ok (o : Obj) (ent : List Word)
  | fault (cause : Nat)
  | deferred
  | remote (pkg : Nat) (ent : List Word)
  deriving DecidableEq, Repr

/-- What an entry gives a handle of a generation and a domain (R387, R393): not live, malformed in its own fields or of another
generation; then, where another package holds the data, the rights and that package; else the checks of the shape record, the
rights, the residency. -/
def rsvOf (s : State) (key gen dom right : Nat) (e : List Word) : Rsv :=
  let lacks := decide (domRights e dom / 2 ^ right % 2 = 0)
  if !(eLive e) || !(entryOk e) || decide (eGen e ≠ gen) then .fault 24
  else if eRes e = 2 ∧ ePeer e ≠ s.pkg.toNat then
    if lacks then .fault 23 else if ePeer e > 2303 then .fault 24 else .remote (ePeer e) e
  else
    match objWith s key e with
    | none => .fault 24
    | some o => if lacks then .fault 23 else if eRes e = 3 then .deferred else .ok o []

/-- Resolves a handle for a right: bit 0 read, 1 write, 2 atomic. -/
def resolve (s : State) (d dom : Nat) (h : Word) (right : Nat) : Rsv :=
  if hHome h > 2303 then .fault 24
  else if hHome h ≠ s.pkg.toNat then .remote (hHome h) []
  else
    match entryOf s d (hIndex h) with
    | none => .fault 24
    | some e => rsvOf s (h.toNat / 2 ^ 28) (hGen h) dom right e

/-- The unit keeps the entry it read (R395). -/
def noteEntry (s : State) (d i : Nat) : State :=
  match tableEntry s d i with
  | some e => updDie s d fun y => { y with rescache := y.rescache.filter (fun x => decide (x.1 ≠ i)) ++ [(i, e)] }
  | none => s

/-- What an access meets on its extents, with the byte of the object it meets it at: a KV page of another domain is a rights fault
(R405); a missing one, or for a write a copy-on-write one, is deferred; a write waits on mv (R401). -/
inductive ExtRes where
  | ok
  | rights (off : Nat)
  | deferred (off : Nat)
  | moving
  deriving DecidableEq, Repr

/-- The extent of an element. -/
def elemExt (o : Obj) (w : Nat) (e : Int) : Nat × Nat :=
  let x := shardOf o ((elemBit o w e).getD 0 / 8)
  (x.1, x.2 / 2 ^ eXlog o.e)

/-- Looks at the extents of an access to elements of w bits. -/
def extChk (s : State) (d dom : Nat) (o : Obj) (write : Bool) (w : Nat) (els : List Int) (ring : Option Nat := none) : ExtRes :=
  let l := (els.map fun e => (elemExt o w e)).eraseDups.map fun a => (a, extEntry s d o a.1 a.2 ring)
  let hit (f : Nat × Nat → Bool) : Option Nat :=
    match (l.filter fun x => f x.2).map Prod.fst with
    | [] => none
    | bad => some (lowByte w (els.filter fun e => bad.contains (elemExt o w e)))
  match hit fun x => eHas o.e 3 && xPresent o x && decide (xDtag x ≠ dom),
        hit fun x => !(xPresent o x) || (write && eHas o.e 3 && xCow x) with
  | some b, _ => .rights b
  | none, some b => .deferred b
  | none, none => if write && l.any (fun x => xMv (extMem s o x.1.1 x.1.2)) then .moving else .ok

/-! ## Loads (R271, R272) -/

/-- A late fault, or for LDTS poison in every chunk (R272). -/
def loadFault (s : State) (r : Req) (spec : Bool) (cause : Nat) (i3 : Word) : State :=
  if spec then poisonAll s r (max r.ready (s.tick + 1) + Config.delay s.tick r.id) else lateFault s r cause i3

/-- Blocks delivered as poison are counted (R509). -/
def countPoison (s : State) (d n : Nat) : State :=
  updDie s d fun y => { y with pois := if y.pois.toNat + n ≥ 2 ^ 64 then BitVec.allOnes 64 else y.pois + BitVec.ofNat 64 n }

/-- The element that a load reads may stand elsewhere (R483): a map of element numbers. -/
def loadFrom (s : State) (r : Req) (spec : Bool) (t : BitVec 6) (o : Obj) (ent : List Word) (mp : Int → Int) : State :=
  let bits := r.elems.map fun e => elemBit o r.w (mp e.2)
  match (r.elems.zip bits).find? fun x => x.2.isNone with
  | some x => loadFault s r spec 25 (BitVec.ofNat 64 (x.1.2.toNat * r.w / 8))
  | none =>
    let bs := bits.map fun b => b.getD 0
    match extChk s r.die r.dom.toNat o false r.w (r.elems.map fun e => mp e.2) (reqRing r) with
    | .rights b => loadFault s r spec 23 (BitVec.ofNat 64 b)
    | _ =>
      let rd := readBlocks s r.die o ent (bs.map (blockOf o)).eraseDups (reqRing r)
      let s := rd.1
      let got := (r.elems.zip bs).map fun x => (x.1, bitsFrom o rd.2 x.2 r.w)
      let miss := (got.filter fun g => g.2.isNone).map Prod.fst
      let have' := got.filterMap fun g => g.2.map fun v => (g.1.1, v)
      let ctl := (tileOf (coreOf s r.core) t.toNat).ctl
      let npois := (rd.2.filter fun x => x.2 = .poison).length
      let s := if npois > 0 then countPoison s r.die npois else s
      let ks := (have'.map fun x => chunkAt ctl x.1).eraseDups
      let missK := (miss.map fun x => chunkAt ctl x.1).eraseDups
      let due (k : Nat) := max r.ready (s.tick + 1) + Config.delay s.tick (r.id * 256 + k)
      let bad (k : Nat) := have'.any (fun x => decide (chunkAt ctl x.1 = k) && x.2.2) || (spec && missK.any fun m => m = k)
      let all := if spec then (ks ++ missK).eraseDups else ks
      let r' := { r with data := r.data ++ have'.map fun x => (x.1, BitVec.ofNat 32 x.2.1),
                         elems := if spec then [] else miss, left := r.left ++ all, st := .landing }
      let s := reqSet s r'
      let s := all.foldl (fun s k => post s (due k) .tileChunkLands
        { Ev.none with core := r.core, id := r.id, tile := t, n := k, flag := bad k }) s
      if miss.isEmpty || spec then s else parkReq s r' 0 (firstByte r')

/-- A store of codes by bit places, one piece each. -/
def codesStore (l : List (Nat × Word32)) (w : Nat) : StoreKind :=
  .bits (l.map fun x => (x.1 / 8, (x.1 % 8 + w + 7) / 8, (2 ^ w - 1) * 2 ^ (x.1 % 8), x.2.toNat * 2 ^ (x.1 % 8)))

/-- Changes the count of step-tagged loads that read a bank (R484): record address and bank. -/
def bumpRd (s : State) (a b : Nat) (up : Bool) : State :=
  let w := (physWord s (a + 48)).toNat
  let v := w / 2 ^ (32 * b) % 2 ^ 32
  let v' := if up then v + 1 else v - 1
  physPut s (a + 48) (BitVec.ofNat 64 (w - v * 2 ^ (32 * b) + v' % 2 ^ 32 * 2 ^ (32 * b)))

/-- A load that is over lets go of the bank it read. -/
def endLoad (s : State) (r : Req) : State :=
  let s := match r.rdAt with
    | some x => bumpRd s x.1 x.2 false
    | none => s
  reqDel s r.id

/-- Width of a format code's elements. -/
def codeWidth (f : Nat) : Nat := (fmtNty ((fmtOf (BitVec.ofNat 4 f)).getD .i8)).width

/-- Field bits lo to lo + n − 1 of word i of a list. -/
def wBits (l : List Word) (i lo n : Nat) : Nat := wN l i / 2 ^ lo % 2 ^ n

/-- A chunk of a job's destination tile lands (R289, R379): its bytes, then its bit. The last one completes the job. -/
def landJobChunk (s : State) (e : Ev) : State :=
  match jobFind s e.die e.id with
  | none => s
  | some j =>
    let t := (wBits j.card 2 52 6)
    let x := tileOf (coreOf s j.core) t
    let w := codeWidth (wBits j.card 1 56 4)
    let now := j.reads.filter fun p => decide (chunkAt x.ctl p.1 = e.n)
    let rest := j.reads.filter fun p => decide (chunkAt x.ctl p.1 ≠ e.n)
    let s := jobUpd s e.die e.id fun j => { j with reads := rest }
    let s := if x.prod = .job e.die e.id then
        updCore s j.core fun c =>
          outBits { c with stores := c.stores ++ [{ due := s.tick, group := 3, order := j.id, sec := false, k := codesStore now w }] } t
            (BitVec.ofNat 128 (2 ^ e.n)) (j.pois &&& BitVec.ofNat 128 (2 ^ e.n))
      else s
    if rest.isEmpty then post s (later s 1 e.id) .jobComplete { Ev.none with die := e.die, id := e.id } else s

/-- TILE_CHUNK_LANDS (R271): the bytes of a chunk are written in this cycle, and its bit set once no byte of it is
missing; flag poisons it. flag2: a chunk of a job's destination tile (R289). -/
def execTileChunkLands (s : State) : Host.Outcome State Fault Refusal :=
  let e := s.ev
  if e.flag2 then .next (landJobChunk s e) else
  match reqFind s e.id with
  | none => .next s
  | some r =>
    if !(reqLive s r) then .next (endLoad s r)
    else
      let ctl := (tileOf (coreOf s r.core) e.tile.toNat).ctl
      let now := r.data.filter fun x => decide (chunkAt ctl x.1 = e.n)
      let r' := { r with data := r.data.filter (fun x => decide (chunkAt ctl x.1 ≠ e.n)), left := r.left.erase e.n }
      let whole := e.flag || !((r'.elems ++ r'.miss).any fun x => decide (chunkAt ctl x.1 = e.n))
      let bad := e.flag || r.bads.contains e.n
      let bit := BitVec.ofNat 128 (2 ^ e.n)
      let s := updCore s r.core fun c =>
        let c := { c with stores := c.stores ++ [{ due := s.tick, group := 3, order := r.id, sec := false, k := codesStore now r.w }] }
        outBits c e.tile.toNat (if whole then bit else 0) (if whole && bad then bit else 0)
      .next (if r'.left.isEmpty && r'.elems.isEmpty then endLoad s r else reqSet s r')

/-! ## Requests to another package (R393, R454) -/

/-- A scope's code on the wire. -/
def scopeNum (sc : Scope) : Nat := match sc with | .core => 0 | .cluster => 1 | .die => 2 | .package => 3 | .system => 4

/-- An operation's code in fn. -/
def amoNum (op : AmoOp) : Nat :=
  match op with
  | .add => 0 | .fadd => 1 | .min => 2 | .max => 3 | .minn => 4 | .maxn => 5 | .xchg => 6 | .cas => 7 | .and => 8 | .or => 9

/-- The right that a request needs of the entry (R264): 0 read, 1 write, 2 atomic. -/
def reqRight (r : Req) : Nat :=
  match r.op with
  | .stt _ => 1
  | .relv .. => 1
  | .ctxsave .. => 1
  | .halo .. => 1
  | .jobWrite => match r.eng with
    | some e => if e.poison then 0 else 1
    | none => 1
  | .amo .. => 2
  | .bari .. => 2
  | .bara .. => 2
  | _ => 0

/-- A request's number on the wire. -/
def wireId (id : Nat) : Nat := id % 2 ^ 33

/-- Word 5 of a request: its number, its core's number, the right it needs, whether an engine makes it, its domain. -/
def reqTag (r : Req) : Word :=
  BitVec.ofNat 64 (wireId r.id + coreNum r.core % 128 * 2 ^ 33 + reqRight r * 2 ^ 40 + (if r.eng.isSome then 2 ^ 42 else 0) +
    r.dom.toNat * 2 ^ 48)

/-- The request's wire kind and first payload words: the handle without its rights, offset, operands, fn. What the manual does
not state of them (the codes of fn, the generation below the identity, the words of stores and loads, word 5) is a DESIGN
CHOICE, see the log. -/
def remoteForm (r : Req) : Nat × List Word :=
  let ident : Word := BitVec.ofNat 64 (r.handle.toNat / 2 ^ 12 * 2 ^ 12)
  let n : Word := reqTag r
  match r.op with
  | .stt _ => (2, [ident])
  | .jobWrite => (2, [ident])
  | .ctxsave .. => (2, [ident])
  | .amo op w64 nr off a b _ _ =>
    (3, [ident, off, a, b, BitVec.ofNat 64 (amoNum op + (if w64 then 16 else 0) + (if nr then 32 else 0)), n])
  | .bari el bytes c => (3, [ident, el * 32, bytes, BitVec.ofNat 64 c, 64, n])
  | .bara b p el sy => (3, [ident, el * 32, sy, 0, BitVec.ofNat 64 (128 + (if b then 1 else 0) + (if p then 2 else 0)), n])
  | .waitb el ph => (3, [ident, el * 32, if ph then 1 else 0, 0, 256, n])
  | .mwaitb el ph => (3, [ident, el * 32, if ph then 1 else 0, 0, 256, n])
  | .depb el ph => (3, [ident, el * 32, if ph then 1 else 0, 0, 256, n])
  | .acqv sc v _ _ => (5, [ident, v, BitVec.ofNat 64 (scopeNum sc), 0, 0, n])
  | .relv sc v => (7, [ident, v, BitVec.ofNat 64 (scopeNum sc), 0, 0, n])
  | .entry => (3, [ident, 0, 0, 0, 1024, n])
  | .halo p slot st ord => (3, [ident, BitVec.ofNat 64 slot, BitVec.ofNat 64 st, BitVec.ofNat 64 ord, BitVec.ofNat 64 (512 + p), n])
  | _ => (0, [ident])

/-- The payload that packs codes of w bits, the first lowest. -/
def packCodes (w : Nat) (l : List Word32) : BitVec 1024 :=
  BitVec.ofNat 1024 (l.foldr (fun x a => x.toNat % 2 ^ w + a * 2 ^ w) 0)

/-- A payload of a request's words; behind an entry that travels with it stand its kind and the entry (R393). -/
def requestBody (kind : Nat) (ws ent : List Word) : BitVec 1024 :=
  payloadOf (if ent.isEmpty then ws else (List.range 6).map (fun i => ws.getD i 0) ++ [BitVec.ofNat 64 kind, 0] ++ ent)

/-- Elements in ascending order of their numbers, those of one number in their old order. -/
def insElem (x : Nat × Int) (l : List (Nat × Int)) : List (Nat × Int) :=
  match l with
  | [] => [x]
  | y :: r => if x.2 ≤ y.2 then x :: y :: r else y :: insElem x r

/-- Sorts elements. -/
def sortElems (l : List (Nat × Int)) : List (Nat × Int) := l.foldr insElem []

/-- Of elements of one number in a sorted list the last: the one whose code a store leaves. -/
def lastOnes (l : List (Nat × Int)) : List (Nat × Int) :=
  match l with
  | [] => []
  | [x] => [x]
  | x :: y :: r => if x.2 = y.2 then lastOnes (y :: r) else x :: lastOnes (y :: r)

/-- Those of consecutive numbers from an element on. -/
def consecutive (n : Nat) (e : Int) (l : List (Nat × Int)) : List (Nat × Int) :=
  match l with
  | [] => []
  | x :: r => if n = 0 ∨ x.2 ≠ e then [] else x :: consecutive (n - 1) (e + 1) r

/-- The flit pairs of a store, one for each run of consecutive elements that a payload holds, cut where 8 bytes of the object end
(R358): the byte offset of the run, and its bit count with the first bit's place in the byte. -/
def storePackets (s : State) (r : Req) (pkg : Nat) (ws ent : List Word) (fuel : Nat) (l : List (Nat × Int)) : State :=
  match fuel, l with
  | 0, _ => s
  | _, [] => s
  | f + 1, (a, e) :: t =>
    let b := e.toNat * r.w
    let run := consecutive (((b + 1024) / 64 * 64 - b) / max 1 r.w) e ((a, e) :: t)
    let codes := run.map fun x => match r.data.find? fun y => decide (y.1 = x.1) with
      | some y => y.2
      | none => 0
    let s := sendPacket s r.die pkg (hIndex r.handle % 4) (if ent.isEmpty then 2 else 8)
      [requestBody 2 (ws ++ [BitVec.ofNat 64 (b / 8), 0, BitVec.ofNat 64 (run.length * r.w + b % 8 * 2 ^ 32), 0, reqTag r]) ent,
        packCodes r.w codes]
      (some r.id)
    storePackets s r pkg ws ent f (((a, e) :: t).drop (max 1 run.length))

/-- The step that a load names (R483): 2^63, the .flt form, S; else 0. -/
def stepWord (r : Req) : Word :=
  match r.op with
  | .ldt _ (some (st, flt)) _ => BitVec.ofNat 64 (2 ^ 63 + (if flt then 2 ^ 32 else 0) + st.toNat)
  | _ => 0

/-- The number of the 128-byte line of an object that an element begins in. -/
def lineAt (w : Nat) (e : Int) : Nat := e.toNat * w / 1024

/-- The elements of a sorted list that one read request asks for: those of the first one's block of 512 bytes, so that the block is
read whole in one step (R369); of a load that names a step only consecutive ones, on which alone its test then bears (R483). -/
def readRun (r : Req) (l : List (Nat × Int)) : List (Nat × Int) :=
  match l with
  | [] => []
  | (a, e) :: t =>
    let b := lineAt r.w e / 4
    let l := ((a, e) :: t).takeWhile fun x => decide (lineAt r.w x.2 / 4 = b)
    if stepWord r = 0 then l else consecutive l.length e l

/-- The read requests of a load (R454): a count of 64-byte units, the byte offset of the first line, the step, the bits wanted from there
on with the count of those to pass over before the first, the element width. Answers the state and the lines that will
come, each with the bits that its request asks for. -/
def loadPackets (s : State) (r : Req) (pkg : Nat) (ws ent : List Word) (fuel : Nat) (l : List (Nat × Int)) :
    State × List (Nat × Nat × Nat) :=
  match fuel, l with
  | 0, _ => (s, [])
  | _, [] => (s, [])
  | f + 1, (a, e) :: t =>
    let run := readRun r ((a, e) :: t)
    let k := lineAt r.w e
    let bits := run.foldl (fun m x => max m (x.2.toNat * r.w + r.w)) 0 - 1024 * k
    let n := (bits + 1023) / 1024
    let s := sendPacket s r.die pkg (hIndex r.handle % 4) (if ent.isEmpty then 0 else 8)
      [requestBody 0 [ws.getD 0 0 + BitVec.ofNat 64 (2 * n), BitVec.ofNat 64 (128 * k), stepWord r,
        BitVec.ofNat 64 (bits + (e.toNat * r.w - 1024 * k) * 2 ^ 32), BitVec.ofNat 64 r.w, reqTag r] ent] (some r.id)
    let y := loadPackets s r pkg ws ent f (((a, e) :: t).drop (max 1 run.length))
    (y.1, (List.range n).map (fun i => (k + i, e.toNat * r.w, 1024 * k + bits)) ++ y.2)

/-- The elements that a store still has to write: those that another package found not resident, else all. -/
def storeElems (r : Req) : List (Nat × Int) := if r.miss.isEmpty then r.elems else r.miss

/-- Whether another read of a die is out. A read response carries data alone (R454), so a die has one read request out at a time
(DESIGN CHOICE, see the log). -/
def readOut (s : State) (r : Req) : Bool :=
  s.reqs.any fun q => decide (q.die = r.die) && decide (q.id ≠ r.id) && decide (q.st = .remote) && !q.want.isEmpty

/-- Sends a request to the package that resolves it; with the entry where that package only holds the data (R393). Each packet
of a store is answered. -/
def sendRemote (s : State) (r : Req) (pkg : Nat) (ent : List Word) : State :=
  if unreachable s pkg then endUnreachable s r pkg
  else
    let f := remoteForm r
    if f.1 = 2 then
      let l := lastOnes (sortElems (storeElems r))
      let t := storePackets s r pkg f.2 ent l.length l
      reqSet t { r with st := .remote, miss := [], bad := none, asks := t.pkts.length - s.pkts.length }
    else if f.1 = 0 then
      if readOut s r then resolveAt (reqSet s { r with st := .issued }) (s.tick + 1) r.id
      else
        let l := sortElems r.elems
        let t := loadPackets s r pkg f.2 ent l.length l
        reqSet t.1 { r with st := .remote, elems := l, miss := [], bad := none, want := t.2 }
    else
      sendPacket (reqSet s { r with st := .remote, miss := [], bad := none }) r.die pkg (hIndex r.handle % 4)
        (if ent.isEmpty then f.1 else 8) [requestBody f.1 f.2 ent] (some r.id)

/-! ## Versions (R362, R363, R365) -/

/-- A view among views; one that is not kept holds the entry's version and no die. -/
def viewOf (l : List View) (key : Nat) (v0 : Word) : View :=
  match l.find? fun v => v.obj = key with
  | some v => v
  | none => { obj := key, ver := v0, hold := 0 }

/-- Raises a view to at least v, adding a holding die. -/
def viewRaise (l : List View) (key : Nat) (v0 v : Word) (hold : BitVec 4) : List View :=
  let x := viewOf l key v0
  l.filter (fun y => decide (y.obj ≠ key)) ++ [{ x with ver := if x.ver.toNat < v.toNat then v else x.ver, hold := x.hold ||| hold }]

/-- Takes dies out of a view's holding set. -/
def viewLeave (l : List View) (key : Nat) (dies : BitVec 4) : List View :=
  l.map fun y => if y.obj = key then { y with hold := y.hold &&& ~~~dies } else y

/-- Whether an object key is homed on this package. -/
def homedHere (s : State) (key : Nat) : Bool := decide (key / 2 ^ 24 = s.pkg.toNat)

/-- The entry of an object homed here, by die 0's slice. -/
def homeEntry (s : State) (key : Nat) : List Word := if homedHere s key then (tableEntry s 0 (key % 2 ^ 24)).getD [] else []

/-- The die that keeps an object's package view (R362). -/
def pkgViewDie (s : State) (key : Nat) : Nat := if homedHere s key then eHdie (homeEntry s key) else key % 4

/-- The version in an object's entry, which a view that is not kept yet holds (R362); of an object homed elsewhere it is free (see
the log). -/
def ver0 (s : State) (key : Nat) : Word :=
  if homedHere s key then BitVec.ofNat 64 (eVer (homeEntry s key)) else BitVec.ofNat 64 ((Config.word 0 (2 ^ 60 + key)).toNat % 2 ^ 48)

/-- The three views. -/
def dieView (s : State) (d key : Nat) : View := viewOf (dieOf s d).views key (ver0 s key)
/-- The package view. -/
def pkgView (s : State) (key : Nat) : View := viewOf (dieOf s (pkgViewDie s key)).pkgViews key (ver0 s key)
/-- The system view, kept in the home package. -/
def sysView (s : State) (key : Nat) : View := viewOf (dieOf s (pkgViewDie s key)).sysViews key (ver0 s key)

/-- Whether a scope names the package view. -/
def scopePkg (sc : Scope) : Bool := match sc with | .package => true | .system => true | _ => false

/-- The view that an acquire reads. -/
def acqView (s : State) (d key : Nat) (sc : Scope) : View :=
  match sc with
  | .package => pkgView s key
  | .system => sysView s key
  | _ => dieView s d key

/-- Every view of an object homed here is kept from now on, at the version that its entry holds until then (R362). -/
def keepViews (s : State) (key : Nat) : State :=
  let z := ver0 s key
  let s := (List.range 4).foldl (fun s d => updDie s d fun y => { y with views := viewRaise y.views key z 0 0 }) s
  updDie s (pkgViewDie s key) fun y => { y with pkgViews := viewRaise y.pkgViews key z 0 0 }

/-- No view of an object is kept: its entry is another object's from now on (R334, R362). -/
def dropViews (s : State) (key : Nat) : State :=
  let f (l : List View) : List View := l.filter fun v => decide (v.obj ≠ key)
  (List.range 4).foldl (fun s d => updDie s d fun y => { y with views := f y.views, pkgViews := f y.pkgViews, sysViews := f y.sysViews }) s

/-- The version of the system view stands in the object's entry (R363), in the copies of the resolution caches too. -/
def storeVer (s : State) (key : Nat) : State :=
  let i := key % 2 ^ 24
  let v := (sysView s key).ver.toNat % 2 ^ 48
  if homedHere s key && decide (i < 2 ^ otLog s 0) && memReadable s (entAddr s 0 i + 8) 8 then
    let s := keepViews s key
    let a := entAddr s 0 i + 8
    let s := physPut s a (BitVec.ofNat 64 ((physWord s a).toNat / 2 ^ 48 * 2 ^ 48 + v))
    (List.range 4).foldl (fun s d => updDie s d fun y =>
      { y with rescache := y.rescache.map fun x =>
          if x.1 = i then (x.1, x.2.set 1 (BitVec.ofNat 64 (wN x.2 1 / 2 ^ 48 * 2 ^ 48 + v))) else x }) s
  else s

/-- Raises the system view of an object homed here (R363). -/
def raiseSys (s : State) (key : Nat) (v : Word) (hold : BitVec 4) : State :=
  storeVer (updDie s (pkgViewDie s key) fun y => { y with sysViews := viewRaise y.sysViews key (ver0 s key) v hold }) key

/-- Acquires that a view now answers complete (R365). -/
def wakeAcquires (s : State) (key : Nat) : State :=
  s.reqs.foldl (fun s r =>
    match r.op with
    | .acqv sc v _ _ =>
      if r.handle.toNat / 2 ^ 28 = key ∧ r.st = .atUnit ∧ v.toNat ≤ (acqView s r.die key sc).ver.toNat then
        post (reqSet s { r with st := .landing }) (later s 1 r.id) .acquireComplete { Ev.none with id := r.id }
      else s
    | _ => s) s

/-- RELV performs at the commit of its segment (R363): every view its scope names. -/
def applyRelease (s : State) (d key : Nat) (sc : Scope) (v : Word) : State :=
  let hold : BitVec 4 := if dirtyIn s d key then BitVec.ofNat 4 (2 ^ d) else 0
  let z := ver0 s key
  let s := updDie s d fun y => { y with views := viewRaise y.views key z v hold }
  let s := if scopePkg sc then
      updDie s (pkgViewDie s key) fun y => { y with pkgViews := viewRaise y.pkgViews key z v hold }
    else s
  let s := if sc = .system ∧ homedHere s key then raiseSys s key v hold else s
  wakeAcquires s key

/-- The dies that must write back before an acquire completes: the holding set but for the acquirer's own (R365). -/
def acquireDies (s : State) (d key : Nat) (sc : Scope) : List Nat :=
  if scopePkg sc then (List.range 4).filter fun e => decide (e ≠ d) && (acqView s d key sc).hold.getLsbD e else []

/-- ACQUIRE_COMPLETE (R365): write-backs, discards, the report bit. Lines that find no free sector keep it waiting (R398). -/
def execAcquireComplete (s : State) : Host.Outcome State Fault Refusal :=
  match reqFind s s.ev.id with
  | none => .next s
  | some r =>
    match r.op with
    | .acqv sc _ t k =>
      let key := r.handle.toNat / 2 ^ 28
      let ds := acquireDies s r.die key sc
      let s := ds.foldl (fun s e => writeBackObj s e key) s
      if ds.any fun e => dirtyIn s e key then .next (post s (later s 1 r.id) .acquireComplete s.ev)
      else
        let m : BitVec 4 := BitVec.ofNat 4 (ds.foldl (fun a e => a + 2 ^ e) 0)
        let s := if sc = .system then
            updDie s (pkgViewDie s key) fun y => { y with sysViews := viewLeave y.sysViews key m }
          else if sc = .package then
            updDie s (pkgViewDie s key) fun y => { y with pkgViews := viewLeave y.pkgViews key m }
          else s
        let s := if scopePkg sc then dropClean s r.die key else s
        .next (reqDel (reportDone s r.core t k false) r.id)
    | _ => .next s

end Sys2Proof.Machine
end

