-- ==== Sys2Proof/Machine/Grid.lean ====
section
/-! DEFINITION. Partitioned grids (chapter 13): the descriptor, frames, ghost cells and their sources, banks, the state
records. -/

namespace Sys2Proof.Machine

/-- A grid descriptor: its address and the 16 words of its header (R471). -/
structure Grid where
  a : Nat
  w : List Word
  deriving DecidableEq, Repr

/-- Bits lo to lo + n − 1 of header word i. -/
def gBits (g : Grid) (i lo n : Nat) : Nat := wN g.w i / 2 ^ lo % 2 ^ n

/-- nd. -/
def gdNd (g : Grid) : Nat := gBits g 0 61 3
/-- D. -/
def gdD (g : Grid) : Nat := gBits g 0 56 4 + 1
/-- s0. -/
def gdS0 (g : Grid) : Nat := gBits g 0 0 32
/-- N(d). -/
def gdN (g : Grid) (d : Nat) : Nat := gBits g (1 + d / 2) (32 * (d % 2)) 32
/-- pc(d). -/
def gdPc (g : Grid) (d : Nat) : Nat := gBits g 3 (16 * d) 16
/-- w(f). -/
def gdW (g : Grid) (f : Nat) : Nat := gBits g 4 (8 * f) 8
/-- r(d). -/
def gdR (g : Grid) (d : Nat) : Nat := gBits g 5 (32 + 8 * d) 8
/-- rule(f). -/
def gdRule (g : Grid) (f : Nat) : Nat := gBits g 5 (4 * f) 3
/-- cval(f). -/
def gdCval (g : Grid) (f : Nat) : Nat := gBits g (6 + f / 2) (32 * (f % 2)) 32
/-- nslot. -/
def gdNslot (g : Grid) : Nat := gBits g 10 0 20
/-- n(d). -/
def gdn (g : Grid) (d : Nat) : Nat := gdN g d / gdPc g d
/-- Product of f over dimensions below n. -/
def prodTo (f : Nat → Nat) (n : Nat) : Nat :=
  match n with
  | 0 => 1
  | n + 1 => prodTo f n * f n
/-- Pn. -/
def gdPn (g : Grid) : Nat := prodTo (gdPc g) (gdNd g)
/-- m(d). -/
def gdM (g : Grid) (d : Nat) : Nat := gdn g d + gdW g (2 * d) + gdW g (2 * d + 1)
/-- F. -/
def gdF (g : Grid) : Nat := prodTo (gdM g) (gdNd g)
/-- I. -/
def gdI (g : Grid) : Nat := prodTo (gdn g) (gdNd g)
/-- G. -/
def gdG (g : Grid) : Nat := gdF g - gdI g
/-- Bk (R475). -/
def gdBk (g : Grid) : Nat := gdF g + 2 * gdG g

/-- The validity of a descriptor (R471). -/
def gridValid (g : Grid) : Bool :=
  let nd := gdNd g
  decide (1 ≤ nd) && decide (nd ≤ 4) &&
    (List.range 4).all (fun d => decide (d < nd) ||
      (decide (gdN g d = 0) && decide (gdPc g d = 0) && decide (gdR g d = 0) &&
        (List.range 2).all fun i => decide (gdW g (2 * d + i) = 0) && decide (gdRule g (2 * d + i) = 0) &&
          decide (gdCval g (2 * d + i) = 0))) &&
    decide (gdS0 g % gdD g = 0) && decide (gdS0 g + 2 * gdD g ≤ 0xFFFFFFFE) &&
    (List.range nd).all (fun d =>
      decide (1 ≤ gdN g d) && decide (1 ≤ gdPc g d) && decide (gdN g d % gdPc g d = 0) &&
        (List.range 2).all (fun i =>
          let f := 2 * d + i
          decide (gdW g f ≤ gdn g d) && (decide (gdW g f = 0) || decide (gdD g * gdR g d ≤ gdW g f)) &&
            (decide (gdRule g f ≠ 1) || decide (gdW g f + 1 ≤ gdn g d)) &&
            (decide (gdRule g f ≠ 4) || decide (2 ≤ gdn g d)) && decide (gdRule g f ≤ 5)) &&
        decide ((gdRule g (2 * d) = 0) ↔ (gdRule g (2 * d + 1) = 0))) &&
    decide (gdPn g ≤ 2 ^ 20) && decide (1 ≤ gdNslot g)

/-- The descriptor of a grid object; none where the object is bad (R470). -/
def gridOf (s : State) (o : Obj) : Option Grid :=
  let a := wN o.r 6
  if !(eHas o.e 2) || !(memReadable s a 128) then none
  else
    let g : Grid := { a := a, w := physWords s a 16 }
    if gridValid g && decide (oExt o 0 = gdNslot g * gdBk g) then some g else none

/-- Address of map entry k. -/
def mapAddr (g : Grid) (k : Nat) : Nat := g.a + 128 + 16 * k
/-- slot of map entry k. -/
def mapSlot (s : State) (g : Grid) (k : Nat) : Nat := (physWord s (mapAddr g k)).toNat % 2 ^ 20
/-- handle of map entry k. -/
def mapHandle (s : State) (g : Grid) (k : Nat) : Word := physWord s (mapAddr g k + 8)
/-- Address of state record j (R473). -/
def recAddr (g : Grid) (j : Nat) : Nat := g.a + 128 + 16 * gdPn g + 64 * j

/-- pv and pstep of a record. -/
def recPv (s : State) (a : Nat) : Bool := (physWord s a).getLsbD 0
/-- pstep. -/
def recPstep (s : State) (a : Nat) : Nat := (physWord s a).toNat / 2 ^ 32
/-- tag(b). -/
def recTag (s : State) (a b : Nat) : Nat := (physWord s (a + 8)).toNat / 2 ^ (32 * b) % 2 ^ 32
/-- map(b). -/
def recMap (s : State) (a b : Nat) : Nat := memRead s.mem (a + 16 + 16 * b) 16
/-- rd(b). -/
def recRd (s : State) (a b : Nat) : Nat := (physWord s (a + 48)).toNat / 2 ^ (32 * b) % 2 ^ 32
/-- Sets tag(b). -/
def setTag (s : State) (a b v : Nat) : State := physWrite s (a + 8 + 4 * b) (bytesOf v 4)
/-- Sets map(b). -/
def setMap (s : State) (a b v : Nat) : State := physWrite s (a + 16 + 16 * b) (bytesOf v 16)

/-- The bank of step S (R475). -/
def bankOf (g : Grid) (st : Nat) : Nat := st / gdD g % 2

/-- Coordinates of a number over extents f, nd of them. -/
def coordsOf (f : Nat → Nat) (nd x : Nat) : List Nat := (List.range nd).map fun d => x / prodTo f d % f d

/-- The number of coordinates over extents f. -/
def numberOf (f : Nat → Nat) (c : List Nat) : Nat :=
  (List.range c.length).foldl (fun a d => a + c.getD d 0 * prodTo f d) 0

/-- Coordinates of partition k. -/
def partCoords (g : Grid) (k : Nat) : List Nat := coordsOf (gdPc g) (gdNd g) k

/-- Coordinates of frame cell fr. -/
def frameCoords (g : Grid) (fr : Nat) : List Nat := coordsOf (gdM g) (gdNd g) fr

/-- Whether a coordinate of a frame cell is interior along d. -/
def innerAt (g : Grid) (d x : Nat) : Bool := decide (gdW g (2 * d) ≤ x) && decide (x < gdW g (2 * d) + gdn g d)

/-- Whether a frame cell is interior. -/
def interior (g : Grid) (fr : Nat) : Bool :=
  (List.range (gdNd g)).all fun d => innerAt g d ((frameCoords g fr).getD d 0)

/-- The interior cells numbered below a frame cell, by its coordinates in the dimensions below n. -/
def innerBelow (g : Grid) (c : List Nat) (n : Nat) : Nat :=
  match n with
  | 0 => 0
  | d + 1 =>
    let x := c.getD d 0
    min (x - gdW g (2 * d)) (gdn g d) * prodTo (gdn g) d + (if innerAt g d x then innerBelow g c d else 0)

/-- gx(fr) (R474). -/
def ghostIndex (g : Grid) (fr : Nat) : Nat := fr - innerBelow g (frameCoords g fr) (gdNd g)

/-- Global coordinates of frame cell fr of partition k. -/
def globalOf (g : Grid) (k fr : Nat) : List Int :=
  (List.range (gdNd g)).map fun d =>
    ((partCoords g k).getD d 0 * gdn g d : Int) + (frameCoords g fr).getD d 0 - gdW g (2 * d)

/-- What R476 finds for a ghost cell: a constant, the supply cell, or terms. -/
inductive Ghost where
  | const (v : Nat)
  | supply
  | terms (l : List (Int × List Int))
  deriving DecidableEq, Repr

/-- One dimension of R476. -/
def ghostDim (g : Grid) (x : List Int) (d : Nat) (acc : Ghost) : Ghost :=
  match acc with
  | .terms l =>
    let n : Int := gdN g d
    let v := x.getD d 0
    if 0 ≤ v ∧ v ≤ n - 1 then acc
    else
      let side := if v < 0 then 0 else 1
      let kk : Int := if v < 0 then -v else v - n + 1
      let all (f : Int → Int) : Ghost := .terms (l.map fun t => (t.1, t.2.set d (f (t.2.getD d 0))))
      match gdRule g (2 * d + side) with
      | 0 => all fun y => y.emod n
      | 1 => all fun y => if side = 0 then -y else 2 * (n - 1) - y
      | 3 => all fun _ => if side = 0 then 0 else n - 1
      | 2 => .const (gdCval g (2 * d + side))
      | 5 => .supply
      | _ =>
        let e0 : Int := if side = 0 then 0 else n - 1
        let e1 : Int := if side = 0 then 1 else n - 2
        .terms (l.flatMap fun t => [(t.1 * (kk + 1), t.2.set d e0), (-t.1 * kk, t.2.set d e1)])
  | r => r

/-- R476 for a ghost cell with global coordinates x. -/
def ghostOf (g : Grid) (x : List Int) : Ghost :=
  (List.range (gdNd g)).foldl (fun a d => ghostDim g x d a) (.terms [(1, x)])

/-- The partition that holds a global cell. -/
def holderOf (g : Grid) (x : List Int) : Nat :=
  numberOf (gdPc g) ((List.range (gdNd g)).map fun d => (x.getD d 0).toNat / gdn g d)

/-- The frame number of a global cell in partition k. -/
def frameNo (g : Grid) (k : Nat) (x : List Int) : Nat :=
  numberOf (gdM g) ((List.range (gdNd g)).map fun d =>
    (x.getD d 0 - (partCoords g k).getD d 0 * gdn g d + gdW g (2 * d)).toNat)

/-- The source of a ghost cell of partition q (R478). -/
def sourceOf (g : Grid) (q fr : Nat) : Nat :=
  match ghostOf g (globalOf g q fr) with
  | .terms ((_, x) :: _) => holderOf g x
  | _ => q

/-- The ghost cells of a frame. -/
def ghostCells (g : Grid) : List Nat := (List.range (gdF g)).filter fun fr => !(interior g fr)

/-- Whether offset o (digits base 3) reaches partition k from q. -/
def reaches (g : Grid) (q k o : Nat) : Bool :=
  (List.range (gdNd g)).all fun d =>
    let a : Int := (partCoords g q).getD d 0 + (o / 3 ^ d % 3 : Nat) - 1
    let a := if gdRule g (2 * d) = 0 then a.emod (gdPc g d) else a
    decide (a = (partCoords g k).getD d 0)

/-- The ordinal of k relative to q (R478). -/
def ordinalOf (g : Grid) (q k : Nat) : Nat := ((List.range (3 ^ gdNd g)).find? fun o => reaches g q k o).getD 0

/-- The sources of q's ghost cells. -/
def sourcesOf (g : Grid) (q : Nat) : List Nat := ((ghostCells g).map fun fr => sourceOf g q fr).eraseDups

/-- The expected map of q. -/
def expectedMap (g : Grid) (q : Nat) : Nat :=
  ((sourcesOf g q).map fun k => ordinalOf g q k).eraseDups.foldl (fun a o => a + 2 ^ o) 0

/-- Whether bank b of a record is current for step S (R478). -/
def bankCurrent (s : State) (g : Grid) (q a b st : Nat) : Bool :=
  decide (recTag s a b = st) && decide (recMap s a b = expectedMap g q)

/-- The partition whose map entry names an object and slot. -/
def partOf (s : State) (g : Grid) (key slot : Nat) : Option Nat :=
  (List.range (gdPn g)).find? fun k => mapSlot s g k = slot && (mapHandle s g k).toNat / 2 ^ 28 = key

/-- Where a step-tagged load reads an element of a slot (R483): ghost cells of the frame from bank b. -/
def stepElem (g : Grid) (b : Nat) (el : Int) : Int :=
  let i := el.toNat % gdBk g
  if b = 1 ∧ i < gdF g ∧ !(interior g i) then el - i + gdF g + ghostIndex g i else el

/-- What the test of R483 finds. -/
inductive StepTest where
  | read (rec bank : Nat) (g : Grid) (counts : Bool)
  | bad
  | bound
  | stale
  | wait (rec bank : Nat)
  deriving DecidableEq, Repr

/-- The test of R483 for a load of elements els for step S. -/
def stepTest (s : State) (o : Obj) (els : List Int) (st : Nat) : StepTest :=
  match gridOf s o with
  | none => .bad
  | some g =>
    let slot := (els.headD 0).toNat / gdBk g
    if !(els.all fun e => decide (e.toNat / gdBk g = slot)) then .bound
    else
      match partOf s g o.key slot with
      | none => .bad
      | some q =>
        let a := recAddr g slot
        let b := bankOf g st
        let ghosts := els.any fun e => decide (e.toNat % gdBk g < gdF g) && !(interior g (e.toNat % gdBk g))
        if !ghosts then .read a b g false
        else if st % gdD g ≠ 0 ∨ st < gdS0 g then .stale
        else if bankCurrent s g q a b st then .read a b g true
        else
          let tag := recTag s a b
          if tag ≠ 0xFFFFFFFF ∧ tag > st then .stale else .wait a b

end Sys2Proof.Machine
end

