-- ==== Sys2Proof/Machine/Regs.lean ====
section
/-! DEFINITION. The device registers at physical addresses, as a read finds them (R343, R402, R415, R469, R449, R506,
R507, R509, R512, R513, R526, R529 to R533, R538, R574). Writes are in RegWrite. -/

namespace Sys2Proof.Machine

/-- A block of registers. -/
inductive Block where
  | faultQ (d : Nat)
  | objMgr (d : Nat)
  | cmdStream (d : Nat)
  | snapshot (d : Nat)
  | errLog (d : Nat)
  | port (p : Nat)
  | eto
  | portMap
  | jack
  | coolCtl
  | portSnap
  | sluice
  | crypto
  | meas
  | fuses
  | hostCtl
  | rootScratch
  | frame
  deriving DecidableEq, Repr

/-- The block that holds a physical address, and the offset in it (R585). -/
def blockAt (a : Nat) : Option (Block × Nat) :=
  if a < 0xFF0000000000 then none
  else if 0xFF4000000000 ≤ a then
    if a < 0xFF4000000000 + 133 * 0x8000 then some (.frame, a - 0xFF4000000000) else none
  else if 0xFF0400000000 ≤ a then
    let o := a - 0xFF0400000000
    if 0x6000 ≤ o ∧ o < 0x6040 then some (.eto, o - 0x6000)
    else if 0x6400 ≤ o ∧ o < 0x6400 + 133 * 8 then some (.portMap, o - 0x6400)
    else if 0x7000 ≤ o ∧ o < 0x7040 then some (.jack, o - 0x7000)
    else if 0x9000 ≤ o ∧ o < 0x9400 then some (.coolCtl, o - 0x9000)
    else if 0xC000 ≤ o ∧ o < 0xE400 then some (.portSnap, o - 0xC000)
    else if 0x10000 ≤ o ∧ o < 0x10000 + 80 * 64 then some (.sluice, o - 0x10000)
    else if 0x20000 ≤ o ∧ o < 0x20040 then some (.crypto, o - 0x20000)
    else if 0x21000 ≤ o ∧ o < 0x21440 then some (.meas, o - 0x21000)
    else if 0x22000 ≤ o ∧ o < 0x22180 then some (.fuses, o - 0x22000)
    else if 0x23000 ≤ o ∧ o < 0x2B000 then some (.hostCtl, o - 0x23000)
    else if 0x100000 ≤ o ∧ o < 0x200000 then some (.rootScratch, o - 0x100000)
    else none
  else
    let d := (a - 0xFF0000000000) / 0x1000000
    let o := (a - 0xFF0000000000) % 0x1000000
    if d < 4 then
      if 0x1000 ≤ o ∧ o < 0x1040 then some (.faultQ d, o - 0x1000)
      else if 0x2000 ≤ o ∧ o < 0x2080 then some (.objMgr d, o - 0x2000)
      else if 0x3000 ≤ o ∧ o < 0x3500 then some (.cmdStream d, o - 0x3000)
      else if 0x5000 ≤ o ∧ o < 0x6880 then some (.snapshot d, o - 0x5000)
      else if 0x7000 ≤ o ∧ o < 0x7200 then some (.errLog d, o - 0x7000)
      else none
    else if 4 ≤ d ∧ d ≤ 5 ∧ 0x4000 ≤ o ∧ o < 0x4000 + 72 * 0x40 then
      some (.port (72 * (d - 4) + (o - 0x4000) / 0x40), (o - 0x4000) % 0x40)
    else none

/-- Whether a physical address maps memory or a register. -/
def mapped (a : Nat) : Bool := memMapped a || (blockAt a).isSome

/-- A flag as a bit. -/
def bitN (b : Bool) (n : Nat) : Nat := if b then 2 ^ n else 0

/-- The fault queue (R343). -/
def readFaultQ (y : Die) (o : Nat) : Nat :=
  match o with
  | 0x00 => y.fqbase.toNat / 4096 * 4096
  | 0x08 => y.fqctl.toNat / 2 ^ 44 % 16 * 2 ^ 44 + y.fqctl.toNat % 16
  | 0x10 => y.fqprod.toNat
  | 0x18 => y.fqcons.toNat
  | _ => 0

/-- The object manager (R402). -/
def readObjMgr (y : Die) (o : Nat) : Nat :=
  match o with
  | 0x00 => y.mobj.toNat / 2 ^ 28 * 2 ^ 28
  | 0x08 => y.mext.toNat / 2 ^ 16 * 2 ^ 16 + y.mext.toNat % 4
  | 0x10 => y.mdst.toNat / 2 ^ 61 * 2 ^ 61 + y.mdst.toNat % 2 ^ 60
  | 0x20 => y.mstat.toNat
  | 0x28 => y.motb.toNat / 4096 * 4096 + y.motb.toNat % 32
  | 0x30 => y.msstk.toNat / 4096 * 4096 + y.msstk.toNat % 64
  | 0x38 => y.msfree.toNat
  | 0x48 => y.mpstk.toNat / 4096 * 4096 + y.mpstk.toNat % 64
  | 0x50 => y.mpfree.toNat
  | 0x60 => y.mpidx.toNat / 4096 * 4096 + y.mpidx.toNat % 32
  | 0x68 => y.mdidx.toNat / 4096 * 4096 + y.mdidx.toNat % 32
  | _ => 0

/-- Free bits of cores lo to lo + n − 1 of a die. -/
def freeBits (y : Die) (lo n : Nat) : Nat :=
  (List.range n).foldl (fun a i => if y.busyCores.contains (lo + i) then a else a + 2 ^ i) 0

/-- The command stream (R415). -/
def readCmdStream (y : Die) (o : Nat) : Nat :=
  if o < 0x100 then
    let p := o / 0x20
    match o % 0x20 with
    | 0x00 => (tblGet (0 : Word) y.csbase p).toNat / 4096 * 4096 + (tblGet (0 : Word) y.csbase p).toNat % 16
    | 0x08 => (tblGet (0 : Word) y.csprod p).toNat
    | 0x10 => (tblGet (0 : Word) y.cscons p).toNat
    | _ => 0
  else if 0x200 ≤ o then (tblGet (0 : Word) y.sv ((o - 0x200) / 8)).toNat
  else
    match o with
    | 0x100 => freeBits y 0 64
    | 0x108 => freeBits y 64 32
    | 0x120 => y.kdpa.toNat % 2 ^ 48 / 64 * 64
    | 0x128 => y.kdn.toNat % 512
    | 0x130 => y.svcyc.toNat
    | _ => 0

/-- The error log (R509). -/
def readErrLog (y : Die) (o : Nat) : Nat :=
  if 0x100 ≤ o then
    let e := tblGet ((0 : Word), (0 : Word)) y.ent ((o - 0x100) / 16)
    (if (o - 0x100) % 16 = 0 then e.1 else e.2).toNat
  else
    match o with
    | 0x00 => y.trans.toNat
    | 0x08 => y.last.toNat
    | 0x10 => y.corr.toNat
    | 0x18 => y.pois.toNat
    | 0x20 => y.lnext.toNat
    | _ => 0

/-- A physical port (R469). -/
def readPort (p : Port) (o : Nat) : Nat :=
  match o with
  | 0x00 => bitN p.en 8 + bitN p.pmerr 7 + p.state
  | 0x08 => p.skew.toNat * 2 ^ 32 + p.lat.toNat
  | 0x10 => p.ppkg.toNat * 2 ^ 52 + p.pport.toNat * 2 ^ 44
  | 0x18 => p.csent.toNat
  | 0x20 => p.cacc.toNat
  | 0x28 => p.crcerr.toNat
  | 0x30 => p.replays.toNat
  | 0x38 => p.rxerr.toNat
  | _ => 0

/-- The jack registers (R506). -/
def readJack (s : State) (o : Nat) : Nat :=
  match o with
  | 0x00 => s.jcyc.toNat
  | 0x08 => bitN s.jearm 2 + bitN s.jdone 1 + bitN s.jarmed 0
  | 0x10 => s.lcyc.toNat
  | _ => 0

/-- Owner class of a zone (R510). -/
def zoneOwner (z : Nat) : Nat := if z ≥ 72 then 3 else if z ≥ 64 then 2 else if z % 16 < 12 then 0 else 1

/-- An entry of the sluice table (R512). -/
def readZone (s : State) (z o : Nat) : Nat :=
  let x := zoneOf s z
  match o with
  | 0x00 => x.state * 2 ^ 61 + zoneOwner z * 2 ^ 59 + x.clamp * 2 ^ 57 + bitN x.leak 56 + x.vpos.toNat * 2 ^ 48 +
      x.dstep * 2 ^ 44 + bitN x.dflt 43 + bitN x.lk 42 + x.granted % 65536 * 65536 + x.tflow
  | 0x08 => x.alloc * 2 ^ 48 + x.minf * 2 ^ 32 + x.ramp * 2 ^ 16
  | 0x10 => x.tolim * 2 ^ 48 + x.tjlim * 2 ^ 32 + x.tjcrit * 2 ^ 16 + x.dtlim
  | 0x18 => x.flolo * 2 ^ 48 + x.pdry * 2 ^ 32
  | 0x20 => x.tin * 2 ^ 48 + x.tout * 2 ^ 32 + x.flow * 2 ^ 16 + x.tj
  | 0x28 => x.press * 2 ^ 48 + x.dcyc.toNat
  | 0x30 => x.tst.toNat
  | _ => if zoneOwner z ≤ 1 then x.vset.toNat else 0

/-- The coolant controller (R513). -/
def readCoolCtl (s : State) (o : Nat) : Nat :=
  if 0x200 ≤ o then (tblGet (0 : Word) s.ctab ((o - 0x200) / 8)).toNat
  else
    match o with
    | 0x00 => 16000
    | 0x08 => s.ccore.toNat % 128
    | 0x18 => bitN s.cerr 0
    | _ => 0

/-- The crypto engine (R526). -/
def readCrypto (x : Secure) (o : Nat) : Nat :=
  match o with
  | 0x00 => x.src.toNat
  | 0x08 => x.len.toNat
  | 0x10 => x.pk.toNat
  | 0x18 => x.sig.toNat
  | 0x20 => x.dst.toNat
  | 0x30 => bitN x.busy 63 + x.res.toNat * 2 ^ 60 + x.seq.toNat
  | _ => 0

/-- The measurement block (R529 to R531): the first byte of a digest is the highest of the value kept. -/
def readMeas (x : Secure) (o : Nat) : Nat :=
  if o < 0x400 then
    if o % 64 < 48 then
      natOfBytes ((beBytes (tblGet (0 : BitVec 384) x.meas (o / 64)).toNat 48).drop (o % 64) |>.take 8)
    else 0
  else
    match o with
    | 0x400 => x.mlock.toNat
    | 0x410 => bitN x.kbusy 63 + x.kres.toNat * 2 ^ 60 + x.kcnt.toNat
    | _ => 0

/-- Eight bytes of a number kept first byte highest, n bytes long, from byte i. -/
def beAt (v n i : Nat) : Nat := natOfBytes ((beBytes v n).drop i |>.take 8)

/-- The fuse block (R533). -/
def readFuses (x : Secure) (o : Nat) : Nat :=
  if o = 0 then x.devid.toNat % 2 ^ 64
  else if o = 8 then x.devid.toNat / 2 ^ 64
  else if o = 0x10 then x.lc.toNat
  else if o = 0x18 then x.lcs.toNat
  else if o = 0x20 then x.thermo.toNat
  else if 0x40 ≤ o ∧ o < 0x70 then beAt x.bked.toNat 48 (o - 0x40)
  else if 0x70 ≤ o ∧ o < 0xA0 then beAt x.bkml.toNat 48 (o - 0x70)
  else if 0xA0 ≤ o ∧ o < 0xD0 then beAt x.dked.toNat 48 (o - 0xA0)
  else if 0xD0 ≤ o ∧ o < 0x100 then beAt x.dkml.toNat 48 (o - 0xD0)
  else if 0x110 ≤ o ∧ o < 0x130 then x.dnonce.toNat / 2 ^ (8 * (o - 0x110)) % 2 ^ 64
  else if o = 0x140 then bitN x.dbgen 0
  else 0

/-- The host port control block (R538, R574). -/
def readHost (x : HostPort) (o : Nat) : Nat :=
  if 0x1000 ≤ o ∧ o < 0x3000 then (tblGet (0 : Word) x.bmap ((o - 0x1000) / 8)).toNat
  else if 0x4000 ≤ o ∧ o < 0x6000 then memRead x.rqbuf (o - 0x4000) 8
  else if 0x6000 ≤ o then memRead x.rspbuf (o - 0x6000) 8
  else
    match o with
    | 0x000 => x.bstat.toNat
    | 0x008 => x.hbase.toNat / 4096 * 4096
    | 0x010 => x.hprod.toNat
    | 0x018 => x.hcons.toNat
    | 0x020 => x.dbase.toNat / 4096 * 4096
    | 0x028 => x.dprod.toNat
    | 0x030 => x.dcons.toNat
    | 0x040 => x.berr.toNat
    | 0x200 => x.rqseq.toNat
    | 0x208 => bitN x.tp 16 + x.rqlen
    | 0x218 => x.rspseq.toNat
    | _ => 0

/-- Whether an entry of the frame table is in a slot software may assign (R445, R449). -/
def frameSlot (o : Nat) : Bool := decide (o / 8 % 2048 % 16 ≠ 0)

/-- The 64-bit word of a register at an aligned offset of a block, for a core of a level (R524). The frame table of a stopped package
reads disabled (R467, R525). -/
def readReg (s : State) (level : Nat) (b : Block) (o : Nat) : Nat :=
  match b with
  | .faultQ d => readFaultQ (dieOf s d) o
  | .objMgr d => readObjMgr (dieOf s d) o
  | .cmdStream d => readCmdStream (dieOf s d) o
  | .snapshot d => (tblGet (0 : Word) (dieOf s d).snap (o / 8)).toNat
  | .errLog d => readErrLog (dieOf s d) o
  | .port p => readPort (portOf s p) o
  | .eto => if o = 0 then s.eto.toNat else 0
  | .portMap => physOf s (o / 8)
  | .jack => readJack s o
  | .coolCtl => readCoolCtl s o
  | .portSnap => (tblGet (0 : Word) s.psnap (o / 8)).toNat
  | .sluice => readZone s (o / 64) (o % 64)
  | .crypto => if level = 3 then readCrypto s.secure o else 0
  | .meas => readMeas s.secure o
  | .fuses => readFuses s.secure o
  | .hostCtl => readHost s.host o
  | .rootScratch => if level = 3 then memRead (coreOf s 448).arch.scratch o 8 else 0
  | .frame =>
    if frameSlot o then (tblGet (0 : Word) s.frame (o / 8) ||| (if s.stopped then 0xC000000000000000#64 else 0)).toNat else 0

/-- n bytes at a physical address, n a multiple of 8, as a core of a level reads them: memory, else registers. -/
def physBytes (s : State) (level a n : Nat) : List Byte :=
  match blockAt a with
  | none => memBytes s.mem a n
  | some _ =>
    (List.range (n / 8)).flatMap fun i =>
      match blockAt (a + 8 * i) with
      | some (b, o) => bytesOf (readReg s level b o) 8
      | none => List.replicate 8 0

end Sys2Proof.Machine
end

