-- ==== Sys2Proof/Machine/Atomic.lean ====
section
/-! DEFINITION. The atomic units (R278, R281 to R284, R371), barriers as waiters observe them (R586, R587), and the stores
and releases that a segment's commit performs (R268, R273, R279). -/

namespace Sys2Proof.Machine

/-! ## Atomic operations -/

/-- The new value of AMO over nb bytes (R278). -/
def amoVal (op : AmoOp) (nb old a b : Nat) : Nat :=
  let w := 8 * nb
  let a := a % 2 ^ w
  match op with
  | .add => (old + a) % 2 ^ w
  | .fadd =>
    let f : FF := if nb = 4 then .fp32 else .fp64
    encodeFlt f exactRnd (Num.add .rne (decodeFlt f false old) (decodeFlt f false a))
  | .min => if intOf true w a < intOf true w old then a else old
  | .max => if intOf true w a > intOf true w old then a else old
  | .minn => min old a
  | .maxn => max old a
  | .xchg => a
  | .cas => if old = b % 2 ^ w then a else old
  | .and => Nat.land old a
  | .or => Nat.lor old a

/-- The four words of a barrier element after BARI (R282). -/
def bariNew (e : List Nat) (n eb : Nat) : List Nat :=
  [e.getD 0 0 / 2 ^ 32 % 2 ^ 31 * 2 ^ 32 + n % 2 ^ 32, e.getD 1 0 / 2 ^ 32 * 2 ^ 32, eb % 2 ^ 64, 0]

/-- The four words after an arrival or a poisoning (R283). -/
def baraNew (e : List Nat) (bytes poison : Bool) (sy : Nat) : List Nat :=
  let w0 := e.getD 0 0
  let w1 := e.getD 1 0
  let ea := w0 % 2 ^ 32
  let eb := e.getD 2 0
  if poison then [w0 % 2 ^ 63 + 2 ^ 63, w1, eb, e.getD 3 0]
  else if w0 / 2 ^ 63 = 1 then e
  else
    let arr := (w1 % 2 ^ 32 + (if bytes then 0 else 1)) % 2 ^ 32
    let ab := (e.getD 3 0 + sy) % 2 ^ 64
    if arr ≥ ea ∧ ab ≥ eb then
      [w0 - w0 / 2 ^ 32 % 2 * 2 ^ 32 + (1 - w0 / 2 ^ 32 % 2) * 2 ^ 32, w1 / 2 ^ 32 * 2 ^ 32, eb, 0]
    else [w0, w1 / 2 ^ 32 * 2 ^ 32 + arr, eb, ab]

/-- What an atomic does: an AMO on nb bytes at an offset, or a barrier step on an element. -/
inductive Atom where
  | amo (op : AmoOp) (nb off a b : Nat)
  | bari (el eb n : Nat)
  | bara (el : Nat) (bytes poison : Bool) (sy : Nat)
  deriving DecidableEq, Repr

/-- First byte and byte count that an atomic reaches. -/
def atomSpan (x : Atom) : Nat × Nat :=
  match x with
  | .amo _ nb off _ _ => (off, nb)
  | .bari el _ _ => (32 * el, 32)
  | .bara el _ _ _ => (32 * el, 32)

/-- Whether the bytes of an atomic lie in the object (R264, R390). -/
def atomInside (o : Obj) (x : Atom) : Bool :=
  let p := atomSpan x
  eIdentity o.e && decide (p.1 + p.2 ≤ eSize o.e)

/-- Remembers word 0 of a barrier element before a change, for the waiters of other dies (R587). -/
def logBarrier (s : State) (key el : Nat) (old : Word) : State :=
  { s with barLog := (s.barLog.filter fun x => decide (s.tick ≤ x.2.2.1 + 66)) ++ [(key, el, s.tick, old)] }

/-- Words of a barrier element as the home die's atomic unit holds them. -/
def elemWords (s : State) (o : Obj) (el : Nat) (ext : Option (Nat × Nat) := none) : Option (List Nat) :=
  match homeRead s o (32 * el) 32 ext with
  | some v => some ((List.range 4).map fun i => v / 2 ^ (64 * i) % 2 ^ 64)
  | none => none

/-- Applies an atomic in the home die's cache (R371); answers the value before it. Where a block reads uncorrectable that value
is free (see the log). ent: the entry, where it came from another package; ext: the extent entry that its resolution read (R395). -/
def applyAtom (s : State) (o : Obj) (ent : List Word) (x : Atom) (ext : Option (Nat × Nat) := none) : State × Nat :=
  let lost (i : Nat) := (Config.word s.tick (o.key + i)).toNat
  match x with
  | .amo op nb off a b =>
    let old := (homeRead s o off nb ext).getD (lost off % 2 ^ (8 * nb))
    (homeWrite s o ent (8 * off) (8 * nb) (amoVal op nb old a b), old)
  | .bari el eb n =>
    let e := (elemWords s o el).getD ((List.range 4).map fun i => lost (32 * el + i))
    let v := bariNew e n eb
    let s := logBarrier s o.key el (BitVec.ofNat 64 (e.getD 0 0))
    ((List.range 4).foldl (fun s i => homeWrite s o ent (256 * el + 64 * i) 64 (v.getD i 0)) s, e.getD 0 0)
  | .bara el bytes poison sy =>
    let e := (elemWords s o el).getD ((List.range 4).map fun i => lost (32 * el + i))
    let v := baraNew e bytes poison sy
    let s := if v.getD 0 0 = e.getD 0 0 then s else logBarrier s o.key el (BitVec.ofNat 64 (e.getD 0 0))
    ((List.range 4).foldl (fun s i => homeWrite s o ent (256 * el + 64 * i) 64 (v.getD i 0)) s, e.getD 0 0)

/-- A list of words for an event to carry, and the words again. -/
def wordsBytes (l : List Word) : List Byte := l.flatMap fun w => bytesOf w.toNat 8

/-- Word i of the bytes of an event. -/
def eventWord (bs : List Byte) (i : Nat) : Word := BitVec.ofNat 64 (natOfBytes (bs.drop (8 * i) |>.take 8))

/-- What a resolved atomic carries to its application (R395): the object's entry and root block, and the extent entry. -/
def resolvedWords (o : Obj) (w : Nat × Nat) : List Word :=
  (List.range 8).map (fun i => o.e.getD i 0) ++ (List.range 12).map (fun i => o.r.getD i 0) ++ [BitVec.ofNat 64 w.1, BitVec.ofNat 64 w.2]

/-- The object that a resolved atomic carries. -/
def carriedObj (key : Nat) (bs : List Byte) : Obj :=
  { key := key, e := (List.range 8).map (eventWord bs), r := (List.range 12).map fun i => eventWord bs (8 + i) }

/-- The extent entry that a resolved atomic carries. -/
def carriedExt (bs : List Byte) : Nat × Nat := ((eventWord bs 20).toNat, (eventWord bs 21).toNat)

/-- The atomic of a request. -/
def reqAtom (r : Req) : Option Atom :=
  match r.op with
  | .amo op w64 _ off a b _ _ => some (.amo op (if w64 then 8 else 4) off.toNat a.toNat b.toNat)
  | .bari el eb n => some (.bari el.toNat eb.toNat n)
  | .bara b p el sy => some (.bara el.toNat b p sy.toNat)
  | _ => none

/-! ### The order of a context's accesses (R359, R360, R364, R373, R381) -/

/-- Bytes of a run of elements, joined to the range before it where it touches that. -/
def joinSpan (w : Nat) (l : List (Int × Int)) (e : Int) : List (Int × Int) :=
  let lo := (e * w).fdiv 8
  let hi := (e * w + w + 7).fdiv 8
  match l with
  | (a, b) :: r => if a ≤ lo ∧ lo ≤ b then (a, max b hi) :: r else (lo, hi) :: l
  | [] => [(lo, hi)]

/-- The byte ranges of an object that elements of w bits stand in. -/
def spansOf (w : Nat) (els : List Int) : List (Int × Int) := els.foldl (joinSpan w) []

/-- Whether two lists of byte ranges share a byte. -/
def spansMeet (a b : List (Int × Int)) : Bool := a.any fun x => b.any fun y => decide (x.1 < y.2) && decide (y.1 < x.2)

/-- The bytes of its object that a request of MEM reaches. -/
def reqSpans (r : Req) : List (Int × Int) :=
  match r.op, reqAtom r with
  | .ldt .., _ => spansOf r.w ((r.elems ++ r.miss).map Prod.snd)
  | .stt _, _ => spansOf r.w (r.elems.map Prod.snd)
  | .pfxlook _ _ hs pos, _ => [(65536 * (pos.toNat : Int), 65536 * ((pos.toNat + hs.length : Nat) : Int))]
  | _, some x => [((atomSpan x).1, ((atomSpan x).1 + (atomSpan x).2 : Nat))]
  | _, none => []

/-- Whether a request writes its bytes. -/
def reqWrites (r : Req) : Bool := (match r.op with | .stt _ => true | _ => false) || (reqAtom r).isSome

/-- Whether a load names a step: it may wait for another context, and none waits for it. -/
def stepRead (r : Req) : Bool := decide (stepWord r ≠ 0)

/-- Whether a request q stands before r in one context: issued earlier by the same occupant of a core (R360), and not on behalf of an
engine. -/
def sameContext (s : State) (q r : Req) : Bool :=
  let b := (coreOf s r.core).born
  q.eng.isNone && r.eng.isNone && decide (q.id < r.id) && decide (q.core = r.core) && (decide (b ≤ q.id) == decide (b ≤ r.id))

/-- Whether an earlier request of the context that f picks shares a byte with r and has neither performed nor been sent: r comes after
it (R360, R373, R381). -/
def pathAhead (s : State) (r : Req) (f : Req → Bool) : Bool :=
  let l := s.reqs.filter fun q => sameContext s q r && decide (q.handle.toNat / 2 ^ 28 = r.handle.toNat / 2 ^ 28) && f q
  !l.isEmpty && (let b := reqSpans r; l.any fun q => spansMeet (reqSpans q) b)

/-- A request that has not been sent, landed or ended. -/
def unsent (q : Req) : Bool :=
  match q.st with
  | .remote => false
  | .landing => false
  | .resolvedDetached => false
  | .abortedDetached => false
  | _ => true

/-- What a local access waits for: an earlier write of its bytes by its context that has not performed. -/
def writeAhead (s : State) (r : Req) : Bool := pathAhead s r fun q => reqWrites q && unsent q

/-- What a request to another package waits for: an earlier one for its bytes that is still to be sent; for a read, a write that is
still to be answered too, since reads are answered in the order they are sent (see the log). -/
def sendAhead (s : State) (r : Req) : Bool :=
  pathAhead s r fun q => (unsent q && !(stepRead q)) || (reqWrites q && !(reqWrites r) && decide (q.st = .remote))

/-- Whether a store or a release of the context that came first is still to be performed here, or to be sent (R268, R359). -/
def heldAhead (s : State) (r : Req) : Bool :=
  s.reqs.any fun q => sameContext s q r && unsent q && (match q.op with | .stt _ => true | .relv .. => true | _ => false)

/-- Whether a release of the core is still to be applied (R364), or, for a release, a store of its segment. -/
def releaseAhead (s : State) (r : Req) : Bool :=
  s.reqs.any fun q => sameContext s q r &&
    (match q.op with
      | .relv .. => decide (q.st ≠ .held)
      | .stt _ => (match r.op with | .relv .. => true | _ => false) && decide (q.st ≠ .held)
      | _ => false)

/-- Looks at a request again in the next cycle. -/
def again (s : State) (r : Req) : State := resolveAt s (s.tick + 1) r.id

/-- The clean copies of the blocks that an atomic reaches leave the issuing die's cache: its context reads no older value (R360). -/
def dropStale (s : State) (d : Nat) (o : Obj) (x : Atom) : State :=
  ((List.range ((atomSpan x).2 / 4)).map fun i => blockOf o (8 * (atomSpan x).1 + 32 * i)).eraseDups.foldl (fun s a =>
    match lineOf s d o.key a.1 a.2 with
    | some l => if d = homeDie o a.1 then s else putLine s d { l with full := false }
    | none => s) s

/-- Resolution of an atomic request (R264, R278, R282, R283). -/
def resolveAtomic (s : State) (r : Req) (x : Atom) : State :=
  let b := (atomSpan x).1
  if releaseAhead s r then again s r
  else
    match resolve s r.die r.dom.toNat r.handle 2 with
    | .fault c => lateFault s r c (BitVec.ofNat 64 b)
    | .deferred => parkReq s r 0 b
    | .remote p ent => if sendAhead s r then again s r else sendRemote s r p ent
    | .ok o _ =>
      let s := noteEntry s r.die (hIndex r.handle)
      if writeAhead s r then again s r
      else if !(atomInside o x) then lateFault s r 25 (BitVec.ofNat 64 b)
      else
        match extChk s r.die r.dom.toNat o true 8 [(b : Int)] (reqRing r) with
        | .rights c => lateFault s r 23 (BitVec.ofNat 64 c)
        | .deferred c => parkReq s r 0 c
        | .moving => reqSet s { r with st := .waitMv }
        | .ok =>
          let q := elemExt o 8 b
          post (reqSet s { r with st := .atUnit }) (later s 1 r.id) .atomicApply
            { Ev.none with id := r.id, bytes := wordsBytes (resolvedWords o (extEntry s r.die o q.1 q.2 (reqRing r))) }

/-- ATOMIC_APPLY (R284, R371): the atomic unit applies one update; an AMO's old value goes to its report word. -/
def execAtomicApply (s : State) : Host.Outcome State Fault Refusal :=
  match reqFind s s.ev.id with
  | none => .next s
  | some r =>
    match reqAtom r with
    | some x =>
      let o := carriedObj (r.handle.toNat / 2 ^ 28) s.ev.bytes
      let y := applyAtom s o [] x (some (carriedExt s.ev.bytes))
      let y := (dropStale y.1 r.die o x, y.2)
      match r.op with
      | .amo _ _ nr _ _ _ t w =>
        if nr then .next (reqDel y.1 r.id)
        else
          let b := tBase (tileOf (coreOf y.1 r.core) t.toNat).ctl + 8 * w
          .next (post (reqDel y.1 r.id) (later s 1 r.id) .reportLands
            { Ev.none with core := r.core, id := r.id, tile := t, n := w / 64, w := BitVec.ofNat 64 b, bytes := bytesOf y.2 8 })
      | _ =>
        match r.eng with
        | some e => .next (engOver y.1 r e none 0)
        | none => .next (reqDel y.1 r.id)
    | none => .next s

/-! ## Waits on barriers (R176, R249, R586, R587) -/

/-- What a waiter on an element finds. -/
inductive BarSt where
  | flipped
  | waits
  | poisoned
  | fault (cause : Nat)
  | deferred
  | remote (pkg : Nat) (ent : List Word)
  deriving DecidableEq, Repr

/-- Word 0 as a die observed it n cycles ago (R587): the home die from the cycle after the change, another within 64 cycles
of it. -/
def observed (s : State) (d home key el : Nat) (now : Word) (n : Nat) : Word :=
  match s.barLog.find? fun x =>
      x.1 = key && x.2.1 = el &&
        s.tick < x.2.2.1 + 1 + n + (if d = home then 0 else Config.delay x.2.2.1 (64 * d + el) % 64) with
  | some x => x.2.2.2
  | none => now

/-- The barrier checks and what die d observes (R586, R587): the phase as of the cycle before, so that a waiter is released no
earlier than the cycle after it observes (R93), the poison as of n cycles ago. -/
def barrierAt (s : State) (d dom : Nat) (h : Word) (el : Nat) (ph : Bool) (n : Nat) : BarSt :=
  match resolve s d dom h 0 with
  | .fault c => .fault c
  | .deferred => .deferred
  | .remote p ent => .remote p ent
  | .ok o _ =>
    if !(eIdentity o.e) || decide (32 * el + 32 > eSize o.e) then .fault 25
    else
      match extChk s d dom o false 8 [((32 * el : Nat) : Int)] with
      | .rights _ => .fault 23
      | .deferred _ => .deferred
      | _ =>
        match elemWords s o el with
        | none => .waits
        | some e =>
          let w (n : Nat) := observed s d (homeDie o (blockOf o (256 * el)).1) o.key el (BitVec.ofNat 64 (e.getD 0 0)) n
          if (w n).getLsbD 63 then .poisoned else if (w 1).getLsbD 32 = ph then .waits else .flipped

/-! ## Stores and releases (R273, R279, R588) -/

/-- A store performs (R359): every element's code in the issuing die's cache. -/
def performStt (s : State) (r : Req) (o : Obj) (ent : List Word) : State :=
  r.elems.foldl (fun s e =>
    match elemBit o r.w e.2, r.data.find? fun x => x.1 = e.1 with
    | some b, some x => writeBits s r.die o ent b r.w x.2.toNat
    | _, _ => s) s

/-- The store is over. -/
def sttDone (s : State) (r : Req) : State := reqDel s r.id

/-- Resolution of a store (R273, R588, R401): at its segment's commit, in program order (R359); while it is held the unit already
looks at what it needs, so that it faults or parks in its own segment (see the log). -/
def resolveStt (s : State) (r : Req) : State :=
  let held := decide (r.st = .held)
  if s.tick < r.ready then resolveAt s r.ready r.id
  else if !held && heldAhead s r then again s r
  else
    match resolve s r.die r.dom.toNat r.handle 1 with
    | .fault c => lateFault s r c (BitVec.ofNat 64 (firstByte r))
    | .deferred => parkReq s r 0 (firstByte r)
    | .remote p ent =>
      if held then s
      else if sendAhead s r then again s r
      else sendRemote (dropClean s r.die (r.handle.toNat / 2 ^ 28)) r p ent
    | .ok o ent =>
      let s := noteEntry s r.die (hIndex r.handle)
      match r.elems.find? fun e => (elemBit o r.w e.2).isNone with
      | some e => lateFault s r 25 (BitVec.ofNat 64 (e.2.toNat * r.w / 8))
      | none =>
        match extChk s r.die r.dom.toNat o true r.w (r.elems.map Prod.snd) (reqRing r) with
        | .rights b => lateFault s r 23 (BitVec.ofNat 64 b)
        | .deferred b => parkReq s r 0 b
        | .moving => if held then s else reqSet s { r with st := .waitMv }
        | .ok => if held then s else if writeAhead s r then again s r else sttDone (performStt s r o ent) r

/-- Resolution of a release at its segment's commit (R279, R363). -/
def resolveRelv (s : State) (r : Req) (sc : Scope) (v : Word) : State :=
  if releaseAhead s r then resolveAt s (s.tick + 1) r.id
  else
    let key := r.handle.toNat / 2 ^ 28
    match resolve s r.die r.dom.toNat r.handle 1 with
    | .fault c => lateFault s r c 0
    | .deferred => parkReq s r 0 0
    | .remote p ent =>
      let s := applyRelease s r.die key sc v
      if sc = .system ∧ !(homedHere s key) then sendRemote s r p ent else reqDel s r.id
    | .ok _ _ => reqDel (applyRelease s r.die key sc v) r.id

/-- Resolution of an acquire (R280, R365): it waits at the view it reads. -/
def resolveAcqv (s : State) (r : Req) (sc : Scope) : State :=
  let key := r.handle.toNat / 2 ^ 28
  match resolve s r.die r.dom.toNat r.handle 0 with
  | .fault c => lateFault s r c 0
  | .deferred => parkReq s r 0 0
  | .remote p ent =>
    if sc = .system ∧ !(homedHere s key) then sendRemote s r p ent
    else wakeAcquires (reqSet s { r with st := .atUnit }) key
  | .ok _ _ => wakeAcquires (reqSet s { r with st := .atUnit }) key

/-- The step-tagged test of a load (R483), then the load. -/
def stepLoad (s : State) (r : Req) (spec : Bool) (t : BitVec 6) (st : Nat) (flt : Bool) (o : Obj) (ent : List Word) : State :=
  let els := r.elems.map Prod.snd
  match r.elems.find? fun e => (elemBit o r.w e.2).isNone with
  | some e => loadFault s r spec 25 (BitVec.ofNat 64 (e.2.toNat * r.w / 8))
  | none =>
    let at_ := BitVec.ofNat 64 (firstByte r)
    match extChk s r.die r.dom.toNat o false r.w els (reqRing r) with
    | .rights b => loadFault s r spec 23 (BitVec.ofNat 64 b)
    | .deferred b => if spec then poisonAll s r (max r.ready (s.tick + 1) + Config.delay s.tick r.id) else parkReq s r 0 b
    | _ =>
      match stepTest s o els st with
      | .bad => loadFault s r spec 24 at_
      | .bound => loadFault s r spec 25 at_
      | .stale => loadFault s r spec 26 at_
      | .wait _ _ =>
        if flt then loadFault s r spec 26 at_
        else if (coreOf s r.core).stopS then parkReq s r 26 (firstByte r)
        else reqSet s { r with st := .stepWait }
      | .read a b g counts =>
        let r := if counts then { r with rdAt := some (a, b) } else r
        let s := if counts then bumpRd s a b true else s
        loadFrom (reqSet s r) r spec t o ent (stepElem g b)

/-- Resolution of a load (R271, R272, R483). -/
def resolveLdt (s : State) (r : Req) (spec : Bool) (step : Option (Word32 × Bool)) (t : BitVec 6) : State :=
  if !(reqLive s r) then endLoad s r
  else
    let at_ := BitVec.ofNat 64 (firstByte r)
    match resolve s r.die r.dom.toNat r.handle 0 with
    | .fault c => loadFault s r spec c at_
    | .deferred =>
      if spec then poisonAll s r (max r.ready (s.tick + 1) + Config.delay s.tick r.id) else parkReq s r 0 (firstByte r)
    | .remote p ent => if sendAhead s r then again s r else sendRemote s r p ent
    | .ok o ent =>
      let s := noteEntry s r.die (hIndex r.handle)
      if writeAhead s r then again s r
      else
        match step with
        | none => loadFrom s r spec t o ent id
        | some (st, flt) => if eHas o.e 2 then stepLoad s r spec t st.toNat flt o ent else loadFault s r spec 24 at_

/-- Resolution of a PFT (R274): the die keeps translations and copies; nothing else changes and nothing faults. -/
def resolvePft (s : State) (r : Req) : State :=
  match resolve s r.die r.dom.toNat r.handle 0 with
  | .ok o ent =>
    let s := noteEntry s r.die (hIndex r.handle)
    reqDel (readBlocks s r.die o ent (elemBlocks o r.w (r.elems.map Prod.snd)) (reqRing r)).1 r.id
  | _ => reqDel s r.id

/-- STEP_LOAD_RETEST (R483): a load whose bank was not current is tested again. -/
def execStepLoadRetest (s : State) : Host.Outcome State Fault Refusal :=
  match reqFind s s.ev.id with
  | none => .next s
  | some r =>
    match r.op, r.st with
    | .ldt spec step t, .stepWait => .next (resolveLdt s r spec step t)
    | _, _ => .next s

/-- After a change of a state record, loads that wait on it are tested again, and parked ones resume in the next cycle
(R483, R485). -/
def recordChanged (s : State) : State :=
  s.reqs.foldl (fun s r =>
    match r.op, r.st with
    | .ldt _ (some _) _, .stepWait => post s s.tick .stepLoadRetest { Ev.none with id := r.id }
    | .ldt _ (some (st, _)) _, .parked tok =>
      match resolve s r.die r.dom.toNat r.handle 0 with
      | .ok o _ =>
        match stepTest s o (r.elems.map Prod.snd) st.toNat with
        | .wait _ _ => s
        | _ => post s (s.tick + 1) .fqresume { Ev.none with w := tok }
      | _ => s
    | _, _ => s) s

end Sys2Proof.Machine
end

