-- ==== Sys2Proof/Machine/MemSlot.lean ====
section
/-! DEFINITION. The MEM slot (chapter 07): tile transfers, CHKP, atomics, versions, barriers, job cards, core queues, the
ring, PFXLOOK. An instruction here makes a request; what the handle unit and the engines do of it is elsewhere. -/

namespace Sys2Proof.Machine

/-! ## Handles and generators -/

/-- The check of a handle at issue (R40, R264): index 0, or a right that its subset lacks. -/
def handleChk (h : Word) (right : Nat) : Chk :=
  faultIf (decide (hIndex h = 0) || decide (hRights h / 2 ^ right % 2 = 0)) 23 (handleInfo h) 0

/-- A generator as MEM reads it (R41), its base and phase adjusted (R266). -/
structure Gen where
  base : Int
  phase : Nat
  w1 : Word
  dims : List (Nat × Int)
  deriving DecidableEq, Repr

/-- Generator g of the acting stream with base + sx and phase + sy; the sum of the phase does not wrap before it is taken modulo the
extent (DEDUCED, see the log). -/
def genOf (s : State) (g : BitVec 3) (sx sy : Word) : Gen :=
  let w1 := readG s g 1
  let dims := (List.range 6).map fun d =>
    let w := readG s g (2 + d)
    (w.toNat % 2 ^ 32, (BitVec.ofNat 32 (w.toNat / 2 ^ 32)).toInt)
  let md := gMod w1
  let ext := (dims.getD md (1, 0)).1
  { base := (readG s g 0 + sx).toInt, phase := if md = 7 then 0 else (gPhase w1 + sy.toNat) % max 1 ext, w1 := w1, dims := dims }

/-- Positions the generator yields: the product of its extents. -/
def genCount (g : Gen) : Nat := (g.dims.take (gNd g.w1)).foldl (fun a d => a * d.1) 1

/-- Counter d of position p. -/
def genCtr (g : Gen) (p d : Nat) : Nat :=
  p / (g.dims.take d).foldl (fun a x => a * x.1) 1 % max 1 (g.dims.getD d (1, 0)).1

/-- off(p) (R42). -/
def genOff (m : Mem) (g : Gen) (p : Nat) : Int :=
  (List.range (gNd g.w1)).foldl (fun a d =>
    let x := g.dims.getD d (1, 0)
    let k := genCtr g p d
    let k := if d = gMod g.w1 then (k + g.phase) % max 1 x.1 else k
    let k := if d = gInd g.w1 then memRead m (gItb g.w1 + 4 * genCtr g p d) 4 else k
    a + k * x.2) g.base

/-- The highest counter that n positions use in the indirect dimension. -/
def genTop (g : Gen) (n : Nat) : Nat :=
  (List.range n).foldl (fun a p => max a (genCtr g p (gInd g.w1))) 0

/-- The checks on a generator that is to yield n positions (R43, R266, R42). -/
def genChk (s : State) (gg : BitVec 3) (g : Gen) (n : Nat) : Chk :=
  (faultIf (decide (gNd g.w1 = 0) || decide (genCount g < n)) 11 (BitVec.ofNat 64 gg.toNat) 0).and
    (if gInd g.w1 = 7 then .ok
     else
       let a := gItb g.w1 + 4 * genTop g n
       faultIf (decide (a + 4 > scratchSize s.cur.core)) 13 (BitVec.ofNat 64 a) 0)

/-- Positions a tile asks of a generator. -/
def tilePos (ctl : Word) (tr : Bool) : Nat := if tr then tCols ctl else tRows ctl

/-- The places and elements of a tile transfer (R266): the bit address in the scratchpad of each element of the tile, and
the element it corresponds to. -/
def tileElems (m : Mem) (ctl : Word) (g : Gen) (tr : Bool) (cst : Nat) : List (Nat × Int) :=
  let w := (fmtNty (tFmt ctl)).width
  (List.range (tRows ctl)).flatMap fun i =>
    let row := if tr then 0 else genOff m g i
    (List.range (tCols ctl)).map fun j =>
      (8 * (tBase ctl + i * tRowBytes ctl) + j * w,
        if tr then genOff m g j + i * 2 ^ cst else row + j * 2 ^ cst)

/-- Width of a tile's elements. -/
def tWidth (ctl : Word) : Nat := (fmtNty (tFmt ctl)).width

/-- The generator of a tile operand. -/
def opGen (s : State) (o : TileOp) (step : Bool) : Gen :=
  genOf s o.gg (readS s o.sx) (if step then 0 else readS s o.sy)

/-- The elements of a tile operand. -/
def opElems (s : State) (o : TileOp) (step : Bool) : List (Nat × Int) :=
  tileElems (cc s).arch.scratch (ctlOf s o.td) (opGen s o step) o.tr o.cst.toNat

/-- The byte range that bounds byte ranges. -/
def boundSpan (l : List (Int × Int)) : List (Int × Int) :=
  match l with
  | [] => []
  | x :: r => [r.foldl (fun a y => (min a.1 y.1, max a.2 y.2)) x]

/-- Whether a read of byte ranges of an object overlaps the bounding byte range of a store held in the open segment (R361). -/
def overlapsHeld (s : State) (key : Nat) (spans : List (Int × Int)) : Bool :=
  (cc s).heldStt.any fun id =>
    match reqFind s id with
    | some r =>
      (match r.op with | .stt _ => true | _ => false) && decide (r.handle.toNat / 2 ^ 28 = key) &&
        spansMeet spans (boundSpan (reqSpans r))
    | none => false

/-- The issue checks of a tile transfer: handle, generator. -/
def xferChk (s : State) (o : TileOp) (right : Nat) (step : Bool) : Chk :=
  (handleChk (readH s o.hh) right).and (genChk s o.gg (opGen s o step) (tilePos (ctlOf s o.td) o.tr))

/-- The descriptor rules of R35 on a tile that a load arms. -/
def armChk (s : State) (t : BitVec 6) : Chk := (descIf (descBad s.cur.core (ctlOf s t)) t).and (busyChk s t)

/-! ## LDT, LDTS, STT, PFT (R271 to R274) -/

/-- The checks of LDT and LDTS. A read that overlaps a held store waits for the segment to end (R361). -/
def chkLoad (s : State) (spec step : Bool) (o : TileOp) : Chk :=
  let h := readH s o.hh
  let k := if spec then (genChk s o.gg (opGen s o step) (tilePos (ctlOf s o.td) o.tr)) else xferChk s o 0 step
  k.and ((armChk s o.td).and
    (waitIf (overlapsHeld s (h.toNat / 2 ^ 28) (spansOf (tWidth (ctlOf s o.td)) ((opElems s o step).map Prod.snd)))))

/-- A load: td is armed, the request goes to the handle unit. LDTS whose handle fails at issue poisons (R272). -/
def startLoad (s : State) (spec step flt : Bool) (o : TileOp) : State :=
  let h := readH s o.hh
  let st := if step then some ((readS s o.sy).extractLsb' 0 32, flt) else none
  let r := newReq s h (.ldt spec st o.td) (tWidth (ctlOf s o.td)) (opElems s o step) .issued
  let s := armTile s o.td (.request r.id) none
  let s := reqAdd s r
  if spec ∧ handleChk h 0 ≠ .ok then
    let ks := chunkList (ctlOf s o.td)
    ks.foldl (fun s k => post s (r.ready + Config.delay s.tick r.id) .tileChunkLands
      { Ev.none with core := r.core, id := r.id, tile := o.td, n := k, flag := true })
      (reqSet s { r with elems := [], left := ks, st := .landing })
  else resolveAt s (later s 1 r.id) r.id

/-- The checks of LDT. -/
def chkLdt (step _flt : Bool) (o : TileOp) (s : State) : Chk := chkLoad s false step o
/-- LDT (R271). -/
def execLdt (step flt : Bool) (o : TileOp) (s : State) : Host.Outcome State Fault Refusal :=
  perform s (chkLdt step flt o s) fun s => startLoad s false step flt o

/-- The checks of LDTS. -/
def chkLdts (step _flt : Bool) (o : TileOp) (s : State) : Chk := chkLoad s true step o
/-- LDTS (R272). -/
def execLdts (step flt : Bool) (o : TileOp) (s : State) : Host.Outcome State Fault Refusal :=
  perform s (chkLdts step flt o s) fun s => startLoad s true step flt o

/-- The checks of STT (R273). -/
def chkStt (o : TileOp) (s : State) : Chk :=
  let m := tMask (tileOf (cc s) o.td.toNat)
  (xferChk s o 1 false).and ((readyChk s o.td m).and (poisonChk s o.td m))

/-- Pieces of 2,048 bytes of a tile: low and high byte of piece i. -/
def pieces (size : Nat) : List (Nat × Nat) :=
  (List.range ((size + 2047) / 2048)).map fun i => (2048 * i, min size (2048 * i + 2048))

/-- STT (R273): sampled from c + 2, held until its segment commits (R268); the unit looks at what it needs behind the last sample (see
the log). -/
def execStt (o : TileOp) (s : State) : Host.Outcome State Fault Refusal :=
  perform s (chkStt o s) fun s =>
    let ctl := ctlOf s o.td
    let ps := pieces (tSize ctl)
    let r := { newReq s (readH s o.hh) (.stt o.td) (tWidth ctl) (opElems s o false) .held with ready := s.tick + 2 + ps.length }
    let s := reqAdd (markRead s o.td) r
    let s := updCur s fun c => { c with heldStt := c.heldStt ++ [r.id] }
    let s := (List.range ps.length).foldl (fun s i =>
      let p := ps.getD i (0, 0)
      addSample s (2 + i) (2 + i) (.sttRow r.id (tBase ctl + p.1) (tBase ctl + p.2))) s
    resolveAt s (r.ready + Config.delay s.tick r.id) r.id

/-- The checks of PFT (R274). -/
def chkPft (o : TileOp) (s : State) : Chk := xferChk s o 0 false
/-- PFT (R274). -/
def execPft (o : TileOp) (s : State) : Host.Outcome State Fault Refusal :=
  perform s (chkPft o s) fun s =>
    let r := newReq s (readH s o.hh) .pft (tWidth (ctlOf s o.td)) (opElems s o false) .issued
    resolveAt (reqAdd s r) (later s 1 r.id) r.id

/-! ## TMOV and CHKP (R275, R276) -/

/-- Row offsets of a TMOV in bits. -/
def tmovRows (s : State) (td sx sy : BitVec 6) (gg : BitVec 3) : List Int :=
  let ctl := ctlOf s td
  let g := genOf s gg (readS s sx) (readS s sy)
  (List.range (tRows ctl)).map fun i => genOff (cc s).arch.scratch g i * tWidth ctl

/-- R150's checks on one row of rb bytes at a bit offset; offsets below 0 lie past the end, as N64. -/
def tmovRowChk (s : State) (rb : Nat) (bit : Int) : Chk :=
  let a := BitVec.ofInt 64 (bit.fdiv 8)
  (faultIf (decide (bit.emod 8 ≠ 0)) 12 a 0).and (faultIf (decide (a.toNat + rb > scratchSize s.cur.core)) 13 a 0)

/-- R150's checks on every row. -/
def rowsChk (s : State) (rb : Nat) (l : List Int) : Chk :=
  match l with
  | [] => .ok
  | x :: r => (tmovRowChk s rb x).and (rowsChk s rb r)

/-- The checks that both TMOVs make on their rows. -/
def tmovChk (s : State) (td sx sy : BitVec 6) (gg : BitVec 3) : Chk :=
  let ctl := ctlOf s td
  (genChk s gg (genOf s gg (readS s sx) (readS s sy)) (tRows ctl)).and (rowsChk s (tRowBytes ctl) (tmovRows s td sx sy gg))

/-- The transfer in pieces of 2,048 bytes. -/
def startTmov (s : State) (out : Bool) (d : Nat) (td : BitVec 6) (rows : List Int) : State :=
  let ctl := ctlOf s td
  let ps := pieces (tSize ctl)
  (List.range ps.length).foldl (fun s i =>
    let p := ps.getD i (0, 0)
    addSample s (d + i) (d + i) (.tmov out td.toNat ctl p.1 p.2 (rows.map fun x => (x / 8).toNat))) s

/-- The checks of TMOV.in. -/
def chkTmovIn (td sx sy : BitVec 6) (gg : BitVec 3) (s : State) : Chk :=
  (tmovChk s td sx sy gg).and (armChk s td)
/-- TMOV.in (R275). -/
def execTmovIn (td sx sy : BitVec 6) (gg : BitVec 3) (s : State) : Host.Outcome State Fault Refusal :=
  perform s (chkTmovIn td sx sy gg s) fun s =>
    let rows := tmovRows s td sx sy gg
    startTmov (armTile s td .tmov none) false 3 td rows

/-- The checks of TMOV.out. -/
def chkTmovOut (td sx sy : BitVec 6) (gg : BitVec 3) (s : State) : Chk :=
  let m := tMask (tileOf (cc s) td.toNat)
  (readyChk s td m).and ((tmovChk s td sx sy gg).and (poisonChk s td m))
/-- TMOV.out (R275). -/
def execTmovOut (td sx sy : BitVec 6) (gg : BitVec 3) (s : State) : Host.Outcome State Fault Refusal :=
  perform s (chkTmovOut td sx sy gg s) fun s =>
    let rows := tmovRows s td sx sy gg
    startTmov (markRead s td) true 5 td rows

/-- The mask of a CHKP. -/
def chkpMask (s : State) (sx sy : BitVec 6) : BitVec 128 := readS s sy ++ readS s sx

/-- The ready test of CHKP; a mask of zero completes at issue and reads nothing. -/
def chkpReady (s : State) (td sx sy : BitVec 6) : Chk :=
  let m := chkpMask s sx sy
  if m = 0 then .ok else readyChk s td m

/-- The checks of CHKP.t. -/
def chkChkpT (td sx sy : BitVec 6) (s : State) : Chk := (chkpReady s td sx sy).and (poisonChk s td (chkpMask s sx sy))
/-- CHKP.t (R276). -/
def execChkpT (td sx sy : BitVec 6) (s : State) : Host.Outcome State Fault Refusal :=
  perform s (chkChkpT td sx sy s) fun s => if chkpMask s sx sy = 0 then s else markRead s td

/-- The checks of CHKP.q. -/
def chkChkpQ (td sx sy : BitVec 6) (off8 : BitVec 18) (s : State) : Chk :=
  (faultIf (decide (8 * off8.toNat + 16 > scratchSize s.cur.core)) 13 (BitVec.ofNat 64 (8 * off8.toNat)) 0).and
    (chkpReady s td sx sy)
/-- CHKP.q (R276). -/
def execChkpQ (td sx sy : BitVec 6) (off8 : BitVec 18) (s : State) : Host.Outcome State Fault Refusal :=
  perform s (chkChkpQ td sx sy off8 s) fun s =>
    let m := chkpMask s sx sy
    let p := (tileOf (cc s) td.toNat).pois &&& m
    addStore (if m = 0 then s else markRead s td) 5 slotGroup (.bytes (8 * off8.toNat) (bytesOf p.toNat 16))

/-! ## Atomics, versions, barriers (R278 to R283) -/

/-- A request that leaves the core when its segment commits (R268). -/
def leave (s : State) (r : Req) : State :=
  updCur (reqAdd s r) fun c => { c with leaving := c.leaving ++ [.request r.id] }

/-- The checks of AMO. -/
def chkAmo (_op : AmoOp) (w64 nr : Bool) (hh : BitVec 5) (sx _sy tile : BitVec 6) (word : BitVec 12) (s : State) : Chk :=
  let h := readH s hh
  (gangChk s).and <| (handleChk h 2).and ((faultIf (decide ((readS s sx).toNat % (if w64 then 8 else 4) ≠ 0)) 27 (handleInfo h) (readS s sx)).and
    (if nr then .ok
     else (descIf (decide (8 * word.toNat + 8 > tSize (ctlOf s tile))) tile).and (reportChk s tile (word.toNat / 64))))

/-- AMO (R278). -/
def execAmo (op : AmoOp) (w64 nr : Bool) (hh : BitVec 5) (sx sy tile : BitVec 6) (word : BitVec 12) (s : State) :
    Host.Outcome State Fault Refusal :=
  perform s (chkAmo op w64 nr hh sx sy tile word s) fun s =>
    let r := newReq s (readH s hh)
      (.amo op w64 nr (readS s sx) (readS s sy) (if op = .cas then readS s (sy + 1) else 0) tile word.toNat) 8 [] .held
    leave (if nr then s else reportStart s tile (word.toNat / 64)) r

/-- The checks of RELV. -/
def chkRelv (_sc : Scope) (hh : BitVec 5) (_sy : BitVec 6) (s : State) : Chk := handleChk (readH s hh) 1
/-- RELV (R279): the version record is held in the segment (R268). -/
def execRelv (sc : Scope) (hh : BitVec 5) (sy : BitVec 6) (s : State) : Host.Outcome State Fault Refusal :=
  perform s (chkRelv sc hh sy s) fun s =>
    let v := BitVec.ofNat 64 ((readS s sy).toNat % 2 ^ 48)
    let r := newReq s (readH s hh) (.relv sc v) 8 [] .held
    updCur (reqAdd s r) fun c => { c with heldStt := c.heldStt ++ [r.id] }

/-- The checks of ACQV. -/
def chkAcqv (_sc : Scope) (hh : BitVec 5) (_sy tile : BitVec 6) (k : BitVec 7) (s : State) : Chk :=
  (handleChk (readH s hh) 0).and (reportChk s tile k.toNat)
/-- ACQV (R280). -/
def execAcqv (sc : Scope) (hh : BitVec 5) (sy tile : BitVec 6) (k : BitVec 7) (s : State) : Host.Outcome State Fault Refusal :=
  perform s (chkAcqv sc hh sy tile k s) fun s =>
    let v := BitVec.ofNat 64 ((readS s sy).toNat % 2 ^ 48)
    let r := newReq s (readH s hh) (.acqv sc v tile k.toNat) 8 [] .issued
    resolveAt (reqAdd (reportStart s tile k.toNat) r) (later s 1 r.id) r.id

/-- The check of BARI and BARA. -/
def chkBari (hh : BitVec 5) (_sx _sy : BitVec 6) (_n : BitVec 17) (s : State) : Chk := (gangChk s).and (handleChk (readH s hh) 2)
/-- BARI (R282). -/
def execBari (hh : BitVec 5) (sx sy : BitVec 6) (n : BitVec 17) (s : State) : Host.Outcome State Fault Refusal :=
  perform s (chkBari hh sx sy n s) fun s =>
    leave s (newReq s (readH s hh) (.bari (readS s sx) (readS s sy) n.toNat) 8 [] .held)

/-- The check of BARA. -/
def chkBara (_bytes _poison : Bool) (hh : BitVec 5) (_sx _sy : BitVec 6) (s : State) : Chk := (gangChk s).and (handleChk (readH s hh) 2)
/-- BARA (R283). -/
def execBara (bytes poison : Bool) (hh : BitVec 5) (sx sy : BitVec 6) (s : State) : Host.Outcome State Fault Refusal :=
  perform s (chkBara bytes poison hh sx sy s) fun s =>
    leave s (newReq s (readH s hh) (.bara bytes poison (readS s sx) (readS s sy)) 8 [] .held)

/-! ## Queues (R296 to R298) -/

/-- Queue q of a core. -/
def queueOf (c : Core) (q : Nat) : List QEntry := tblGet ([] : List QEntry) c.inq q

/-- Positions of a queue that are held in a cycle: entries, reservations, and those a QGET of this cycle removed. -/
def queueUsed (c : Core) (q now : Nat) : Nat :=
  ((queueOf c q).filter fun e => decide (e.taken = none) || decide (e.taken = some now)).length

/-- Whether core t of a die runs a context of the issuing core's launch. -/
def sameLaunch (s : State) (t : Nat) : Bool :=
  let c := coreOf s t
  decide (c.run = .running) && (cc s).launch.isSome && decide (c.launch = (cc s).launch)

/-- The key of core n of the acting core's die. -/
def onDie (s : State) (n : Nat) : Nat := 96 * coreDie s.cur.core + n

/-- The checks of QPUT (R296). -/
def chkQput (sx _sy : BitVec 6) (q : BitVec 3) (s : State) : Chk :=
  let n := (readS s sx).toNat
  let t := onDie s n
  (gangChk s).and <| (faultIf (decide (n > 95) || !(sameLaunch s t)) 29 (readS s sx) 0).and
    (waitIf (decide (queueUsed (coreOf s t) q.toNat s.tick ≥ 16)))

/-- QPUT (R296): reserves a position; the entry leaves when the segment commits. -/
def execQput (sx sy : BitVec 6) (q : BitVec 3) (s : State) : Host.Outcome State Fault Refusal :=
  perform s (chkQput sx sy q s) fun s =>
    let t := onDie s (readS s sx).toNat
    let id := s.nextId
    let v := readS s sy
    let s := { s with nextId := id + 1 }
    let s := updCore s t fun c =>
      let l := (queueOf c q.toNat).filter fun e => decide (e.taken = none) || decide (e.taken = some s.tick)
      { c with inq := tblPut c.inq q.toNat (l ++ [{ ticket := id, value := none, landed := 0, taken := none }]) }
    updCur s fun c => { c with leaving := c.leaving ++ [.qput t q id v] }

/-- The oldest entry, where it has landed before this cycle: entries leave in reservation order (R298). -/
def queueHead (c : Core) (q now : Nat) : Option QEntry :=
  match (queueOf c q).find? fun e => e.taken = none with
  | some e => if e.value.isSome && decide (e.landed < now) then some e else none
  | none => none

/-- QGET's scratchpad offset. -/
def qgetAddr (s : State) (sx : BitVec 6) (imm : BitVec 18) : Word := readS s sx + imm.signExtend 64

/-- The checks of QGET (R297). -/
def chkQget (q : BitVec 3) (sx : BitVec 6) (imm : BitVec 18) (s : State) : Chk :=
  (scratchChk s (qgetAddr s sx imm) 8).and (waitIf (queueHead (cc s) q.toNat s.tick).isNone)

/-- QGET (R297). -/
def execQget (q : BitVec 3) (sx : BitVec 6) (imm : BitVec 18) (s : State) : Host.Outcome State Fault Refusal :=
  perform s (chkQget q sx imm s) fun s =>
    match queueHead (cc s) q.toNat s.tick with
    | none => s
    | some e =>
      let s := updCur s fun c =>
        { c with inq := tblPut c.inq q.toNat ((queueOf c q.toNat).map fun x =>
            if x.ticket = e.ticket then { x with taken := some s.tick } else x) }
      addStore s 5 slotGroup (.bytes (qgetAddr s sx imm).toNat (bytesOf (e.value.getD 0).toNat 8))

/-! ## Timed instructions (R98) -/

/-- The named cycle: as it was when the slot reached the bundle, else by the register now. -/
def namedCycle (s : State) (now : Word) : Nat :=
  match (cc s).named.find? fun x => x.1 = s.cur.slot && x.2.1 = s.cur.age with
  | some x => x.2.2
  | none => now.toNat

/-- The cycle's test: before T the slot waits, after it a schedule fault names T (R98). -/
def timedChk (s : State) (t : Nat) : Chk :=
  if s.gcyc.toNat < t then .wait else faultIf (decide (s.gcyc.toNat > t)) 6 (BitVec.ofNat 64 t) 0

/-- Performs a timed instruction: while it waits the slot keeps its named cycle. -/
def performTimed (s : State) (t : Nat) (k : Chk) (f : State → State) : Host.Outcome State Fault Refusal :=
  match k with
  | .wait =>
    .next (updCur s fun c =>
      { c with named := c.named.filter (fun x => decide (x.1 ≠ s.cur.slot)) ++ [(s.cur.slot, s.cur.age, t)] })
  | k => perform s k fun s => f (updCur s fun c => { c with named := c.named.filter fun x => decide (x.1 ≠ s.cur.slot) })

/-! ## The ring (R299 to R302) -/

/-- Ring key of a core's cluster, a direction and a lane. -/
def ringKey (k : Nat) (ccw : Bool) (lane : Nat) : Nat := 16 * (coreNum k / 8) + (if ccw then 8 else 0) + lane

/-- Position of a core's sequencer on its ring. -/
def ringPos (k : Nat) : Nat := 2 * (coreNum k % 8)

/-- Position in cycle t of a flit placed at p in cycle t0. -/
def ringAt (ccw : Bool) (p t0 t : Nat) : Nat := (if ccw then p + 16 * 16 - (t - t0) else p + (t - t0)) % 16

/-- The flit at a position of a lane in a cycle, k ≥ lo cycles after it was placed. -/
def ringFlit (y : Die) (key : Nat) (ccw : Bool) (pos t lo : Nat) : Option (BitVec 1024) :=
  (y.ring.find? fun x => x.1 = key && x.2.2.1 + lo ≤ t && t < x.2.2.1 + 16 && ringAt ccw x.2.1 x.2.2.1 t = pos).map
    fun x => x.2.2.2

/-- The check that sub-block j lies in the tile. -/
def subChk (s : State) (td : BitVec 6) (j : Nat) : Chk := descIf (decide (128 * j + 128 > tSize (ctlOf s td))) td

/-- T of a ring instruction. -/
def ringT (s : State) (tap sx : BitVec 6) : Nat := namedCycle s (readS s sx + tap.zeroExtend 64)

/-- The checks of RPUT (R300, R301). An occupied position makes it late (R301). -/
def chkRput (ccw : Bool) (lane : BitVec 3) (tap td sx : BitVec 6) (j : BitVec 9) (s : State) : Chk :=
  let k := s.cur.core
  let m := chunkMask (128 * j.toNat) (128 * j.toNat + 128)
  (gangChk s).and <| (subChk s td j.toNat).and ((timedChk s (ringT s tap sx)).and ((readyChk s td m).and ((poisonChk s td m).and
    (waitIf (ringFlit (dieOf s (coreDie k)) (ringKey k ccw lane.toNat) ccw (ringPos k) s.tick 1).isSome))))

/-- RPUT (R301): the sub-block sampled at T is placed on the lane. -/
def execRput (ccw : Bool) (lane : BitVec 3) (tap td sx : BitVec 6) (j : BitVec 9) (s : State) :
    Host.Outcome State Fault Refusal :=
  performTimed s (ringT s tap sx) (chkRput ccw lane tap td sx j s) fun s =>
    addSample (markRead s td) 0 0 (.rput lane.toNat ccw (tBase (ctlOf s td) + 128 * j.toNat))

/-- The checks of RTAP (R300, R302). No flit makes it late (R302). -/
def chkRtap (ccw : Bool) (lane : BitVec 3) (tap td sx : BitVec 6) (j : BitVec 9) (s : State) : Chk :=
  let k := s.cur.core
  let x := tileOf (cc s) td.toNat
  (subChk s td j.toNat).and ((timedChk s (ringT s tap sx)).and
    ((faultIf (tBusy x && decide (x.prod ≠ .ring)) 9 (BitVec.ofNat 64 td.toNat) 0).and
    ((descIf (decide (tState x.ctl ≠ 1)) td).and
    (waitIf (ringFlit (dieOf s (coreDie k)) (ringKey k ccw lane.toNat) ccw (ringPos k) s.tick 1).isNone))))

/-- RTAP (R302): the flit is written in T + 1. -/
def execRtap (ccw : Bool) (lane : BitVec 3) (tap td sx : BitVec 6) (j : BitVec 9) (s : State) :
    Host.Outcome State Fault Refusal :=
  performTimed s (ringT s tap sx) (chkRtap ccw lane tap td sx j s) fun s =>
    let k := s.cur.core
    match ringFlit (dieOf s (coreDie k)) (ringKey k ccw lane.toNat) ccw (ringPos k) s.tick 1 with
    | none => s
    | some v =>
      updCur s fun c =>
        let a := tBase (tileOf c td.toNat).ctl + 128 * j.toNat
        let c := outTile c td.toNat fun x => if x.prod = .ring then x else { x with prod := .ring }
        { c with stores := c.stores ++ [{ due := s.tick + 1, group := 1, order := lane.toNat + (if ccw then 8 else 0), sec := false,
                                          k := .subBlock td j.toNat a none (bytesOf v.toNat 128) }] }

/-! ## Prefix lookup (R303) -/

/-- The bytes of the n pages of a KV-paged object from a page position on. -/
def pageSpan (pos n : Nat) : List (Int × Int) := [(65536 * (pos : Int), 65536 * ((pos + n : Nat) : Int))]

/-- The checks of PFXLOOK; one that would map pages that a held store reaches waits for the segment to end (R361). -/
def chkPfxlook (sh : Bool) (n1 : BitVec 8) (td : BitVec 6) (hh : BitVec 5) (sx sy : BitVec 6) (s : State) : Chk :=
  let n := n1.toNat + 1
  let a := readS s sx
  let h := readH s hh
  (if sh then gangChk s else .ok).and <| (handleChk h (if sh then 1 else 0)).and
    ((faultIf (decide (a.toNat % 8 ≠ 0)) 12 a 0).and
    ((faultIf (decide (a.toNat + 8 * n > scratchSize s.cur.core)) 13 a 0).and
    ((descIf (decide (tSize (ctlOf s td) < 16 * n)) td).and ((armChk s td).and
    (waitIf (overlapsHeld s (h.toNat / 2 ^ 28) (pageSpan (readS s sy).toNat n)))))))

/-- PFXLOOK (R303): the hashes are sampled from c + 2, 16 a cycle. -/
def execPfxlook (sh : Bool) (n1 : BitVec 8) (td : BitVec 6) (hh : BitVec 5) (sx sy : BitVec 6) (s : State) :
    Host.Outcome State Fault Refusal :=
  perform s (chkPfxlook sh n1 td hh sx sy s) fun s =>
    let n := n1.toNat + 1
    let a := (readS s sx).toNat
    let r := newReq s (readH s hh) (.pfxlook sh td [] (readS s sy)) 8 [] (if sh then .held else .issued)
    let r := { r with ready := s.tick + 2 + (n + 15) / 16 }
    let s := armTile s td (.request r.id) none
    let s := (List.range ((n + 15) / 16)).foldl (fun s i =>
      addSample s (2 + i) (2 + i) (.pfxlook r.id (a + 128 * i) (min 16 (n - 16 * i)))) s
    if sh then leave s r
    else resolveAt (reqAdd s r) (r.ready + Config.delay s.tick r.id) r.id

end Sys2Proof.Machine
end

