-- ==== Sys2Proof/Machine/Reliab.lean ====
section
/-! DEFINITION. Segments (R495 to R498): their entry, commit and undo; rewinds (R499 to R503); detected errors (R490 to
R494) and the error log (R509). The undo records hold whole copies: their contents are those that R496 names, and their
sizes are counted as R496 and R498 give. -/

namespace Sys2Proof.Machine

/-! ## The error log (R509) -/

/-- A counter that saturates at all ones. -/
def satInc (w : Word) : Word := if w = BitVec.allOnes 64 then w else w + 1

/-- Logs an entry for core k: kind 0 transient, 1 lasting, 2 corrected; unit and code offset of its place (R502, R509). -/
def logError (s : State) (k kind unit off : Nat) : State :=
  updDie s (coreDie k) fun y =>
    let w1 := BitVec.ofNat 64 (coreNum k + unit * 256 + kind * 4096 + off % 2 ^ 32 * 2 ^ 32)
    { y with trans := if kind = 0 then satInc y.trans else y.trans, last := if kind = 1 then satInc y.last else y.last,
             corr := if kind = 2 then satInc y.corr else y.corr,
             ent := tblPut y.ent (y.lnext.toNat % 16) (s.gcyc, w1), lnext := y.lnext + 1 }

/-- An event at the place a segment recorded. -/
def logPlace (s : State) (k kind : Nat) : State :=
  match (coreOf s k).place with
  | some p => logError s k kind p.2 p.1.toNat
  | none => s

/-! ## Commit (R268, R364, R495) -/

/-- Whether a release that core j issued before a number is still to be applied (R364). -/
def relPending (s : State) (j upto : Nat) : Bool :=
  s.reqs.any fun q => decide (q.core = j) && decide (q.id < upto) && (match q.op with | .relv .. => decide (q.st ≠ .held) | _ => false)

/-- The held stores and releases of a segment perform in program order, each once its data are complete; a store that has parked stays
parked. -/
def releaseHeld (s : State) (now : Nat) (l : List Nat) : State :=
  match l with
  | [] => s
  | id :: r =>
    match reqFind s id with
    | none => releaseHeld s now r
    | some q =>
      let due := max now q.ready
      if q.st = .held then releaseHeld (resolveAt (reqSet s { q with st := .issued }) due id) due r else releaseHeld s due r

/-- Latency of a queue entry from its leaving (R296). -/
def queueLat (src tgt : Nat) : Nat := if src / 8 = tgt / 8 then 4 else 12

/-- One effect of R268 leaves core k. -/
def leaveOne (s : State) (k : Nat) (x : Leaving) : State :=
  match x with
  | .qput t q ticket v =>
    let e := { Ev.none with core := t, n := q.toNat, id := ticket, w := v, port := k, slot := queueLat k t }
    if relPending s k ticket then post s (s.tick + 1) .queueEntryLands { e with flag := true }
    else post s (s.tick + queueLat k t) .queueEntryLands e
  | .request id =>
    match reqFind s id with
    | some q => resolveAt (reqSet s { q with st := .issued }) (max q.ready (later s 1 id)) id
    | none => s
  | .job d id =>
    updDie s d fun y => { y with jobs := y.jobs.map fun j => if j.id = id then { j with st := .waiting } else j }
  | .marker i t c p => post s (s.tick + 1) .marker { Ev.none with core := k, tile := t, n := c, id := p.toNat, w := BitVec.ofNat 64 i, flag := true }

/-- QUEUE_ENTRY_LANDS (R296): the entry lands at its position; one that still waits for a release leaves later (R364). -/
def execQueueEntryLands (s : State) : Host.Outcome State Fault Refusal :=
  let e := s.ev
  if e.flag then
    if relPending s e.port e.id then .next (post s (s.tick + 1) .queueEntryLands e)
    else .next (post s (s.tick + e.slot) .queueEntryLands { e with flag := false })
  else
    .next (updCore s e.core fun c =>
      { c with inq := tblPut c.inq e.n ((queueOf c e.n).map fun x =>
          if x.ticket = e.id then { x with value := some e.w, landed := s.tick } else x) })

/-- SEGMENT_COMMIT (R495): the closing segment's held effects perform, a rewound one without further detection is logged
as transient (R502), and its undo records are discarded. -/
def commitSegment (s : State) (k : Nat) : State :=
  let c := coreOf s k
  let s := if c.rewinds > 0 then logPlace s k 0 else s
  let s := updCore s k fun c =>
    { c with heldStt := [], leaving := [], rewinds := 0, place := none, undoV := [], undoA := [], undoG := [], undoW := [],
             noRewind := false, fifoPop := 0, segOpen := false, rvDone := false }
  let s := releaseHeld s s.tick c.heldStt
  c.leaving.foldl (fun s x => leaveOne s k x) s

/-! ## Entry (R495, R496) -/

/-- The position of a stream at an entry: the entry bundle's offset, or the next bundle of the other stream. -/
def posAt (c : Core) (sec : Bool) (i : Nat) : Nat :=
  match (c.queue.drop i).find? (inStrm sec) with
  | some d => offIn sec d
  | none => (strmOf c sec).next

/-- Where a stream's decoder goes on after the bundles of a path: at the first later bundle already dispatched, with the loop
stack as it stood before decode acted on that bundle (R496), else where it stands. -/
def afterPath (c : Core) (sec : Bool) (rest : List Disp) : Strm :=
  let x := strmOf c sec
  match rest.find? (inStrm sec) with
  | none => { x with half := false }
  | some d =>
    let p := d.pre.getD (if sec then 1 else 0) (x.loops, x.lsp)
    { x with next := offIn sec d, hold := .none, half := false, fault := none, segNext := d.entry, loops := p.1, lsp := p.2 }

/-- The slots that have issued the bundle at queue index i. -/
def doneAt (c : Core) (i : Nat) : BitVec 9 :=
  BitVec.ofNat 9 ((List.range 9).foldl (fun n k => if nextIdx c k > i then n + 2 ^ k else n) 0)

/-- Opens a segment of core k at queue index i: what R496 records at entry. The entry bundle, with the bundles of a path that
KRET has redispatched behind it, is what a rewind dispatches again. -/
def openSegment (s : State) (k i : Nat) : State :=
  updCore s k fun c =>
    match c.queue.drop i with
    | [] => c
    | d :: r =>
      let path := { d with done := doneAt c i } :: r.takeWhile fun x => x.pre.isEmpty
      let rest := r.dropWhile fun x => x.pre.isEmpty
      let c := { c with arch := { c.arch with
        tiles := c.arch.tiles.map fun (t : Nat × Tile) => (t.1, { t.2 with inSeg := false }),
        pri := { c.arch.pri with segbase := posAt c false i },
        sec := if c.arch.secOn then { c.arch.sec with segbase := posAt c true i } else c.arch.sec } }
      { c with segOpen := true, segNew := false, segAge := d.age, undoStores := c.stores, appPath := path,
               undo := { c.arch with pri := afterPath c false rest, sec := afterPath c true rest } }

/-- SEGMENT_ENTRY (R495): the closing segment commits and a new one opens; after a rewind the entry bundle reissues in the
segment it opened before. -/
def execSegmentEntry (s : State) : Host.Outcome State Fault Refusal :=
  let k := s.ev.core
  let i := s.ev.n
  let c := coreOf s k
  if c.segNew then
    .next (updCore s k fun c =>
      { c with segNew := false, segAge := (c.queue[i]?.map Disp.age).getD 0, segPause := false })
  else .next (updCore (openSegment (commitSegment s k) k i) k fun c => { c with segPause := false })

/-! ## What a slot's part of a bundle records (R496, R498) -/

/-- Granules of 64 bytes that a range of bytes touches. -/
def granules (a n : Nat) : List Nat := if n = 0 then [] else (List.range ((a + n - 1) / 64 - a / 64 + 1)).map fun i => a / 64 + i

/-- The scratchpad ranges that an instruction may write, known at issue (R498). -/
def writeSpans (s : State) (i : Instr) : List (Nat × Nat) :=
  let tile (t : BitVec 6) := (tBase (ctlOf s t), tSize (ctlOf s t))
  match i with
  | .sts _ ra sz disp => [((readS s ra + disp.signExtend 64).toNat, 2 ^ sz.toNat)]
  | .amos _ w64 _ ra _ _ => [((readS s ra).toNat, if w64 then 8 else 4)]
  | .vst o =>
    let r := vRange s o
    (vstCells (tBase (ctlOf s (vTile o)) + r.1) r.2 0 (guardOf? s o) (gzOf o)).map fun x => (x.1, x.2.length)
  | .vscat f o => (laneAddrs s o).map fun x => (x.2, fmtWidth f / 8)
  | .tmovIn td _ _ _ => [tile td]
  | .tmovOut td sx sy gg => (tmovRows s td sx sy gg).map fun x => ((x / 8).toNat, tRowBytes (ctlOf s td))
  | .qget _ sx imm => [((qgetAddr s sx imm).toNat, 8)]
  | .chkpQ _ _ _ off8 => [(8 * off8.toNat, 16)]
  | .xtrn td _ => [tile td]
  | .xcvt td _ _ _ => [tile td]
  | .xpack td _ _ _ => [tile td, tile (td + 1)]
  | _ => []

/-- The granules that an instruction would record for the first time in the segment. -/
def newGranules (s : State) (i : Instr) : List Nat :=
  (((writeSpans s i).flatMap fun x => granules x.1 x.2).eraseDups).filter fun g => !(cc s).undoG.contains g

/-- The vector registers that the fields of a bundle write. -/
def bundleV (b : Bundle) (done : BitVec 9) : List Nat :=
  ((List.range 9).flatMap fun j =>
    if done.getLsbD j then [] else (slotWrites b j).filterMap fun r => match r with | .v i => some i | _ => none).eraseDups

/-- Whether a bundle must begin a segment before a slot issues its part (R498). -/
def splits (s : State) (d : Disp) (i : Option Instr) : Bool :=
  let c := cc s
  let v := (bundleV d.bits d.done).filter fun r => !c.undoV.contains r
  let g := match i with
    | some x => newGranules s x
    | none => []
  decide (v.length > 0) && decide (c.undoV.length + v.length > 32) ||
    (decide (g.length > 0) && decide (undoUsed c > 0) && decide (undoUsed c + 64 * g.length > 131072))

/-- What a slot that has issued its part has recorded: its vector registers and granules. -/
def recordSlot (s : State) (k : Nat) (v g : List Nat) : State :=
  updCore s k fun c =>
    { c with undoV := c.undoV ++ v.filter (fun r => !c.undoV.contains r),
             undoG := c.undoG ++ g.filter fun r => !c.undoG.contains r }

/-! ## Rewind (R499 to R503) -/

/-- A held or leaving request of a rewound segment never leaves: its report is no longer outstanding. -/
def dropHeld (s : State) (id : Nat) : State :=
  match reqFind s id with
  | none => s
  | some r =>
    let s := match reqReport r with
      | some x => updCore s r.core fun c =>
          { c with reports := tblSet 0 c.reports (repKey x.1 x.2) (tblGet 0 c.reports (repKey x.1 x.2) - 1) }
      | none => s
    reqDel s id

/-- An effect of R268 of a rewound segment never leaves; a queue's reservation is released (R296). -/
def dropLeaving (k : Nat) (s : State) (x : Leaving) : State :=
  match x with
  | .qput t q ticket _ =>
    updCore s t fun c => { c with inq := tblPut c.inq q.toNat ((queueOf c q.toNat).filter fun e => decide (e.ticket ≠ ticket)) }
  | .request id => dropHeld s id
  | .job d id => updDie s d fun y => { y with jobs := y.jobs.filter fun j => decide (j.id ≠ id) }
  | .marker _ t c _ => updCore s k fun y =>
      { y with reports := tblSet 0 y.reports (repKey t c) (tblGet 0 y.reports (repKey t c) - 1) }

/-- A restored stream: its first bundle is the one at segbase, and decode goes on behind the path again. -/
def restart (x : Strm) (at_ : Nat) : Strm :=
  { x with pcbase := x.segbase, hold := match x.hold with | .none => .until at_ | .until _ => .until at_ | h => h }

/-- The path of the entry again, its first bundle an entry (R500). -/
def pathAgain (l : List Disp) (at_ age : Nat) : List Disp :=
  match l with
  | [] => []
  | d :: r => { d with tick := at_, age := age } :: pathAgain r at_ (age + 1)

/-- REWIND (R500, R502): back to the entry of the open segment; a lasting fault, the fourth rewind, or a segment marked
not rewindable (R501) is a machine check. -/
def rewind (s : State) (k : Nat) (place : Option (Nat × Nat)) : State :=
  let c := coreOf s k
  let pl := place.map fun p => (BitVec.ofNat 32 p.1, p.2)
  if c.noRewind then machineCheckAt s k 8 0
  else if (decide (c.rewinds > 0) && pl.isSome && decide (c.place = pl)) || decide (c.rewinds ≥ 3) then
    let s := updCore s k fun c => { c with place := if pl.isSome then pl else c.place }
    machineCheckAt (logPlace s k 1) k 5 0
  else
    let s := (c.heldStt.foldl dropHeld s)
    let s := c.leaving.foldl (dropLeaving k) s
    let s := match c.waitReq with
      | some id => reqDel s id
      | none => s
    let s := match c.arch.seq.req with
      | some id => reqDel s id
      | none => s
    let g := (64 * c.undoG.length + 1024 * c.undoW.length) / 64
    let at_ := s.tick + 25 + (g + 15) / 16 + c.undoV.length + 32 * c.undoA.length
    let jobs := c.memReq.isSome && (dieOf s (coreDie k)).jobs.any fun j => decide (j.core = k) && decide (j.st = .accepting)
    let s := updDie s (coreDie k) fun y =>
      { y with jobs := y.jobs.filter fun j => !(decide (j.core = k) && decide (j.st = .accepting)) }
    updCore s k fun c =>
      let a := c.undo
      let path := match pathAgain c.appPath (at_ - 1) (c.age + 1) with
        | [] => []
        | d :: r => { d with entry := true } :: r
      let c := { c with
        landing := [], withheld := [], dropAge := c.age + 1, secWait := 0,
        samples := c.samples.filter fun x => x.held || decide (x.age < c.segAge),
        stores := c.stores.filter fun x => decide (x.group ≤ 3) || c.undoStores.contains x,
        readers := [], xfJobs := [], expJobs := [], ptrap := none, rewAsk := none, named := [], waitReq := none,
        memReq := if jobs then none else c.memReq, heldStt := [], leaving := [],
        recvs := c.recvs.filter fun r => !(tileOf c r.tile.toNat).inSeg,
        sends := c.sends.filter fun n => !(c.samples.any fun x => !x.held && decide (c.segAge ≤ x.age) && (match x.k with
          | .fsend _ i _ _ _ => decide (i = n)
          | _ => false)),
        undoV := [], undoA := [], undoG := [], undoW := [], fifoPop := 0, segPause := false, endSeg := false,
        rewinds := c.rewinds + 1, place := if pl.isSome then pl else c.place, rewound := true, segNew := true,
        rvDone := true, issueFrom := at_, waiting := 0, waiting2 := 0,
        queue := path, appPath := path,
        pos := List.replicate 9 0, age := c.age + 1 + c.appPath.length,
        arch := { a with pri := restart a.pri at_, sec := restart a.sec at_,
                         seq := { a.seq with nextStart := at_, fly := [], req := none } } }
      c

/-! ## Detected errors (R491 to R494) -/

/-- Whether a core can be rewound: it runs and a segment is open. -/
def rewindable (c : Core) : Bool := decide (c.run = .running) && c.segOpen

/-- A detected error charged to a code offset and unit of core k starts a rewind at the end of the cycle (R499, R502). -/
def detect (s : State) (k off unit : Nat) : State := if rewindable (coreOf s k) then askRewind s k (some (off, unit)) else s

/-- COMPARE_MISMATCH (R491): in protected mode, and always on a scalar-profile core (R24), a mismatch known in this cycle is
charged to the bundle at pcbase of the cycle compared, whose offset the event gives. -/
def execCompareMismatch (s : State) : Host.Outcome State Fault Refusal :=
  let k := s.ev.core
  .next (if (coreOf s k).mode || !(isCompute k) then detect s k s.ev.n 11 else s)

/-- RESIDUE_MISMATCH (R493): charged to the instruction or the micro-operation that produced the value. -/
def execResidueMismatch (s : State) : Host.Outcome State Fault Refusal := .next (detect s s.ev.core s.ev.n s.ev.slot)

/-- ARRAY_ECC_ERROR (R494): flag, a correctable error, which is counted and logged; flag2, one met while undo data are
restored, a machine check with reason 5; else a detected error of the reading instruction. -/
def execArrayEccError (s : State) : Host.Outcome State Fault Refusal :=
  let k := s.ev.core
  if s.ev.flag then .next (logError s k 2 12 s.ev.n)
  else if s.ev.flag2 then .next (machineCheckAt s k 5 0)
  else .next (detect s k s.ev.n s.ev.slot)

end Sys2Proof.Machine
end

