-- ==== Sys2Proof/Machine/Lookup.lean ====
section
/-! DEFINITION. The prefix index and PFXLOOK at the handle unit (R303, R406, R407). -/

namespace Sys2Proof.Machine

/-- A match of the index: rows, page word, owner word. -/
structure PfxHit where
  rows : Nat
  page : Nat
  owner : Nat
  deriving DecidableEq, Repr

/-- The object that an identity names, where it is homed here and can be read. -/
def identObj (s : State) (key : Nat) : Option Obj :=
  if homedHere s key then
    match tableEntry s (key % 4) (key % 2 ^ 24) with
    | some e => objWith s key e
    | none => none
  else none

/-- The address of the extent entry of a page position of an object. -/
def pageEntry (o : Obj) (p : Nat) : Nat :=
  let x := shardOf o (65536 * p)
  extAddr o x.1 (x.2 / 65536)

/-- The reference count in the owner's entry; 0 for a page whose owner this package cannot read (see the log). -/
def ownerRefc (s : State) (owner : Nat) : Nat :=
  match identObj s (owner / 2 ^ 28) with
  | none => 0
  | some o =>
    let a := pageEntry o (owner % 2 ^ 28)
    if memReadable s a 16 then (physWord s (a + 8)).toNat / 2 ^ 32 % 2 ^ 16 else 0

/-- The addresses probed for a hash up to the first invalid entry: the slot and the next 7 (R399, R406). -/
def pfxProbes (s : State) (d h : Nat) : List Nat :=
  let b := (dieOf s d).mpidx.toNat
  (probes s (b / 4096 * 4096) (b % 32) h 8 0).filter fun a => decide ((physWord s (a + 8)).toNat / 2 ^ 63 = 1)

/-- The match for a hash; another domain's is a miss, and with sh one whose owner cannot count another, the counts of this lookup
included (R303, R407). used: the owners that this lookup has counted. -/
def pfxMatch (s : State) (d dom h : Nat) (sh : Bool) (used : List Nat) : Option PfxHit :=
  match (pfxProbes s d h).find? fun a => decide ((physWord s a).toNat = h) with
  | none => none
  | some a =>
    let w := (physWord s (a + 8)).toNat
    let owner := (physWord s (a + 24)).toNat
    if w % 2 ^ 16 ≠ dom ∨ (sh = true ∧ ownerRefc s owner + used.count owner ≥ 65535) then none
    else some { rows := w / 2 ^ 16 % 32, page := (physWord s (a + 16)).toNat, owner := owner }

/-- What the lookup does with one hash. -/
inductive PfxStep where
  | miss
  | skipped
  | whole (h : PfxHit) (pos : Option Nat)
  | part (h : PfxHit) (pos : Option Nat)
  | bound (pos : Nat)
  deriving DecidableEq, Repr

/-- The lookup in ascending order up to the first miss, partial match or position already mapped (R303, R407). -/
def pfxPlan (s : State) (d dom : Nat) (o : Obj) (sh : Bool) (pos : Nat) (go : Bool) (l : List Nat) (used : List Nat := []) :
    List PfxStep :=
  match l with
  | [] => []
  | h :: r =>
    if !go then .skipped :: pfxPlan s d dom o sh (pos + 1) false r
    else
      match pfxMatch s d dom h sh used with
      | none => .miss :: pfxPlan s d dom o sh (pos + 1) false r
      | some m =>
        if sh && decide (oExt o 3 ≤ pos) then .bound pos :: pfxPlan s d dom o sh (pos + 1) false r
        else if sh && xPresent o (extMem s o (shardOf o (65536 * pos)).1 ((shardOf o (65536 * pos)).2 / 65536)) then
          .skipped :: pfxPlan s d dom o sh (pos + 1) false r
        else if m.rows ≥ 16 then
          .whole m (if sh then some pos else none) :: pfxPlan s d dom o sh (pos + 1) true r (m.owner :: used)
        else .part m (if sh then some pos else none) :: pfxPlan s d dom o sh (pos + 1) false r

/-- A result entry of td: word 0 and word 1. -/
def pfxResult (x : PfxStep) : Nat × Nat :=
  match x with
  | .miss => (0, 0)
  | .skipped => (3, 0)
  | .bound _ => (3, 0)
  | .whole m _ => (16 * 4 + 1, m.page)
  | .part m _ => (m.rows * 4 + 2, m.page)

/-- A whole page is mapped read-only and copy-on-write, and the owner counts one more (R407). -/
def mapWhole (s : State) (o : Obj) (dom pos : Nat) (m : PfxHit) : State :=
  let a := pageEntry o pos
  let s := physPut s a (BitVec.ofNat 64 (2 ^ 63 + 2 ^ 60 + m.page % 2 ^ 48))
  let s := physPut s (a + 8) (BitVec.ofNat 64 (dom * 2 ^ 48))
  match identObj s (m.owner / 2 ^ 28) with
  | none => s
  | some w =>
    let b := pageEntry w (m.owner % 2 ^ 28) + 8
    physPut s b (physWord s b + BitVec.ofNat 64 (2 ^ 32))

/-- The 64 KiB of the matched page as the owner reads them. -/
def ownerPage (s : State) (d : Nat) (m : PfxHit) : List Byte :=
  match identObj s (m.owner / 2 ^ 28) with
  | some w =>
    (List.range 128).flatMap fun i =>
      let b := 65536 * (m.owner % 2 ^ 28) + 512 * i
      match (readBlock s d w [] (shardOf w b).1 ((shardOf w b).2 / 512)).2 with
      | .data v => blockBytes v
      | _ => List.replicate 512 0
  | none => memBytes s.mem (m.page % 2 ^ 48) 65536

/-- A partial match: a free page with the matched rows of every group, every other byte zero (R404, R407). -/
def mapPart (s : State) (d : Nat) (o : Obj) (dom pos : Nat) (m : PfxHit) : State :=
  let y := dieOf s d
  let n := y.mpfree.toNat
  let pa := (physWord s (y.mpstk.toNat / 4096 * 4096 + 8 * (n - 1))).toNat / 65536 * 65536
  let s := updDie s d fun y => { y with mpfree := BitVec.ofNat 64 (n - 1) }
  let src := ownerPage s d m
  let rowb := oExt o 0 * eWidth o.e / 8
  let body := (List.range 65536).map fun i => if i / rowb % 16 < m.rows then src.getD i 0 else 0
  let s := sectorsOut s (ownerTag o.e) pa body
  let a := pageEntry o pos
  physPut (physPut s a (BitVec.ofNat 64 (2 ^ 63 + pa))) (a + 8) (BitVec.ofNat 64 (dom * 2 ^ 48 + 2 ^ 32))

/-- Resolution of a PFXLOOK (R303, R407). All sharing comes about at once; then every chunk lands in one cycle. -/
def resolvePfx (s : State) (r : Req) (sh : Bool) (t : BitVec 6) (hashes : List Word) (pos : Word) : State :=
  let at_ := BitVec.ofNat 64 (65536 * pos.toNat)
  if !(reqLive s r) then reqDel s r.id
  else if sh && releaseAhead s r then again s r
  else
    match resolve s r.die r.dom.toNat r.handle (if sh then 1 else 0) with
    | .fault c => lateFault s r c at_
    | .deferred => lateFault s r 24 at_
    | .remote _ _ => lateFault s r 24 at_
    | .ok o _ =>
      if !(eHas o.e 3) then lateFault s r 24 at_
      else
        let plan := pfxPlan s r.die r.dom.toNat o sh pos.toNat true (hashes.map BitVec.toNat)
        match plan.find? fun x => match x with | .bound _ => true | _ => false with
        | some (.bound p) => lateFault s r 25 (BitVec.ofNat 64 (65536 * p))
        | _ =>
          let needs := sh && plan.any fun x => match x with | .part _ _ => true | _ => false
          if needs && decide ((dieOf s r.die).mpfree = 0) then parkReq s r 0 (65536 * pos.toNat)
          else
            let s := plan.foldl (fun s x =>
              match x with
              | .whole m (some p) => mapWhole s o r.dom.toNat p m
              | .part m (some p) => mapPart s r.die o r.dom.toNat p m
              | _ => s) s
            let ctl := (tileOf (coreOf s r.core) t.toNat).ctl
            let words := plan.flatMap fun x => [(pfxResult x).1, (pfxResult x).2]
            let data := (List.range (2 * words.length)).map fun i =>
              (8 * tBase ctl + 32 * i, BitVec.ofNat 32 (words.getD (i / 2) 0 / 2 ^ (32 * (i % 2))))
            let ks := chunkList ctl
            let due := s.tick + 1 + Config.delay s.tick r.id
            let s := reqSet s { r with w := 32, data := data, elems := [], left := ks, st := .landing }
            ks.foldl (fun s k => post s due .tileChunkLands
              { Ev.none with core := r.core, id := r.id, tile := t, n := k }) s

/-- The hashes that a PFXLOOK samples. -/
def samplePfx (s : State) (k id a n : Nat) : State :=
  match reqFind s id with
  | none => s
  | some r =>
    match r.op with
    | .pfxlook sh t hs pos =>
      let new := (List.range n).map fun i => BitVec.ofNat 64 (memRead (coreOf s k).arch.scratch (a + 8 * i) 8)
      reqSet s { r with op := .pfxlook sh t (hs ++ new) pos }
    | _ => s

end Sys2Proof.Machine
end

