-- ==== Sys2Proof/Machine/RegMap.lean ====
section
/-! DEFINITION. Which step a write of a device register is: each register with behaviour of its own has its row, every
other one is a plain register write (R9). -/

namespace Sys2Proof.Machine

/-- The row of a zone command (R515). -/
def zoneRow (v : Word) : Instr :=
  match v.toNat / 256 % 8 with
  | 1 => .zoneFill
  | 2 => .zoneDrain
  | 3 => .zoneOff
  | 4 => .zoneClear
  | _ => .registerWrite

/-- The row of a crypto operation (R527). -/
def cryptoRow (v : Word) : Instr :=
  match v.toNat % 256 with
  | 1 => .sha384
  | 2 => .ed25519Verify
  | 3 => .mlDsa65Verify
  | 4 => .signWithDeviceKey
  | 5 => .devicePublicKey
  | 6 => .extendMeasurementRegister
  | 7 => .randomBytes
  | _ => .registerWrite

/-- The rows that a write of a 64-bit word at an offset of a block gives, in order. -/
def regRows (b : Block) (o : Nat) (v : Word) : List Instr :=
  match b with
  | .faultQ _ =>
    if o = 0x20 then [.fqresume] else if o = 0x28 then [.fqabort] else if o = 0x30 then [.coreres] else [.registerWrite]
  | .objMgr _ =>
    if o = 0x18 then (if v.getLsbD 0 then [.mgo] else []) else if o = 0x40 then [.msput]
    else if o = 0x58 then [.mpput] else [.registerWrite]
  | .cmdStream _ =>
    if o < 0x100 ∧ o % 0x20 = 8 then [.csprodWrite] else if o = 0x110 then [.stopreq]
    else if o = 0x118 then [.releaseWrite] else [.registerWrite]
  | .port _ => if o = 0 then .portEnWrite :: (if v.toNat % 8 = 3 then [.portStateWrite] else []) else [.registerWrite]
  | .portMap => [.portMapWrite]
  | .frame => [.frameTableWrite]
  | .jack => if o = 0 then [.jcycWrite] else [.registerWrite]
  | .sluice => if o % 64 = 8 then [.allocWrite, .minfWrite, .registerWrite] else [.registerWrite]
  | .coolCtl => if o = 0x10 then [zoneRow v] else [.registerWrite]
  | .crypto => if o = 0x28 then [cryptoRow v] else [.registerWrite]
  | .meas => if o = 0x400 then [.mlockWrite] else if o = 0x408 then [.kext] else [.registerWrite]
  | .fuses =>
    if o = 0x100 then [.lcadv] else if o = 0x108 then [.svnadv] else if o = 0x18 then [.lcsWrite]
    else if o = 0x140 then [.dbgenWrite] else [.registerWrite]
  | .hostCtl =>
    if o = 0x48 then (if v.getLsbD 0 then [.garmWrite] else []) else if o = 0x210 then [.rsplenWrite]
    else if o = 0x10 then [.hprodWrite] else if o = 0x30 then [.dconsWrite]
    else if o = 0x38 then (if v.getLsbD 0 then [.rstreq] else []) else [.registerWrite]
  | _ => [.registerWrite]

/-- Whether a write of a level reaches a block (R524): the engine, the fuses and the root scratchpad are the root's. -/
def writeAllowed (level : Nat) (b : Block) : Bool :=
  match b with
  | .crypto => decide (level = 3)
  | .fuses => decide (level = 3)
  | .rootScratch => decide (level = 3)
  | _ => true

/-- The steps that a write of bytes at a register address takes: for each 64-bit word its rows. core is the writing core, 449
where none writes. -/
def regEvents (s : State) (core level a : Nat) (bs : List Byte) : List Event :=
  (List.range (bs.length / 8)).flatMap fun i =>
    let v := BitVec.ofNat 64 (natOfBytes (bs.drop (8 * i) |>.take 8))
    match blockAt (a + 8 * i) with
    | some (b, o) =>
      if writeAllowed level b then
        (regRows b o v).map fun r => { due := s.tick, instr := r, ev := { Ev.none with core := core, id := a + 8 * i, w := v } }
      else []
    | none => []

/-- A write of bytes by physical address, as STP makes it (R336, R370): memory through the die's object cache, else
registers; the root scratchpad takes it in group 3 of its cycle (R526). -/
def physStore (s : State) (core level a : Nat) (bs : List Byte) : State :=
  match blockAt a with
  | none => physWrite (flushPhys s (a / 2 ^ 40) a bs.length) a bs
  | some (.rootScratch, o) =>
    if level = 3 then
      updCore s 448 fun c =>
        { c with stores := c.stores ++ [{ due := s.tick, group := 3, order := 2 ^ 40, sec := false, k := .bytes o bs }] }
    else s
  | some _ => { s with work := (regEvents s core level a bs).map Work.event ++ s.work }

/-- A read by physical address, as LDP makes it. -/
def physLoad (s : State) (level a n : Nat) : State × List Byte :=
  match blockAt a with
  | none =>
    let s := flushPhys s (a / 2 ^ 40) a n
    (s, memBytes s.mem a n)
  | some _ => (s, physBytes s level a n)

end Sys2Proof.Machine
end

