-- ==== Sys2Proof/Machine/Priv.lean ====
section
/-! DEFINITION. The privileged MEM instructions but for the context images (R329 to R339), JARM and the jack trigger (R328,
R506, R507). Each of the first holds MEM until it completes (R330). -/

namespace Sys2Proof.Machine

/-- A privileged request: MEM is held until it is over. -/
def holdMem (s : State) (r : Req) (due : Nat) : State :=
  resolveAt (updCur (reqAdd s r) fun c => { c with memReq := some r.id }) due r.id

/-- The request that held MEM is over. -/
def freeMem (s : State) (r : Req) : State :=
  reqDel (updCore s r.core fun c => { c with memReq := if c.memReq = some r.id then none else c.memReq }) r.id

/-- Holds MEM up to and including a tick. -/
def holdUntil (s : State) (t : Nat) : State := updCur s fun c => { c with memHold := some t }

/-! ## TLBI (R331, R332) -/

/-- The object key of an identity operand. -/
def identKey (w : Word) : Nat := w.toNat / 2 ^ 28

/-- The object-table fault of R331. -/
def identChk (s : State) (w : Word) (local_ : Bool) : Chk :=
  let key := identKey w
  let bad := decide (key % 2 ^ 24 = 0) ||
    (local_ && (decide (key / 2 ^ 24 ≠ s.pkg.toNat) || decide (key % 2 ^ 24 ≥ 2 ^ otLog s (coreDie s.cur.core))))
  faultIf bad 33 w 0

/-- The checks of TLBI. -/
def chkTlbi (kind : BitVec 2) (_pkg : Bool) (_sx sy : BitVec 6) (_n1 : BitVec 17) (s : State) : Chk :=
  (privChk s 1).and (if kind = 0 then .ok else identChk s (readS s sy) false)

/-- TLBI (R332): bound 256 cycles for a die, 1,024 for the package. -/
def execTlbi (kind : BitVec 2) (pkg : Bool) (sx sy : BitVec 6) (n1 : BitVec 17) (s : State) : Host.Outcome State Fault Refusal :=
  perform s (chkTlbi kind pkg sx sy n1 s) fun s =>
    let r := newReq s 0 (.tlbi kind.toNat pkg (readS s sy) (readS s sx) (n1.toNat + 1)) 8 [] .issued
    holdMem s r (within s (if pkg then 1024 else 256) r.id)

/-- Whether a translation maps any byte from lo to hi − 1 of its object. -/
def xlatMaps (s : State) (t : Xlat) (lo hi : Nat) : Bool :=
  match identObj s t.obj with
  | none => true
  | some o =>
    let g := 2 ^ eShg o.e
    let len := 2 ^ eXlog o.e
    let b := t.ext * len
    let start := if eShn o.e = 0 then b else (b / g * 2 ^ eShn o.e + t.shard) * g + b % g
    decide (start < hi) && decide (lo < start + len)

/-- Removes translations of a die, at both levels (R394). -/
def dropXlats (s : State) (d : Nat) (f : Xlat → Bool) : State :=
  updDie s d fun y =>
    { y with xlats := y.xlats.filter fun t => !(f t),
             tlbs := (y.tlbs.map fun r => (r.1, r.2.filter fun t => !(f t))).filter fun r => !r.2.isEmpty }

/-- The dies that a form acts on. -/
def scopeDies (d : Nat) (pkg : Bool) : List Nat := if pkg then [0, 1, 2, 3] else [d]

/-- Writers that wait on mv resolve again (R401): requests, the steps of jobs and what other packages ask. -/
def wakeMovers (s : State) (f : Nat → Bool) : State :=
  let s := s.reqs.foldl (fun s r =>
    if r.st = .waitMv ∧ f (r.handle.toNat / 2 ^ 28) then resolveAt (reqSet s { r with st := .issued }) (s.tick + 1) r.id
    else s) s
  { s with agenda := s.agenda.map fun e => match e.ev.mv with
      | some k => if f k then { e with due := s.tick + 1, ev := { e.ev with mv := none } } else e
      | none => e }

/-- TLBI completes. -/
def resolveTlbi (s : State) (r : Req) (kind : Nat) (pkg : Bool) (ident off : Word) (n : Nat) : State :=
  let key := identKey ident
  let f (t : Xlat) : Bool :=
    if kind = 0 then true
    else decide (t.obj = key) && (decide (kind = 1) || xlatMaps s t off.toNat (off.toNat + 65536 * n))
  let s := (scopeDies r.die pkg).foldl (fun s d => dropXlats s d f) s
  freeMem (wakeMovers s fun k => decide (kind = 0) || decide (k = key)) r

/-! ## OTW, OTI, OTA (R333 to R335) -/

/-- Discards cached resolutions of an index in every handle unit of the package. -/
def dropRes (s : State) (i : Nat) : State :=
  (List.range 4).foldl (fun s d => updDie s d fun y => { y with rescache := y.rescache.filter fun x => decide (x.1 ≠ i) }) s

/-- The checks of OTW. -/
def chkOtw (sx sy : BitVec 6) (s : State) : Chk :=
  (privChk s 1).and ((scratchChk s (readS s sx) 64).and (identChk s (readS s sy) true))

/-- OTW (R333): sampled in c + 2. -/
def execOtw (sx sy : BitVec 6) (s : State) : Host.Outcome State Fault Refusal :=
  perform s (chkOtw sx sy s) fun s =>
    holdUntil (addSample s 2 2 (.otw (readS s sx).toNat (readS s sy))) (s.tick + 3 + Config.delay s.tick 4)

/-- Writes a table entry; a change of the compression or dedup attribute raises the layout generation (R333). -/
def writeEntry (s : State) (d i : Nat) (ws : List Word) : State :=
  let a := entAddr s d i
  let old := (physWord s a).toNat
  let new := wN ws 0
  let changed := old / 2 ^ 37 % 4 ≠ new / 2 ^ 37 % 4
  let new := if changed then new - new / 2 ^ 42 % 16 * 2 ^ 42 + (old / 2 ^ 42 % 16 + 1) % 16 * 2 ^ 42 else new
  let ws := BitVec.ofNat 64 new :: ws.drop 1
  physWrite s a (ws.flatMap fun w => bytesOf w.toNat 8)

/-- OTW's sample: the entry is written and cached resolutions go. -/
def sampleOtw (s : State) (k a : Nat) (ident : Word) : State :=
  let m := (coreOf s k).arch.scratch
  let ws := (List.range 8).map fun i => BitVec.ofNat 64 (memRead m (a + 8 * i) 8)
  let i := identKey ident % 2 ^ 24
  wakeMovers (dropRes (writeEntry s (coreDie k) i ws) i) fun key => decide (key = identKey ident)

/-- The check of OTI. -/
def chkOti (sy : BitVec 6) (s : State) : Chk := (privChk s 1).and (identChk s (readS s sy) true)

/-- OTI (R334). -/
def execOti (sy : BitVec 6) (s : State) : Host.Outcome State Fault Refusal :=
  perform s (chkOti sy s) fun s =>
    let r := newReq s 0 (.oti (readS s sy)) 8 [] .issued
    holdMem s r (later s 1 r.id)

/-- The check of OTA. -/
def chkOta (_c _d : Bool) (sy : BitVec 6) (s : State) : Chk := (privChk s 1).and (identChk s (readS s sy) true)

/-- OTA (R335). -/
def execOta (compressed dedup : Bool) (sy : BitVec 6) (s : State) : Host.Outcome State Fault Refusal :=
  perform s (chkOta compressed dedup sy s) fun s =>
    let at_ : BitVec 2 := BitVec.ofNat 2 ((if compressed then 1 else 0) + (if dedup then 2 else 0))
    let r := newReq s 0 (.ota (readS s sy) at_) 8 [] .issued
    holdMem s r (later s 1 r.id)

/-- Whether an earlier OTA on an object is still under way (R335). -/
def otaAhead (s : State) (r : Req) (key : Nat) : Bool :=
  s.reqs.any fun q => decide (q.id < r.id) && (match q.op with | .ota i _ => decide (identKey i = key) | _ => false)

/-- The first step of an OTA: the layout generation counts on. -/
def raiseGen (s : State) (a i : Nat) : State :=
  let w := (physWord s a).toNat
  dropRes (physPut s a (BitVec.ofNat 64 (w - w / 2 ^ 42 % 16 * 2 ^ 42 + (w / 2 ^ 42 % 16 + 1) % 16 * 2 ^ 42))) i

/-- Resolution of an OTA (R335): one already under way on the object is waited for; then the generation, write-backs under the old
attributes, the translations, the switch. -/
def resolveOta (s : State) (r : Req) (ident : Word) (attrs : BitVec 2) : State :=
  let key := identKey ident
  let i := key % 2 ^ 24
  let a := entAddr s r.die i
  if otaAhead s r key then again s r
  else
  let s := if r.asks = 0 then reqSet (raiseGen s a i) { r with asks := 1 } else s
  let w := (physWord s a).toNat
  let s := (List.range 4).foldl (fun s d => writeBackObj s d key) s
  if (List.range 4).any fun d => dirtyIn s d key then resolveAt s (later s 1 r.id) r.id
  else
    let s := (List.range 4).foldl (fun s d => dropXlats s d fun t => decide (t.obj = key)) s
    let w := w - w / 2 ^ 37 % 4 * 2 ^ 37 + attrs.toNat * 2 ^ 37
    let s := dropRes (physPut s a (BitVec.ofNat 64 w)) i
    freeMem (wakeMovers s fun k => decide (k = key)) r

/-! ## LDP and STP (R336, R370) -/

/-- Bytes of a size code. -/
def ldpBytes (size : BitVec 3) : Nat := 8 * 2 ^ size.toNat

/-- The scratchpad offset of LDP and STP. -/
def ldpAddr (s : State) (sy : BitVec 6) (disp : BitVec 18) : Word := readS s sy + disp.signExtend 64

/-- The checks of LDP and STP at issue. -/
def ldpChk (s : State) (size : BitVec 3) (sx sy : BitVec 6) (disp : BitVec 18) : Chk :=
  let pa := readS s sx
  (privChk s 1).and ((faultIf (decide (pa.toNat % ldpBytes size ≠ 0) || decide (pa.toNat ≥ 2 ^ 48)) 31 pa 0).and
    (scratchChk s (ldpAddr s sy disp) (ldpBytes size)))

/-- The checks of LDP. -/
def chkLdp (size : BitVec 3) (sx sy : BitVec 6) (disp : BitVec 18) (s : State) : Chk := ldpChk s size sx sy disp
/-- LDP (R336). -/
def execLdp (size : BitVec 3) (sx sy : BitVec 6) (disp : BitVec 18) (s : State) : Host.Outcome State Fault Refusal :=
  perform s (chkLdp size sx sy disp s) fun s =>
    let r := newReq s 0 (.ldp (readS s sx).toNat (ldpBytes size) (ldpAddr s sy disp).toNat) 8 [] .issued
    holdMem s r (later s 1 r.id)

/-- The checks of STP. -/
def chkStp (size : BitVec 3) (sx sy : BitVec 6) (disp : BitVec 18) (s : State) : Chk := ldpChk s size sx sy disp
/-- STP (R336): sampled in c + 2. -/
def execStp (size : BitVec 3) (sx sy : BitVec 6) (disp : BitVec 18) (s : State) : Host.Outcome State Fault Refusal :=
  perform s (chkStp size sx sy disp s) fun s =>
    let nb := ldpBytes size
    let pa := (readS s sx).toNat
    let a := (ldpAddr s sy disp).toNat
    let r := { newReq s 0 (.stp pa nb a []) 8 [] .issued with ready := s.tick + 3 }
    addSample (holdMem s r (r.ready + Config.delay s.tick r.id)) 2 2 (.stp a nb r.id)

/-- STP's sample. -/
def sampleStp (s : State) (k a nb id : Nat) : State :=
  match reqFind s id with
  | none => s
  | some r =>
    match r.op with
    | .stp pa n ad _ => reqSet s { r with op := .stp pa n ad (memBytes (coreOf s k).arch.scratch a nb) }
    | _ => s

/-- The late physical-address fault (R336): the address stands in trapinfo2. -/
def physFault (s : State) (r : Req) (pa : Nat) : State :=
  let s := lateFault s r 31 0
  updCore s r.core fun c =>
    { c with lateHeld := c.lateHeld.map fun t =>
        if t.cause = 31 ∧ t.info2 = handleInfo r.handle then { t with info2 := BitVec.ofNat 64 pa } else t }

/-- Whether an access of n bytes maps memory, or registers, throughout (R585). -/
def mappedAll (a n : Nat) : Bool := (List.range (n / 8)).all fun i => mapped (a + 8 * i)

/-- Resolution of LDP. -/
def resolveLdp (s : State) (r : Req) (pa nb a : Nat) : State :=
  if !(mappedAll pa nb) then physFault s r pa
  else
    let x := physLoad s (levelOf r.core (coreOf s r.core)) pa nb
    let s := updCore x.1 r.core fun c =>
      { c with stores := c.stores ++ [{ due := s.tick, group := 3, order := r.id, sec := false, k := .bytes a x.2 }] }
    freeMem s r

/-- Resolution of STP. -/
def resolveStp (s : State) (r : Req) (pa nb : Nat) (data : List Byte) : State :=
  if !(mappedAll pa nb) then physFault s r pa
  else freeMem (physStore s r.core (levelOf r.core (coreOf s r.core)) pa data) r

/-! ## KEYW, KEYZ (R339) -/

/-- The checks of KEYW, in their order. -/
def chkKeyw (sx sy : BitVec 6) (_tag : BitVec 16) (s : State) : Chk :=
  let n := readS s sx
  let a := readS s sy
  let x := s.secure
  (privChk s 3).and ((scratchChk s a 64).and ((faultIf (decide (n.toNat > 63)) 32 n 0).and
    (faultIf (decide (x.lcs = 3) || decide (x.lc = 0) || decide (x.lc = 4)) 32 n 0)))

/-- KEYW (R339): sampled in c + 2, the source cleared in c + 5. -/
def execKeyw (sx sy : BitVec 6) (tag : BitVec 16) (s : State) : Host.Outcome State Fault Refusal :=
  perform s (chkKeyw sx sy tag s) fun s =>
    let a := (readS s sy).toNat
    let s := addSample s 2 2 (.keyw a (readS s sx).toNat tag)
    let s := addStore s 5 slotGroup (.bytes a (List.replicate 64 0))
    holdUntil s (s.tick + 5 + Config.delay s.tick 5)

/-- KEYW's sample: the slot holds the keys and is valid. -/
def sampleKeyw (s : State) (k a slot : Nat) (tag : BitVec 16) : State :=
  let m := (coreOf s k).arch.scratch
  let key : Key :=
    { data := BitVec.ofNat 256 (memRead m a 32), tweak := BitVec.ofNat 256 (memRead m (a + 32) 32), tag := tag }
  { s with keys := tblPut s.keys slot key }

/-- The checks of KEYZ. -/
def chkKeyz (all : Bool) (sx : BitVec 6) (s : State) : Chk :=
  let n := readS s sx
  (privChk s 3).and (faultIf (!all && decide (n.toNat > 63)) 32 n 0)

/-- KEYZ (R339). -/
def execKeyz (all : Bool) (sx : BitVec 6) (s : State) : Host.Outcome State Fault Refusal :=
  perform s (chkKeyz all sx s) fun s =>
    let s' := { s with keys := if all then [] else tblDel s.keys (readS s sx).toNat }
    holdUntil s' (s.tick + Config.delay s.tick 6)

/-! ## The jack trigger (R328, R506, R507) -/

/-- Arms the trigger for cycle t; an earlier arm is replaced. -/
def armJack (s : State) (t : Word) (core : Option Nat) : State := { s with jcyc := t, jarmed := true, jcore := core }

/-- The checks of JARM: a T earlier than issue + 4,096 is a schedule fault. -/
def chkJarm (sc : BitVec 6) (s : State) : Chk :=
  (privChk s 1).and (faultIf (decide ((readS s sc).toNat < s.gcyc.toNat + 4096)) 6 (readS s sc) 0)

/-- JARM (R328). -/
def execJarm (sc : BitVec 6) (s : State) : Host.Outcome State Fault Refusal :=
  perform s (chkJarm sc s) fun s => armJack s (readS s sc) (some s.cur.core)

/-- JCYC_WRITE (R506): arms as JARM does; a T too early leaves the trigger as it was. -/
def execJcycWrite (s : State) : Host.Outcome State Fault Refusal :=
  .next (if s.ev.w.toNat < s.gcyc.toNat + 4096 then s else armJack s s.ev.w (if s.ev.core < 449 then some s.ev.core else none))

/-- CRC-64 of R490 over words, most significant bit first, bit by bit. -/
def crc64Bits (n : Nat) (w : Word) (acc : Word) : Word :=
  match n with
  | 0 => acc
  | n + 1 => crc64Bits n w (if xor (acc.getLsbD 63) (w.getLsbD n) then (acc <<< 1) ^^^ 0x42F0E1EBA9EA3693#64 else acc <<< 1)

/-- CRC-64 over a list of words. -/
def crc64 (l : List Word) (acc : Word) : Word :=
  match l with
  | [] => acc
  | w :: r => crc64 r (crc64Bits 64 w acc)

/-- Inserts a numbered write in ascending order of numbers. -/
def insNum (x : Nat × Word) (l : List (Nat × Word)) : List (Nat × Word) :=
  match l with
  | [] => [x]
  | y :: r => if x.1 < y.1 then x :: y :: r else y :: insNum x r

/-- The words of R490 items 1 and 2 of a cycle: the offsets that the slots issue, and the writes that land. -/
def sigList (c : Core) : List Word :=
  (List.range 9).map (fun k => match c.issues.find? fun x => x.1 = k with
    | some x => BitVec.ofNat 64 x.2.1
    | none => BitVec.allOnes 64) ++
  (c.sigWords.foldl (fun l x => insNum x l) []).flatMap fun x =>
    [BitVec.ofNat 64 (x.1 * 2 ^ 32) ^^^ BitVec.ofNat 64 (x.2.toNat % 2 ^ 32), BitVec.ofNat 64 (x.2.toNat / 2 ^ 32)]

/-- The commit signature of a core's cycle (R490). A cycle that forms a request outside the core takes words whose unit and
operation codes the manual does not give: the signature is then free. -/
def sigOf (s : State) (k : Nat) : Word :=
  let c := coreOf s k
  if c.issues.any fun x => x.2.2 then Config.word s.tick (64 + k) else crc64 (sigList c) 0

/-- The snapshot words of a compute core (R507). -/
def coreSnap (s : State) (k : Nat) : List Word :=
  let c := coreOf s k
  let g := (64 * c.undoG.length + 1024 * c.undoW.length) / 64
  [s.gcyc, BitVec.ofNat 64 ((pathOf c false).headD 0 % 2 ^ 32 + c.arch.pri.segbase * 2 ^ 32), cswOf k c false, sigOf s k,
    BitVec.ofNat 64 (g + c.undoV.length * 2 ^ 16 + c.undoA.length * 2 ^ 22), BitVec.ofNat 64 c.rewinds,
    c.nrv.getD (BitVec.allOnes 64), BitVec.ofNat 64 ((if c.stopS then 1 else 0) + c.stopWhy.toNat * 256)]

/-- Lists words in a table from key n on. -/
def putWords (t : Tbl Word) (n : Nat) (l : List Word) : Tbl Word :=
  match l with
  | [] => t
  | w :: r => putWords (tblSet (0 : Word) t n w) (n + 1) r

/-- JACK_TRIGGER (R328, R507): every snapshot register of the package latches, and the arming core takes cause 54. -/
def execJackTrigger (s : State) : Host.Outcome State Fault Refusal :=
  let s := (List.range 4).foldl (fun s d =>
    updDie s d fun y =>
      let sn := (List.range 96).foldl (fun m k => putWords m (8 * k) (coreSnap s (96 * d + k))) y.snap
      let sn := putWords sn 0x300 ((List.range 8).map fun p => tblGet (0 : Word) y.cscons p)
      { y with snap := putWords sn 0x308 [y.fqprod, y.fqcons] }) s
  let ps := (List.range 144).foldl (fun m p =>
    putWords m (8 * p) ((List.range 8).map fun i => BitVec.ofNat 64 (readPort (portOf s p) (8 * i)))) s.psnap
  let who := s.jcore
  let s := { s with psnap := ps, jarmed := false, jdone := true, lcyc := s.gcyc, jcore := none }
  .next (match who with
    | some k => raiseAsync s k { cause := 54, info0 := 54, info2 := s.jcyc, info3 := 0 }
    | none => s)

end Sys2Proof.Machine
end

