-- ==== Sys2Proof/Machine/Jobs.lean ====
section
/-! DEFINITION. Engine jobs (R285 to R294, R375 to R380, R423): the five instructions that issue one, the checks of a card,
footprints and edges, copies and gathers, chains, collectives, and how a job completes or fails. -/

namespace Sys2Proof.Machine

/-! ## Cards (R286, R294) -/

/-- kind. -/
def cKind (w : List Word) : Nat := wBits w 0 60 4
/-- srci. -/
def cSrci (w : List Word) : Nat := wBits w 0 52 8
/-- dsti. -/
def cDsti (w : List Word) : Nat := wBits w 0 44 8
/-- bari. -/
def cBari (w : List Word) : Nat := wBits w 0 36 8
/-- barx. -/
def cBarx (w : List Word) : Nat := wBits w 0 20 16
/-- tag. -/
def cTag (w : List Word) : Nat := wBits w 0 8 12
/-- own. -/
def cOwn (w : List Word) : Bool := decide (wBits w 0 7 1 = 1)
/-- sfmt. -/
def cSfmt (w : List Word) : Nat := wBits w 1 60 4
/-- dfmt. -/
def cDfmt (w : List Word) : Nat := wBits w 1 56 4
/-- rnd. -/
def cRnd (w : List Word) : Nat := wBits w 1 53 3
/-- cvt. -/
def cCvt (w : List Word) : Bool := decide (wBits w 1 52 1 = 1)
/-- soff. -/
def cSoff (w : List Word) : Nat := wBits w 1 0 48
/-- stile. -/
def cStile (w : List Word) : Nat := wBits w 2 58 6
/-- dtile. -/
def cDtile (w : List Word) : Nat := wBits w 2 52 6
/-- doff. -/
def cDoff (w : List Word) : Nat := wBits w 2 0 48
/-- e0. -/
def cE0 (w : List Word) : Nat := wBits w 3 0 32
/-- e1. -/
def cE1 (w : List Word) : Nat := wBits w 3 32 32
/-- e2. -/
def cE2 (w : List Word) : Nat := wBits w 4 32 32
/-- itile. -/
def cItile (w : List Word) : Nat := wBits w 4 26 6
/-- A signed stride: half h of word i. -/
def cStride (w : List Word) (i h : Nat) : Int := intOf true 32 (wBits w i (32 * h) 32)
/-- nxti. -/
def cNxti (w : List Word) : Nat := wBits w 7 56 8
/-- nxtx. -/
def cNxtx (w : List Word) : Nat := wBits w 7 0 48

/-- The box of elements from off, in ascending (i2, i1, i0) (R288). -/
def boxElems (w : List Word) (off i : Nat) : List Int :=
  (List.range (cE2 w)).flatMap fun (i2 : Nat) => (List.range (cE1 w)).flatMap fun (i1 : Nat) =>
    (List.range (cE0 w)).map fun (i0 : Nat) => (off : Int) + i0 + i1 * cStride w i 0 + i2 * cStride w i 1

/-- The bounding range of a box. -/
def boxSpan (w : List Word) (off i : Nat) : Int × Int :=
  let a := ((cE1 w : Int) - 1) * cStride w i 0
  let b := ((cE2 w : Int) - 1) * cStride w i 1
  ((off : Int) + min 0 a + min 0 b, (off : Int) + cE0 w - 1 + max 0 a + max 0 b)

/-- A job-card fault, or the rest (R287). -/
def cardIf (b : Bool) (word : Nat) : Chk := faultIf b 28 (BitVec.ofNat 64 word) 0

/-- Whether a table index that is used lies beyond a store of n entries. -/
def overStore (n i : Nat) : Bool := decide (i ≠ 0) && decide (i ≥ n)

/-- The checks of R287 on a card's own bits, in the order of its words; n is the store's count. -/
def cardForm (n kind : Nat) (chain : Bool) (w : List Word) : Chk :=
  (cardIf (decide (cKind w ≠ kind) || decide (wBits w 0 0 7 ≠ 0)) 0).and
  ((cardIf (decide (kind ≠ 4) && decide (wBits w 7 48 8 ≠ 0)) 7).and
  (if kind = 5 then
    (cardIf (overStore n (cBari w)) 0).and ((cardIf (decide (wBits w 1 48 4 ≠ 0)) 1).and ((cardIf (decide (wBits w 2 48 4 ≠ 0)) 2).and
      ((cardIf (decide (wBits w 4 0 26 ≠ 0)) 4).and (cardIf (overStore n (cNxti w)) 7))))
   else
    (cardIf (overStore n (cSrci w) || overStore n (cBari w)) 0).and
    (if kind = 4 then
      (cardIf (decide (cSrci w = 0) || decide (cDsti w ≠ 0) || cOwn w) 0).and
      ((cardIf (decide (wBits w 1 32 32 ≠ 0)) 1).and ((cardIf (decide (wBits w 2 32 32 ≠ 0)) 2).and
      (match (List.range 8).find? fun i => decide (3 ≤ i) && decide (wN w i ≠ 0) with
        | some i => cardIf true i
        | none => .ok)))
     else
      (cardIf ((decide (kind < 3) && overStore n (cDsti w)) || (decide (kind ≠ 1) && decide (cSrci w = 0))) 0).and
      ((cardIf (decide (wBits w 1 48 4 ≠ 0) || decide (cRnd w ≥ 5) || decide (cSfmt w = 15) || decide (cDfmt w = 15) ||
          (!(cCvt w) && decide (cSfmt w ≠ cDfmt w)) ||
          (decide (kind = 3) && (cCvt w || !([0, 1, 2, 8, 12].contains (cSfmt w))))) 1).and
      ((cardIf (decide (wBits w 2 48 4 ≠ 0)) 2).and
      ((cardIf (decide (cE0 w = 0) || decide (cE1 w = 0) ||
          (decide (kind = 3) && (decide (cE1 w < 2) || decide (cE1 w > 2304) || decide (cE0 w % cE1 w ≠ 0)))) 3).and
      ((cardIf (decide (wBits w 4 0 26 ≠ 0) || (decide (kind = 1) && decide (cE2 w = 0)) ||
          (decide (kind = 2) && decide (cE2 w ≠ 1)) || (decide (kind = 3) && decide (cE2 w ≥ cE1 w))) 4).and
      ((cardIf (decide (kind = 3) && (decide (wBits w 6 0 2 = 3) || decide (wBits w 6 2 2 = 3))) 6).and
      (cardIf ((chain && overStore n (cNxti w)) || (decide (kind = 3) && (decide (cNxti w = 0) || overStore n (cNxti w)))) 7)
      ))))))))

/-- A tile box lies within its tile, which is not busy (R287, R37). -/
def cardTile (c : Core) (t f off : Nat) (w : List Word) (i : Nat) : Chk :=
  let x := tileOf c t
  let p := boxSpan w off i
  cardIf (decide (p.1 < 0) || decide ((p.2 + 1) * codeWidth f > 8 * tSize x.ctl) || tBusy x) 2

/-- The tiles of a copy or gather. -/
def cardTiles (c : Core) (kind : Nat) (w : List Word) : Chk :=
  if kind ≥ 3 then .ok
  else
    (if cSrci w = 0 then cardTile c (cStile w) (cSfmt w) (cSoff w) w 5 else .ok).and
      ((if cDsti w = 0 then cardTile c (cDtile w) (cDfmt w) (cDoff w) w 6 else .ok).and
        (cardIf (decide (kind = 2) && decide (4 * cE1 w > tSize (tileOf c (cItile w)).ctl)) 4))

/-- The handles a card takes from a store, with the rights it needs (R287). -/
def cardHandles (store : Tbl Word) (kind : Nat) (w : List Word) : List (Word × Nat) :=
  let h (i : Nat) := tblGet (0 : Word) store i
  let one (b : Bool) (i r : Nat) : List (Word × Nat) := if b && decide (i ≠ 0) then [(h i, r)] else []
  one (decide (kind ≠ 5)) (cSrci w) 0 ++ one (decide (kind < 3)) (cDsti w) 1 ++ one true (cBari w) 2 ++
    one (decide (kind = 3) || decide (kind = 5)) (cNxti w) 0

/-- The rights test of those handles. -/
def handlesChk (l : List (Word × Nat)) : Chk :=
  match l with
  | [] => .ok
  | (h, r) :: t => (handleChk h r).and (handlesChk t)

/-! ## Issue and acceptance (R285, R376) -/

/-- The job of the acting core that MEM has issued and the scheduler has not accepted. -/
def acceptingJob (s : State) : Option Job :=
  match (cc s).memReq with
  | some id => (dieOf s (coreDie s.cur.core)).jobs.find? fun j => decide (j.id = id) && decide (j.st = .accepting)
  | none => none

/-- The wait and checks of an XGATH on its index tile. -/
def indexChk (s : State) (kind : Nat) (w : List Word) : Chk :=
  if kind = 2 then
    let t := BitVec.ofNat 6 (cItile w)
    let m := chunkMask 0 (4 * cE1 w)
    (readyChk s t m).and (poisonChk s t m)
  else .ok

/-- The checks of an engine instruction: at issue its card tile and room, then, from c + 3 on, the card it sampled. -/
def chkJob (kind : Nat) (td : BitVec 6) (s : State) : Chk :=
  match acceptingJob s with
  | none =>
    let m := chunkMask 0 64
    (gangChk s).and <| (waitIf (decide ((dieOf s (coreDie s.cur.core)).jobs.length ≥ 256))).and ((readyChk s td m).and (poisonChk s td m))
  | some j =>
    if s.tick < j.accTick + 3 then .wait
    else
      (cardForm (storeCount (cc s)) kind false j.card).and ((cardTiles (cc s) kind j.card).and
        ((handlesChk (cardHandles (cc s).hstore kind j.card)).and (indexChk s kind j.card)))

/-- The first cycle: a position of the scheduler is taken, and the card is sampled in c + 2. -/
def beginCard (s : State) (kind : Nat) (td : BitVec 6) : State :=
  let c := cc s
  let fm := readFmt s
  let id := s.nextId
  let j : Job :=
    { id := id, core := s.cur.core, sec := s.cur.sec, off := s.cur.off, tile := td, kind := kind, card := [], dom := c.dom,
      store := c.hstore, mode := fmtRm fm, sat := fmtSat fm, ftz := fmtFtz fm, st := .accepting, accTick := s.tick,
      edges := [], chan := 0, done := 0, pois := 0, reads := [], bads := [], step := 0, arrived := false, nxt := (0, 0), words := [],
      key := 0, sbase := 0, ibase := 0, cnt := storeCount c, inb := [], wait := 0, woff := 0,
      span := (0, 0), phase := 0, det := none }
  let s := addSample (markRead { s with nextId := id + 1 } td) 2 2 (.card id)
  let s := updDie s (coreDie s.cur.core) fun y => { y with jobs := y.jobs ++ [j] }
  updCur s fun c => { c with memReq := some id }

/-- The card's sample. -/
def sampleCard (s : State) (k id : Nat) : State :=
  match jobFind s (coreDie k) id with
  | none => s
  | some j =>
    let c := coreOf s k
    let a := tBase (tileOf c j.tile.toNat).ctl
    jobUpd s (coreDie k) id fun j =>
      { j with card := (List.range 8).map fun i => BitVec.ofNat 64 (memRead c.arch.scratch (a + 8 * i) 8) }

/-! ### Footprints and edges (R375, R377, R481) -/

/-- A footprint: a tile of a core or an object, and its bits. -/
structure Foot where
  tile : Bool
  key : Nat
  lo : Int
  hi : Int
  deriving DecidableEq, Repr

/-- Whether two footprints overlap. -/
def footMeet (a b : Foot) : Bool :=
  decide (a.tile = b.tile) && decide (a.key = b.key) && decide (a.lo < b.hi) && decide (b.lo < a.hi)

/-- Whether any footprint of one list overlaps one of another. -/
def feetMeet (a b : List Foot) : Bool := a.any fun x => b.any fun y => footMeet x y

/-- The object or tile of a card's side: of a tile the scratchpad bytes of the elements (R375). -/
def sideFoot (j : Job) (i t : Nat) (lo hi : Int) (w : Nat) : Foot :=
  if i = 0 then { tile := true, key := 64 * j.core + t, lo := (lo * w).fdiv 8 * 8, hi := ((hi + 1) * w + 7).fdiv 8 * 8 }
  else { tile := false, key := (tblGet (0 : Word) j.store i).toNat / 2 ^ 28, lo := lo * w, hi := (hi + 1) * w }

/-- The whole of an object. -/
def wholeFoot (j : Job) (i : Nat) : Foot :=
  { tile := false, key := (tblGet (0 : Word) j.store i).toNat / 2 ^ 28, lo := 0, hi := 2 ^ 60 }

/-- Read and write footprints of a job. -/
def jobFeet (j : Job) : List Foot × List Foot :=
  let w := j.card
  if j.kind = 5 then ([], [])
  else if j.kind = 4 then ([wholeFoot j (cSrci w)], [wholeFoot j (cSrci w)])
  else if j.kind = 3 then
    let f := sideFoot j (cSrci w) 0 (cSoff w) ((cSoff w : Int) + cE0 w - 1) (codeWidth (cSfmt w))
    ([f], [f])
  else
    let d := boxSpan w (cDoff w) 6
    let p := boxSpan w (cSoff w) 5
    let src := if j.kind = 2 then
        [sideFoot j (cSrci w) 0 j.span.1 j.span.2 (codeWidth (cSfmt w)), { tile := true, key := 64 * j.core + cItile w, lo := 0, hi := 32 * cE1 w }]
      else [sideFoot j (cSrci w) (cStile w) p.1 p.2 (codeWidth (cSfmt w))]
    (src, [sideFoot j (cDsti w) (cDtile w) d.1 d.2 (codeWidth (cDfmt w))])

/-- Whether job b waits for the earlier job a. -/
def jobEdge (a b : Job) : Bool :=
  let x := jobFeet a
  let y := jobFeet b
  feetMeet x.2 y.1 || feetMeet x.1 y.2 || feetMeet x.2 y.2

/-- The elements that a job writes of its destination, in ascending order of their box numbers. -/
def dstElems (w : List Word) : List Int := boxElems w (cDoff w) 6

/-- The chunks of the destination tile that a job writes. -/
def writtenChunks (ctl : Word) (w : List Word) : BitVec 128 :=
  BitVec.ofNat 128 (((dstElems w).map fun e => e.toNat * codeWidth (cDfmt w) / 8 / 512).eraseDups.foldl
    (fun a k => if 512 * k < tSize ctl then a + 2 ^ k else a) 0)

/-- The bounding range of a gather's source, by the indices that its index tile holds (R288, R375). -/
def gatherSpan (m : Mem) (ibase : Nat) (w : List Word) : Int × Int :=
  let at_ (i1 : Nat) : Int := (cSoff w : Int) + memRead m (ibase + 4 * i1) 4 * cStride w 5 0
  let l := (List.range (cE1 w)).map at_
  (l.foldl min (l.headD 0), l.foldl max (l.headD 0) + cE0 w - 1)

/-- The job is accepted (R285, R376): its edges are fixed, a destination tile is armed (R289), and the effect leaves when the
segment commits (R268). -/
def acceptJob (s : State) (j : Job) : State :=
  let d := coreDie s.cur.core
  let c := cc s
  let s := updCur s fun c => { c with memReq := none, leaving := c.leaving ++ [.job d j.id] }
  let j := { j with st := .accepted, accTick := s.tick,
                    nxt := (cNxti j.card, cNxtx j.card), sbase := tBase (tileOf c (cStile j.card)).ctl,
                    ibase := tBase (tileOf c (cItile j.card)).ctl,
                    span := if j.kind = 2 then gatherSpan c.arch.scratch (tBase (tileOf c (cItile j.card)).ctl) j.card else (0, 0) }
  let j := { j with edges := if j.kind = 5 then [] else
                      ((dieOf s d).jobs.filter fun a => decide (a.st ≠ .accepting) && decide (a.kind ≠ 5) && jobEdge a j).map
                        Job.id }
  let s := updDie s d fun y => { y with jobs := y.jobs.filter (fun a => decide (a.id ≠ j.id)) ++ [j] }
  let s := if j.kind = 2 then markRead s (BitVec.ofNat 6 (cItile j.card)) else s
  if j.kind ≤ 2 ∧ cDsti j.card = 0 then
    let t := cDtile j.card
    let x := tileOf c t
    let m := tMask x &&& ~~~(writtenChunks x.ctl j.card)
    let s := armTile s (BitVec.ofNat 6 t) (.job d j.id) (some (BitVec.ofNat 12 (cTag j.card)))
    land (land s 1 (.t t 1 (m.extractLsb' 0 64))) 1 (.t t 2 (m.extractLsb' 64 64))
  else s

/-- Issues, waits for, accepts or faults an engine instruction (R285). -/
def issueJob (kind : Nat) (td : BitVec 6) (s : State) : Host.Outcome State Fault Refusal :=
  match acceptingJob s with
  | none =>
    match chkJob kind td s with
    | .ok => .next (beginCard s kind td)
    | k => perform s k fun s => s
  | some j =>
    match chkJob kind td s with
    | .fault c x y => .next (precise (dropAccepting s s.cur.core) c x y)
    | .rewind => .next (askRewind s s.cur.core none)
    | k => perform s k fun s => acceptJob s j

/-- XCOPY (R285, R288). -/
def execXcopy (td : BitVec 6) (s : State) : Host.Outcome State Fault Refusal := issueJob 1 td s
/-- XCHAIN (R285, R292). -/
def execXchain (td : BitVec 6) (s : State) : Host.Outcome State Fault Refusal := issueJob 5 td s
/-- XGATH (R285, R288). -/
def execXgath (td : BitVec 6) (s : State) : Host.Outcome State Fault Refusal := issueJob 2 td s
/-- XCOLL (R285, R294). -/
def execXcoll (td : BitVec 6) (s : State) : Host.Outcome State Fault Refusal := issueJob 3 td s
/-- GSTEP (R285, R479). -/
def execGstep (td : BitVec 6) (s : State) : Host.Outcome State Fault Refusal := issueJob 4 td s

/-! ## Requests and records of a job -/

/-- A handle of the context's store, as the job took it (R286). -/
def jobH (j : Job) (i : Nat) : Word := tblGet (0 : Word) j.store i

/-- The card a job runs: a chain's current one, else its own. -/
def jobCard (j : Job) : List Word := if j.kind = 5 then j.words else j.card

/-- The unit that runs a job (R345): a copy channel, the task scheduler's collective engine, the halo engine. -/
def jobUnit (j : Job) : Nat := if j.kind = 4 then 3 else if j.kind = 3 then 2 else 1

/-- Word 7 of a job's records (R345). -/
def jobSrc (j : Job) : Word :=
  BitVec.ofNat 64 (j.off % 2 ^ 32 * 2 ^ 32 + j.tile.toNat * 2 ^ 16 + coreNum j.core % 128 * 2 ^ 8 + j.kind)

/-- The link of a request to its job. -/
def jobEng (d : Nat) (j : Job) : Eng :=
  { die := d, job := j.id, unit := jobUnit j, num := j.chan - 1, src := jobSrc j, poison := false, fail := none }

/-- A request of a job. -/
def jobReq (s : State) (d : Nat) (j : Job) (h : Word) (op : ReqOp) (w : Nat) (elems : List (Nat × Int)) (e : Eng) : Req :=
  { id := s.nextId, core := j.core, sec := j.sec, off := j.off, handler := false, die := d, dom := j.dom, handle := h,
    op := op, w := w, elems := elems, data := [], left := [], ready := s.tick, rdAt := none, st := .issued, eng := some e, det := none,
    miss := [], bad := none, asks := 0, want := [], bads := [] }

/-- An arrival of sy bytes at element x of a barrier, or its poisoning (R283, R290, R291). -/
def jobBarrier (s : State) (d : Nat) (j : Job) (h : Word) (x : Nat) (sy : Nat) (e : Eng) : State :=
  let r := jobReq s d j h (.bara false e.poison (BitVec.ofNat 64 x) (BitVec.ofNat 64 sy)) 8 [] e
  resolveAtomic (reqAdd s r) r (.bara x false e.poison sy)

/-- The kind-3 record of a failed job (R347). -/
def failRecord (d : Nat) (j : Job) (code : Nat) (h : Word) (off : Nat) : FRec :=
  { kind := 3, code := code, unit := jobUnit j, num := j.chan - 1, die := d, handle := h, off := BitVec.ofNat 64 off,
    prog := BitVec.ofNat 64 j.done, token := 0, src := jobSrc j }

/-- The job leaves the scheduler: its entry and its engine are free. -/
def endJob (s : State) (d id : Nat) : State := updDie s d fun y => { y with jobs := y.jobs.filter fun j => decide (j.id ≠ id) }

/-- Poisons the barrier of a failed job, then posts its record (R344); without a barrier the record alone. -/
def poisonThen (s : State) (d : Nat) (j : Job) (w : List Word) (rec : Option FRec) : State :=
  if cBari w = 0 then
    match rec with
    | some r => postRecord s d r
    | none => s
  else jobBarrier s d j (jobH j (cBari w)) (cBarx w) 0 { jobEng d j with poison := true, fail := rec }

/-- A job fails (R290, R292): its unfinished destination chunks are complete and poisoned, the barriers are poisoned, the
record is posted. arrival: a failure of its last step (R291), which leaves the tile and its own barrier as they are. -/
def failJob (s : State) (d : Nat) (j : Job) (code : Nat) (h : Word) (off : Nat) (arrival : Bool) : State :=
  let s := s.reqs.foldl (fun s r =>
    match r.eng with
    | some e => if e.die = d ∧ e.job = j.id ∧ !e.poison then reqDel s r.id else s
    | none => s) s
  let t := cDtile j.card
  let s := rearm (endJob s d j.id) j.core t (.job d j.id)
  let s := if j.kind ≤ 2 ∧ cDsti j.card = 0 ∧ !arrival ∧ (tileOf (coreOf s j.core) t).prod = .job d j.id then
      updCore s j.core fun c =>
        let m := tMask (tileOf c t) &&& ~~~(tileOf c t).map
        outBits c t m m
    else s
  let rec' := failRecord d j code h off
  if j.kind = 5 then
    let s := if j.words.isEmpty || arrival then s else poisonThen s d j j.words none
    if arrival && j.words.isEmpty then postRecord s d rec' else poisonThen s d j j.card (some rec')
  else if arrival then postRecord s d rec'
  else poisonThen s d j j.card (some rec')

/-- The next card of a chain is to be read, or there is none (R292). -/
def chainNext (s : State) (d id : Nat) : State := post s (later s 1 id) .chainCardRead { Ev.none with die := d, id := id }

/-- The arrival of a job, of a chain's card, or of a chain that has ended; where it names no barrier, its end. -/
def arriveJob (s : State) (d : Nat) (j : Job) : State :=
  let w := if j.kind = 5 ∧ j.words.isEmpty then j.card else jobCard j
  let sy := if j.kind = 5 ∧ j.words.isEmpty then 0 else j.done
  let s := jobUpd s d j.id fun j => { j with arrived := true }
  if cBari w = 0 then post s s.tick .jobComplete { Ev.none with die := d, id := j.id, flag2 := true }
  else jobBarrier s d j (jobH j (cBari w)) (cBarx w) sy (jobEng d j)

/-! ## Objects of a job -/

/-- What a job finds at an object. -/
inductive JobObj where
  | ok (o : Obj) (ent : List Word)
  | fail (code off : Nat)
  | park (off : Nat)
  | moving
  | remote (pkg : Nat) (ent : List Word)
  deriving DecidableEq, Repr

/-- Resolves one side of a job over its elements (R264, R290), to write them where write says so. -/
def jobObj (s : State) (d : Nat) (j : Job) (h : Word) (right : Nat) (els : List Int) (w : Nat) (write : Bool := decide (right = 1)) : JobObj :=
  let first := lowByte w els
  match resolve s d j.dom.toNat h right with
  | .fault c => .fail c first
  | .deferred => .park first
  | .remote p ent => .remote p ent
  | .ok o ent =>
    match els.find? fun e => (elemBit o w e).isNone with
    | some e => .fail 25 (e.toNat * w / 8)
    | none =>
      match extChk s d j.dom.toNat o write w els with
      | .rights b => .fail 23 b
      | .deferred b => .park b
      | .moving => .moving
      | .ok => .ok o ent

/-- A job parks at an object (R290): its destination tile enters PFAULT; a chain keeps its channel. -/
def parkJob (s : State) (d : Nat) (j : Job) (h : Word) (off : Nat) : State :=
  let tok := s.token
  let s := jobUpd { s with token := s.token + 1 } d j.id fun j =>
    { j with st := .parked tok, wait := h, woff := off, chan := if j.kind = 5 then j.chan else 0 }
  let t := cDtile j.card
  let s := if j.kind ≤ 2 ∧ cDsti j.card = 0 ∧ (tileOf (coreOf s j.core) t).prod = .job d j.id then
      updCore s j.core fun c => outTile c t fun x => { x with ctl := setField x.ctl 37 3 2 }
    else s
  postRecord s d
    { kind := 2, code := 0, unit := jobUnit j, num := j.chan - 1, die := d, handle := h, off := BitVec.ofNat 64 off,
      prog := BitVec.ofNat 64 j.done, token := tok, src := jobSrc j }

/-- A step of a running job that is still to come. -/
def jobAgain (s : State) (d id due : Nat) (phase : Bool) : State :=
  post s due .jobStart { Ev.none with die := d, id := id, flag := phase }

/-- The codes of elements of an object read through the die's cache; a poisoned block gives a free code and its mark. -/
def readElems (s : State) (d : Nat) (o : Obj) (ent : List Word) (w : Nat) (els : List Int) : State × List (Nat × Bool) :=
  let bits := els.map fun e => (elemBit o w e).getD 0
  let rd := readBlocks s d o ent (bits.map (blockOf o)).eraseDups
  (rd.1, bits.map fun b =>
    match bitsFrom o rd.2 b w with
    | some (v, false) => (v, false)
    | _ => ((Config.word s.tick b).toNat % 2 ^ w, true))

/-- Engine writes of codes to elements of an object, in order (R288, R380), and whether they performed: they wait while another die
cannot write back what it holds there. -/
def writeElems (s : State) (o : Obj) (w : Nat) (l : List (Int × Nat)) : State × Bool :=
  let bl := elemBlocks o w (l.map Prod.fst)
  let s := flushBlocks s o bl
  if blocksHeld s o bl then (s, false)
  else
    (l.foldl (fun s x =>
      match elemBit o w x.1 with
      | some b => homeWrite s o [] b w x.2
      | none => s) s, true)

/-- A request of a job to another package; use says what a read is for (see jobAnswer). -/
def jobRemote (s : State) (d : Nat) (j : Job) (h : Word) (pkg : Nat) (ent : List Word) (op : ReqOp) (w : Nat)
    (els : List Int) (data : List (Nat × Word32)) (use : Nat := 0) : State :=
  let r := { jobReq s d j h op w ((List.range els.length).zip els) (jobEng d j) with data := data, left := [use] }
  sendRemote (reqAdd s r) r pkg ent

/-! ## Copies and gathers (R288, R289, R293) -/

/-- A rounding mode by its fmt.rm code. -/
def modeCode (n : Nat) : RM :=
  match n with
  | 0 => .rne
  | 1 => .rtz
  | 2 => .rup
  | 3 => .rdn
  | _ => .rst

/-- The source elements of a copy; of a gather, through the indices that its index tile holds. -/
def srcElems (m : Mem) (j : Job) (w : List Word) : List Int :=
  if cKind w = 2 then
    (List.range (cE1 w)).flatMap fun (i1 : Nat) => (List.range (cE0 w)).map fun (i0 : Nat) =>
      (cSoff w : Int) + memRead m (j.ibase + 4 * i1) 4 * cStride w 5 0 + i0
  else boxElems w (cSoff w) 5

/-- The rounding of a job: its card's, or the issuer's, which a collective always takes (R286, R294). -/
def jobRnd (j : Job) (w : List Word) : Rnd :=
  { mode := modeCode (if cRnd w = 0 ∨ j.kind = 3 then j.mode else cRnd w - 1), sat := j.sat, ftz := j.ftz, rng := 0 }

/-- The destination code of a source code (R288). -/
def jobConvert (j : Job) (w : List Word) (v : Nat) : Nat :=
  if cCvt w then
    let ty (f : Nat) := fmtNty ((fmtOf (BitVec.ofNat 4 f)).getD .fp32)
    convert (ty (cDfmt w)) (ty (cSfmt w)) (jobRnd j w) v
  else v

/-- One side of a job's card: none where it is a tile. -/
def sideObj (s : State) (d : Nat) (j : Job) (i right : Nat) (els : List Int) (w : Nat) : Option JobObj :=
  if i = 0 then none else some (jobObj s d j (jobH j i) right els w)

/-- Whether a job may go on at a side. -/
def sideOk (x : Option JobObj) : Bool :=
  match x with
  | none => true
  | some (.ok _ _) => true
  | some (.remote _ _) => true
  | _ => false

/-- What a job does at a side where it may not go on. -/
def jobStop (s : State) (d : Nat) (j : Job) (h : Word) (x : Option JobObj) : State :=
  match x with
  | some (.fail c off) => failJob s d j c h off false
  | some (.park off) => parkJob s d j h off
  | some .moving => postMv s .jobStart { Ev.none with die := d, id := j.id } (h.toNat / 2 ^ 28)
  | _ => s

/-- The scratchpad as the job's reader has sampled it. -/
def jobMem (s : State) (j : Job) : Mem := readerMem (coreOf s j.core) j.key

/-- Destination bytes of a card. -/
def cardBytes (w : List Word) : Nat := (cE0 w * cE1 w * cE2 w * codeWidth (cDfmt w) + 7) / 8

/-- The start of a copy or gather: its rounding (R293), both sides resolved; then it samples a source tile, and its reads
and writes are a second phase. -/
def copyStart (s : State) (d : Nat) (j : Job) : State :=
  let w := jobCard j
  let hs := jobH j (cSrci w)
  let hd := jobH j (cDsti w)
  if cRnd w = 0 ∧ 4 ≤ j.mode then failJob s d j 64 (if cDsti w = 0 then hs else hd) 0 false
  else
    let els := srcElems (coreOf s j.core).arch.scratch j w
    let so := sideObj s d j (cSrci w) 0 els (codeWidth (cSfmt w))
    let dn := sideObj s d j (cDsti w) 1 (dstElems w) (codeWidth (cDfmt w))
    if !(sideOk so) then jobStop s d j hs so
    else if !(sideOk dn) then jobStop s d j hd dn
    else
      match so with
      | some (.remote p ent) => jobRemote s d j hs p ent .jobRead (codeWidth (cSfmt w)) els []
      | _ =>
        let due := s.tick + 2 + Config.delay s.tick j.id
        let key := s.nextId
        let s := addReader s j.core s.tick (.upTo (due - 1))
        jobAgain (jobUpd s d j.id fun j => { j with key := key }) d j.id due true

/-- Codes in the order of their numbers. -/
def insCode (x : Nat × Word32) (l : List (Nat × Word32)) : List (Nat × Word32) :=
  match l with
  | [] => [x]
  | y :: r => if x.1 ≤ y.1 then x :: y :: r else y :: insCode x r

/-- The source codes of a copy, each with whether its block was poisoned; m is the scratchpad as the job's reader has sampled it. -/
def copyRead (s : State) (d : Nat) (j : Job) (m : Mem) (w : List Word) (els : List Int) (so : Option JobObj) :
    State × List (Nat × Bool) :=
  let n := codeWidth (cSfmt w)
  match so with
  | some (.ok o ent) => readElems s d o ent n els
  | some _ => (s, (j.reads.foldr insCode []).map fun x => (x.2.toNat % 2 ^ n, j.bads.contains x.1))
  | none =>
    (s, els.map fun e =>
      let b := e.toNat * n
      (memRead m (j.sbase + b / 8) ((b % 8 + n + 7) / 8) / 2 ^ (b % 8) % 2 ^ n, false))

/-- A copy into a tile: its chunks land one by one (R289, R379). -/
def copyTile (s : State) (d : Nat) (j : Job) (w : List Word) (l : List (Int × Nat × Bool)) : State :=
  let ctl := (tileOf (coreOf s j.core) (cDtile w)).ctl
  let n := codeWidth (cDfmt w)
  let at_ (e : Int) := 8 * tBase ctl + e.toNat * n
  let ks := (l.map fun x => chunkAt ctl (at_ x.1)).eraseDups
  let bad := ((l.filter fun x => x.2.2).map fun x => chunkAt ctl (at_ x.1)).eraseDups
  let s := jobUpd s d j.id fun j =>
    { j with done := cardBytes w, reads := l.map (fun x => (at_ x.1, BitVec.ofNat 32 x.2.1)),
             pois := BitVec.ofNat 128 (bad.foldl (fun a k => a + 2 ^ k) 0) }
  ks.foldl (fun s k => post s (s.tick + 1 + Config.delay s.tick (j.id * 256 + k)) .tileChunkLands
    { Ev.none with die := d, id := j.id, n := k, flag2 := true }) s

/-- The reads and writes of a copy or gather (R288). answered: the source codes have come from another package. -/
def copyGo (s : State) (d : Nat) (j : Job) (answered : Bool) : State :=
  let w := jobCard j
  let m := jobMem s j
  let els := srcElems m j w
  let so := if answered then some (JobObj.remote 0 []) else sideObj s d j (cSrci w) 0 els (codeWidth (cSfmt w))
  let dn := sideObj s d j (cDsti w) 1 (dstElems w) (codeWidth (cDfmt w))
  let again := match so with
    | some (.remote _ _) => !answered
    | _ => false
  let s := updCore s j.core fun c => dropReader c j.key
  if !(sideOk so) || !(sideOk dn) || again then copyStart s d j
  else
    let rd := copyRead s d j m w els so
    let s := rd.1
    let l := ((dstElems w).zip rd.2).map fun x => (x.1, jobConvert j w x.2.1, x.2.2)
    match dn with
    | none => copyTile s d j w l
    | some (.ok o _) =>
      let y := writeElems s o (codeWidth (cDfmt w)) (l.map fun x => (x.1, x.2.1))
      if y.2 then
        let s := jobUpd y.1 d j.id fun j => { j with done := cardBytes w }
        post s (later s 1 j.id) .jobComplete { Ev.none with die := d, id := j.id }
      else post y.1 (s.tick + 1) .jobStart { Ev.none with die := d, id := j.id, flag2 := answered }
    | some (.remote p ent) =>
      jobRemote s d j (jobH j (cDsti w)) p ent .jobWrite (codeWidth (cDfmt w)) (l.map fun x => x.1)
        ((List.range l.length).zip (l.map fun x => BitVec.ofNat 32 x.2.1))
    | _ => s

/-! ## Chains (R292) -/

/-- The 16 words of 32 bits of a card as its 8 words. -/
def cardWords (l : List (Nat × Bool)) : List Word :=
  (List.range 8).map fun i => BitVec.ofNat 64 ((l.getD (2 * i) (0, false)).1 + 2 ^ 32 * (l.getD (2 * i + 1) (0, false)).1)

/-- The elements of card x of an object, as 32-bit elements. -/
def cardElems (x : Nat) : List Int := (List.range 16).map fun i => ((16 * x + i : Nat) : Int)

/-- The handles of a card that lack a right it needs: the first. -/
def badHandle (l : List (Word × Nat)) : Option Word :=
  (l.find? fun x => decide (hIndex x.1 = 0) || decide (hRights x.1 / 2 ^ x.2 % 2 = 0)).map Prod.fst

/-- Steps 2 and 3 of R292 on a card as the channel has sampled it, then its run as a job. -/
def chainCard (s : State) (d : Nat) (j : Job) (w : List Word) : State :=
  let j' := { j with words := w, done := 0, arrived := false, phase := 0 }
  if !(cOwn w) then arriveJob (jobUpd s d j.id fun j => { j with words := [] }) d { j with words := [] }
  else
    let bad := !([1, 2].contains (cKind w)) || decide (cSrci w = 0) || decide (cDsti w = 0) ||
      decide (cardForm j.cnt (cKind w) true w ≠ .ok) || decide (cardTiles (coreOf s j.core) (cKind w) w ≠ .ok)
    if bad then failJob s d j' 28 (jobH j j.nxt.1) 0 false
    else
      match badHandle (cardHandles j.store (cKind w) w) with
      | some h => failJob s d j' 23 h 0 false
      | none =>
        let b := tBase (tileOf (coreOf s j.core) (cItile w)).ctl
        jobAgain (jobUpd s d j.id fun j => { j with words := w, done := 0, arrived := false, phase := 0, ibase := b }) d j.id (s.tick + 1) false

/-- CHAIN_CARD_READ (R292): the channel reads the card at its reference, or the chain ends. flag2: the card has come from
another package. -/
def execChainCardRead (s : State) : Host.Outcome State Fault Refusal :=
  let d := s.ev.die
  match jobFind s d s.ev.id with
  | none => .next s
  | some j =>
    if j.nxt.1 = 0 then .next (arriveJob s d { j with words := [] })
    else if j.nxt.1 ≥ j.cnt then .next (failJob s d { j with words := [] } 28 0 0 false)
    else
      let h := jobH j j.nxt.1
      if s.ev.flag2 then .next (chainCard s d j (cardWords (j.reads.map fun x => (x.2.toNat, false))))
      else if decide (hIndex h = 0) || decide (hRights h % 2 = 0) then .next (failJob s d { j with words := [] } 23 h 0 false)
      else
        match jobObj s d j h 0 (cardElems j.nxt.2) 32 with
        | .ok o ent =>
          let r := readElems s d o ent 32 (cardElems j.nxt.2)
          .next (chainCard r.1 d j (cardWords r.2))
        | .fail c off => .next (failJob s d { j with words := [] } c h off false)
        | .park off => .next (parkJob s d j h off)
        | .moving => .next (post s (s.tick + 1) .chainCardRead s.ev)
        | .remote p ent => .next (jobRemote s d j h p ent .jobRead 32 (cardElems j.nxt.2) [])

/-- Writes a card's word 0 back with own 0, then signals the card's barrier (R292, step 4); where the write must wait, or is made by
another package, the job completes later. -/
def disownCard (s : State) (d : Nat) (j : Job) : State :=
  let h := jobH j j.nxt.1
  let e : Int := ((16 * j.nxt.2 : Nat) : Int)
  let v := wN j.words 0 - wN j.words 0 / 128 % 2 * 128
  let el := [e, e + 1]
  let done : Ev := { Ev.none with die := d, id := j.id }
  let s := jobUpd s d j.id fun j => { j with phase := 1 }
  match jobObj s d j h 0 el 32 true with
  | .ok o _ =>
    let y := writeElems s o 32 [(e, v % 2 ^ 32), (e + 1, v / 2 ^ 32)]
    if y.2 then arriveJob y.1 d j else post y.1 (s.tick + 1) .jobComplete done
  | .moving => postMv s .jobComplete done (h.toNat / 2 ^ 28)
  | .remote p ent =>
    jobRemote (jobUpd s d j.id fun j => { j with phase := 2 }) d j h p ent .jobWrite 32 el
      [(0, BitVec.ofNat 32 v), (1, BitVec.ofNat 32 (v / 2 ^ 32))]
  | x => jobStop s d j h (some x)

/-! ## Collectives (R294) -/

/-- The steps of a collective. -/
def collSteps (w : List Word) : Nat := if wBits w 6 2 2 = 2 then 2 * (cE1 w - 1) else cE1 w - 1

/-- Whether a step combines: a step of the reduce-scatter ring. -/
def collReduces (w : List Word) (t : Nat) : Bool :=
  decide (wBits w 6 2 2 = 0) || (decide (wBits w 6 2 2 = 2) && decide (t < cE1 w - 1))

/-- The segment that rank r sends in a step. -/
def collSends (w : List Word) (r t : Nat) : Nat :=
  let n := cE1 w
  if collReduces w t then (r + n - t % n) % n
  else
    let t := if wBits w 6 2 2 = 2 then t - (n - 1) else t
    (r + 1 + n - t % n) % n

/-- The elements of a segment. -/
def collElems (w : List Word) (g : Nat) : List Int :=
  let m := cE0 w / cE1 w
  (List.range m).map fun i => ((cSoff w + g * m + i : Nat) : Int)

/-- The combining operator. -/
def collOp (w : List Word) : CombOp := match wBits w 6 0 2 with | 0 => .add | 1 => .max | _ => .min

/-- The cycle in which step t begins. -/
def collStart (w : List Word) (t : Nat) : Nat := wN w 5 + t * wBits w 6 32 32

/-- The tick of a cycle of gcyc, not before the next tick. -/
def tickOf (s : State) (cyc : Nat) : Nat := if cyc ≤ s.gcyc.toNat then s.tick + 1 else s.tick + (cyc - s.gcyc.toNat)

/-- Whether a job is a collective that takes what arrives for it. -/
def collLive (j : Job) : Bool :=
  decide (j.kind = 3) && (match j.st with | .running => true | .ready => true | .waiting => true | .parked _ => true | _ => false)

/-- The bytes of a segment. -/
def collNeed (w : List Word) : Nat := cE0 w / cE1 w * codeWidth (cSfmt w) / 8

/-- The bytes of a segment as codes. -/
def segCodes (w : Nat) (bs : List Byte) (n : Nat) : List Nat :=
  (List.range n).map fun i => natOfBytes (bs.drop (i * (w / 8)) |>.take (w / 8))

/-- The elements of the segment that is to come in. -/
def collComing (j : Job) : List Int :=
  let w := j.card
  let n := cE1 w
  collElems w (collSends w ((cE2 w + n - 1) % n) j.step)

/-- What is to be written of the incoming segment: combined with the member's own codes, or as it came (R294); subnormals are flushed
under ftz (R124). -/
def collCodes (j : Job) (own : List Nat) : List Nat :=
  let w := j.card
  let f := (fmtOf (BitVec.ofNat 4 (cSfmt w))).getD .fp32
  let inc := segCodes (codeWidth (cSfmt w)) (j.inb.take (collNeed w)) (collComing j).length
  if collReduces w j.step then (own.zip inc).map fun x => combine (collOp w) f (jobRnd j w) (flushCode f j.ftz x.1) (flushCode f j.ftz x.2)
  else inc

/-- A later look at what has come in. -/
def collLook (d : Nat) (j : Job) : Ev := { Ev.none with die := d, id := j.id, flag := true }

/-- An incoming segment stands in the buffer; the next one that has come whole is looked at. -/
def collNext (s : State) (d : Nat) (j : Job) : State :=
  let w := j.card
  let s := jobUpd s d j.id fun j =>
    { j with step := j.step + 1, phase := 0, inb := j.inb.drop (collNeed w), done := j.done + collNeed w }
  if j.inb.length ≥ 2 * collNeed w then post s (s.tick + 1) .collectiveStep (collLook d j) else s

/-- Writes the codes of the incoming segment into the member's buffer. -/
def collWrite (s : State) (d : Nat) (j : Job) (own : List Nat) : State :=
  let h := jobH j (cSrci j.card)
  let wd := codeWidth (cSfmt j.card)
  let els := collComing j
  let new := collCodes j own
  match jobObj s d j h 0 els wd true with
  | .ok o _ =>
    let y := writeElems s o wd (els.zip new)
    if y.2 then collNext y.1 d j else post y.1 (s.tick + 1) .collectiveStep (collLook d j)
  | .moving => postMv s .collectiveStep (collLook d j) (h.toNat / 2 ^ 28)
  | .remote p ent =>
    jobRemote (jobUpd s d j.id fun j => { j with phase := 1 }) d j h p ent .jobWrite wd els
      ((List.range new.length).zip (new.map fun v => BitVec.ofNat 32 v))
  | x => jobStop s d j h (some x)

/-- The incoming segment of a step has arrived whole: the member's own is read, then written (R294). -/
def collApply (s : State) (d : Nat) (j : Job) : State :=
  let h := jobH j (cSrci j.card)
  let wd := codeWidth (cSfmt j.card)
  let els := collComing j
  match jobObj s d j h 0 els wd with
  | .ok o ent =>
    let own := readElems s d o ent wd els
    collWrite own.1 d j (own.2.map Prod.fst)
  | .remote p ent => jobRemote (jobUpd s d j.id fun j => { j with phase := 1 }) d j h p ent .jobRead wd els [] 2
  | x => jobStop s d j h (some x)

/-- Bytes of a collective arrive at a member. -/
def collArrive (s : State) (d : Nat) (j : Job) (bs : List Byte) : State :=
  let j := { j with inb := j.inb ++ bs }
  let s := jobUpd s d j.id fun x => { x with inb := j.inb }
  if j.inb.length ≥ collNeed j.card ∧ j.phase = 0 ∧ j.st = .running then collApply s d j else s

/-- The group entry of the next rank has been read: the steps begin at T0. -/
def collEntry (s : State) (d : Nat) (j : Job) (v : Nat) : State :=
  post (jobUpd s d j.id fun j => { j with words := [BitVec.ofNat 64 v] }) (tickOf s (wN j.card 5)) .collectiveStep
    { Ev.none with die := d, id := j.id, n := 0 }

/-- The start of a collective job: T0 must lie ahead (R423), the buffer and the group object must resolve; one that has begun goes on
where it stopped (R290). -/
def collBegin (s : State) (d : Nat) (j : Job) : State :=
  let w := j.card
  let hb := jobH j (cSrci w)
  let hg := jobH j (cNxti w)
  if !j.words.isEmpty then post s (s.tick + 1) .collectiveStep (collLook d j)
  else if 4 ≤ j.mode then failJob s d j 64 hb 0 false
  else if wN w 5 < s.gcyc.toNat then failJob s d j 66 hb 0 false
  else
    let buf : List Int := (List.range (cE0 w)).map fun i => ((cSoff w + i : Nat) : Int)
    let me := (cE2 w + 1) % cE1 w
    let grp : List Int := [((2 * me : Nat) : Int), ((2 * me + 1 : Nat) : Int)]
    let x := jobObj s d j hb 0 buf (codeWidth (cSfmt w)) 
    if !(sideOk (some x)) then jobStop s d j hb (some x)
    else
      match jobObj s d j hg 0 grp 32 with
      | .ok og entg =>
        let g := readElems s d og entg 32 grp
        collEntry g.1 d j ((g.2.getD 0 (0, false)).1 + 2 ^ 32 * (g.2.getD 1 (0, false)).1)
      | .remote p ent => jobRemote s d j hg p ent .jobRead 32 grp []
      | y => jobStop s d j hg (some y)

/-- The member's job on a die of this package, by core and group object. -/
def collPeer (s : State) (d core : Nat) (grp : Nat) : Option Job :=
  (dieOf s d).jobs.find? fun j =>
    collLive j && decide (coreNum j.core = core) && isCompute j.core && decide ((jobH j (cNxti j.card)).toNat / 2 ^ 28 = grp)

/-- A segment goes to the next rank, over the package or in the collective engine's share of the frame tables. -/
def collShip (s : State) (d : Nat) (j : Job) (codes : List Nat) : State :=
  let bs := codes.flatMap fun x => bytesOf x (codeWidth (cSfmt j.card) / 8)
  let e := wN j.words 0
  let pkg := e / 2 ^ 52
  let die := e / 2 ^ 50 % 4
  if pkg = s.pkg.toNat then
    match collPeer s die (e / 2 ^ 43 % 128) ((jobH j (cNxti j.card)).toNat / 2 ^ 28) with
    | some q => post s (later s 1 j.id) .collectiveStep { Ev.none with die := die, id := q.id, flag := true, bytes := bs }
    | none => s
  else updDie s d fun y => { y with coll := y.coll ++ [(pkg, die, bs)] }

/-- The start of step t of a member: its segment is read and sent. Where the read must wait the step begins when the job goes on. -/
def collSend (s : State) (d : Nat) (j : Job) (t : Nat) : State :=
  let w := j.card
  let wd := codeWidth (cSfmt w)
  let els := collElems w (collSends w (cE2 w) t)
  let go (s : State) := post s (tickOf s (collStart w (t + 1))) .collectiveStep { Ev.none with die := d, id := j.id, n := t + 1 }
  match jobObj s d j (jobH j (cSrci w)) 0 els wd with
  | .ok o ent =>
    let r := readElems s d o ent wd els
    go (collShip r.1 d j (r.2.map Prod.fst))
  | .remote p ent => go (jobRemote s d j (jobH j (cSrci w)) p ent .jobRead wd els [] 1)
  | x => post (jobStop s d j (jobH j (cSrci w)) (some x)) (s.tick + 1) .collectiveStep { Ev.none with die := d, id := j.id, n := t }

/-- COLLECTIVE_STEP (R294): a step begins, or (flag) bytes of an incoming segment arrive. A segment that has not arrived whole by the
start of the next step fails the job; one that is still being applied, and a parked job, hold the step up. -/
def execCollectiveStep (s : State) : Host.Outcome State Fault Refusal :=
  let d := s.ev.die
  let t := s.ev.n
  match jobFind s d s.ev.id with
  | none => .next s
  | some j =>
    if s.ev.flag then .next (collArrive s d j s.ev.bytes)
    else if j.st ≠ .running then .next (post s (s.tick + 1) .collectiveStep s.ev)
    else if j.step < t then
      if j.inb.length ≥ collNeed j.card then .next (post s (s.tick + 1) .collectiveStep s.ev)
      else .next (failJob s d j 65 (jobH j (cSrci j.card)) (cSoff j.card * codeWidth (cSfmt j.card) / 8) false)
    else if t = collSteps j.card then
      .next (post s (later s 1 j.id) .jobComplete { Ev.none with die := d, id := j.id })
    else .next (collSend s d j t)

/-- What a remote read of a collective was for: 0 the group entry, 1 a segment to send, 2 the member's own of the incoming one. -/
def collRead (s : State) (d : Nat) (j : Job) (use : Nat) (codes : List Nat) : State :=
  match use with
  | 0 => collEntry s d j (codes.getD 0 0 + 2 ^ 32 * codes.getD 1 0)
  | 1 => collShip s d j codes
  | _ => collWrite s d j codes

/-! ## Completion (R290 to R292) -/

/-- A job whose arrival is applied, or that makes none, is over; a chain goes on with its next card. -/
def completeJob (s : State) (d : Nat) (j : Job) : State :=
  if j.kind = 5 ∧ !j.words.isEmpty then
    chainNext (jobUpd s d j.id fun j =>
      { j with nxt := (cNxti j.words, cNxtx j.words), words := [], arrived := false, done := 0, phase := 0 }) d j.id
  else endJob s d j.id

/-- JOB_COMPLETE (R290, R291, R292): the writes have performed and the job arrives at its barrier; flag2: a request of the
job is over, with flag its failure; a halo job goes on with its next delivery. -/
def execJobComplete (s : State) : Host.Outcome State Fault Refusal :=
  let e := s.ev
  match jobFind s e.die e.id with
  | none => .next s
  | some j =>
    if e.flag then
      .next (failJob s e.die j e.code.toNat e.w (if j.arrived then 32 * cBarx (jobCard j) else e.w2.toNat) j.arrived)
    else if e.flag2 && j.arrived then .next (completeJob s e.die j)
    else if e.flag2 && decide (j.kind = 3) then .next (collNext s e.die j)
    else if e.flag2 && decide (j.kind = 4) then
      .next (post s (later s 1 j.id) .haloDelivery { Ev.none with die := e.die, id := j.id, n := j.step })
    else
      .next (if j.kind = 5 ∧ !j.words.isEmpty ∧ !(e.flag2 && decide (j.phase = 2)) then disownCard s e.die j
             else arriveJob s e.die j)

end Sys2Proof.Machine
end

