-- ==== Sys2Proof/Machine/Image.lean ====
section
/-! DEFINITION. What a load and a restore read: the fields of launch records (R416), linked images (R411, R412), the checks of their
tables (R72, R73, R228), context images' checksums (R434), and images that another package holds (R393). -/

namespace Sys2Proof.Machine

/-! ## Cells and words of an image -/

/-- Bytes of an image. -/
def imgSize : Nat := 0x687000

/-- Cells moved up by an offset. -/
def shiftCells (a : Nat) (m : Mem) : Mem := m.map fun c => (c.1 + a, c.2)

/-- The cells of bytes from an offset. -/
def cellsAt (a : Nat) (bs : List Byte) : Mem := memWrite [] a bs

/-- The cells of 64-bit words from an offset. -/
def wordCells (a : Nat) (ws : List Word) : Mem := cellsAt a (ws.flatMap fun w => bytesOf w.toNat 8)

/-- The cells from a to a + n − 1, moved down to 0. -/
def sliceCells (m : Mem) (a n : Nat) : Mem := (m.filter fun c => decide (a ≤ c.1) && decide (c.1 < a + n)).map fun c => (c.1 - a, c.2)

/-- A word of an image. -/
def imgWord (m : Mem) (a : Nat) : Word := BitVec.ofNat 64 (memRead m a 8)

/-- A table of n entries by a function, canonical. -/
def tblOf {α : Type} [DecidableEq α] (d : α) (n : Nat) (f : Nat → α) : Tbl α :=
  (List.range n).foldl (fun t i => tblSet d t i (f i)) []

/-- kind. -/
def lKind (l : List Word) : Nat := wBits l 0 54 2
/-- mode. -/
def lMode (l : List Word) : Bool := decide (wBits l 0 53 1 = 1)
/-- sec. -/
def lSec (l : List Word) : Bool := decide (wBits l 0 52 1 = 1)
/-- res. -/
def lRes (l : List Word) : Bool := decide (wBits l 0 51 1 = 1)
/-- Physical cluster of an image cluster. -/
def lCluster (l : List Word) (c : Nat) : Nat := if c < 12 then wBits l 2 (16 + 4 * c) 4 else 15
/-- dom. -/
def lDom (l : List Word) : Nat := wBits l 2 0 16
/-- pbound, by default 200,000 (R431). -/
def lPbound (l : List Word) : Nat := if wBits l 6 32 32 = 0 then 200000 else wBits l 6 32 32
/-- lbound, by default 65,536 (R431). -/
def lLbound (l : List Word) : Nat := if wBits l 6 0 32 = 0 then 65536 else wBits l 6 0 32
/-- share. -/
def lShare (l : List Word) : Nat := wBits l 7 40 8
/-- gang. -/
def lGang (l : List Word) : Nat := wBits l 7 0 32
/-- gto. -/
def lGto (l : List Word) : Nat := wBits l 8 48 16
/-- Whether image core k is included (kinds 2 and 3). -/
def lMask (l : List Word) (k : Nat) : Bool := decide (k < 96) && decide (wBits l (25 + k / 64) (k % 64) 1 = 1)

/-! ## Context images (R434) -/

/-- The checksum table of an image by its pages, where its own checksum holds; flag: of the mirror. -/
def imgTable (page : Bool → Nat → Option (List Byte)) (mir : Bool) : Option (List Byte) :=
  match page mir 0x685, page mir 0x686 with
  | some p, some q =>
    let t := p ++ q
    if crc32c (t.take 8188) = natOfBytes (t.drop 8188) then some t else none
  | _, _ => none

/-- A page that verifies against a table. -/
def goodPage (page : Bool → Nat → Option (List Byte)) (mir : Bool) (b : Nat) (t : List Byte) : Option (List Byte) :=
  match page mir b with
  | some p => if crc32c p = natOfBytes (t.drop (4 * b) |>.take 4) then some p else none
  | none => none

/-- The verified image by the pages of its primary and its mirror; none where a block fails everywhere. The second reading of a
block that has failed finds what the first found. -/
def verifyImage (page : Bool → Nat → Option (List Byte)) : Option Mem :=
  match (imgTable page false).or (imgTable page true) with
  | none => none
  | some t =>
    let first := (goodPage page false 0 t).or (goodPage page true 0 t)
    let mir := match first with
      | some p => decide (natOfBytes (p.drop 16 |>.take 8) / 4 % 2 = 1)
      | none => false
    (List.range 1669).foldl (fun acc i =>
      match acc with
      | none => none
      | some m =>
        match (goodPage page false i t).or (if mir then goodPage page true i t else none) with
        | some p => some (m ++ cellsAt (4096 * i) p)
        | none => none) (some [])

/-! ## Linked images (R411, R412) -/

/-- Where the bytes of a linked image come from: an object whose data is here, or what has been read of one at another package, with
the places that came poisoned. -/
inductive Img where
  | here (o : Obj)
  | far (m : Mem) (bads : List Nat)
  deriving DecidableEq, Repr

/-- n bytes of an image from byte a on: of an object here as its home dies hold them. -/
def imgBytes (s : State) (i : Img) (a n : Nat) : List Byte :=
  match i with
  | .here o => (List.range n).map fun i => BitVec.ofNat 8 ((homeRead s o (a + i) 1).getD 0)
  | .far m _ => memBytes m a n

/-- n words of an image. -/
def imgWords (s : State) (o : Img) (a n : Nat) : List Word :=
  (List.range n).map fun i => BitVec.ofNat 64 (natOfBytes (imgBytes s o (a + 8 * i) 8))

/-- Bytes of an image; the home package of one that lies elsewhere has checked what was read of it. -/
def imgLimit (i : Img) : Nat :=
  match i with
  | .here o => eSize o.e
  | .far _ _ => 2 ^ 48

/-- Whether every block of an image can be read. -/
def imgReadable (s : State) (i : Img) : Bool :=
  match i with
  | .here o => (List.range ((eSize o.e + 511) / 512)).all fun i => (homeRead s o (512 * i) 1).isSome
  | .far _ bads => bads.isEmpty

/-- All bits at which an extent of an object begins. -/
def extentBits (o : Obj) : List Nat := (List.range ((eSize o.e + 2 ^ eXlog o.e - 1) / 2 ^ eXlog o.e)).map fun i => 8 * 2 ^ eXlog o.e * i

/-- Number of image cores in the header. -/
def imgN (s : State) (o : Img) : Nat := wBits (imgWords s o 0 2) 1 0 8

/-- The descriptor of image core k. -/
def imgDesc (s : State) (o : Img) (k : Nat) : List Word := imgWords s o (64 + 128 * k) 16

/-- The regions that a descriptor names (R412), as offset and bytes: dictionary, code, microprogram, the table of word 5, frame-table
entries. -/
def imgRegions (w : List Word) : List (Nat × Nat) :=
  [(wBits w 0 0 48, 48 * wBits w 0 52 12), (wBits w 1 0 48, 2 * wBits w 2 32 32), (wBits w 4 0 48, 16 * wBits w 4 54 10),
    (wBits w 5 0 48, 8 * wBits w 5 55 9), (wBits w 9 0 48, 16 * wBits w 9 48 16)]

/-! ## Images that another package holds (R393) -/

/-- What the command stream's own requests are to the handle unit: no job's, with no record of their own. -/
def streamEng (d : Nat) : Eng := { die := d, job := 0, unit := 2, num := 0, src := 0, poison := true, fail := none }

/-- A request of the command stream of die d. -/
def streamReq (s : State) (d dom : Nat) (h : Word) (op : ReqOp) (w : Nat) (elems : List (Nat × Int)) : Req :=
  { id := s.nextId, core := 96 * d, sec := false, off := 0, handler := false, die := d, dom := BitVec.ofNat 16 dom, handle := h, op := op,
    w := w, elems := elems, data := [], left := [], ready := s.tick, rdAt := none, st := .issued, eng := some (streamEng d), det := none,
    miss := [], bad := none, asks := 0, want := [], bads := [] }

/-- The image of a record, or of a context's two places, that is read of another package. -/
def farFind (s : State) (d : Nat) (l : List Word) (h : Word) (dom : Nat) (at_ : Option (Nat × Nat)) : Option FarImg :=
  (dieOf s d).images.find? fun f =>
    decide (f.words = l) && decide (f.handle = h) && decide (f.dom = dom) && decide (f.at_ = at_)

/-- Changes the image that a request reads. -/
def farUpd (s : State) (d req : Nat) (f : FarImg → FarImg) : State :=
  updDie s d fun y => { y with images := y.images.map fun x => if x.req = req then f x else x }

/-- A page of a context image that has been read, of its primary or its mirror. -/
def farPage (f : FarImg) (at_ : Nat × Nat) (mir : Bool) (i : Nat) : Option (List Byte) :=
  let a := (if mir then at_.2 else at_.1) + 4096 * i
  if (mir && decide (f.stage < 2)) || f.bads.any (fun b => decide (a ≤ b) && decide (b < a + 4096)) then none
  else some (memBytes f.mem a 4096)

/-- What is still to be read, in parts: of a linked image its header, its descriptors, the regions that they name; of a context its
primary, then, where that does not verify, its mirror. -/
def farNeed (f : FarImg) : List (Nat × Nat) :=
  match f.at_ with
  | some x =>
    if f.stage = 0 then [(x.1, imgSize)]
    else if f.stage = 1 ∧ (verifyImage (farPage f x)).isNone = true then [(x.2, imgSize)] else []
  | none =>
    let w (a : Nat) : Nat := memRead f.mem a 8
    let n := w 8 % 256
    let whole := decide (w 0 % 2 ^ 48 = 2 ^ 32 + 0x4E5A4958) && decide (1 ≤ n) && decide (n ≤ 96)
    if f.stage = 0 then [(0, 64)]
    else if f.stage = 1 then (if whole then [(64, 128 * n)] else [])
    else if f.stage = 2 then
      (List.range n).flatMap fun k => imgRegions ((List.range 16).map fun i => BitVec.ofNat 64 (w (64 + 128 * k + 8 * i)))
    else []

/-- The next part of an image is asked for; with nothing more to read it is whole. req: the request that has just ended. -/
def farAsk (s : State) (d : Nat) (f : FarImg) : State :=
  let els := (farNeed f).flatMap fun x => (List.range x.2).map fun i => (x.1 + i, ((x.1 + i : Nat) : Int))
  if els.isEmpty then farUpd s d f.req fun _ => { f with done := true }
  else
    match resolve s d f.dom f.handle 0 with
    | .remote p ent =>
      let r := streamReq s d f.dom f.handle .fetch 8 els
      sendRemote (reqAdd (farUpd s d f.req fun _ => { f with req := r.id }) r) r p ent
    | _ => farUpd s d f.req fun _ => { f with bad := true }

/-- Begins to read an image. -/
def farStart (s : State) (d : Nat) (l : List Word) (h : Word) (dom : Nat) (at_ : Option (Nat × Nat)) : State :=
  let f : FarImg :=
    { words := l, handle := h, dom := dom, at_ := at_, req := s.nextId, stage := 0, mem := [], bads := [], bad := false, done := false }
  farAsk (updDie { s with nextId := s.nextId + 1 } d fun y => { y with images := y.images ++ [f] }) d f

/-- A part of an image has come. -/
def fetchOver (s : State) (r : Req) : State :=
  let t := reqDel s r.id
  match (dieOf s r.die).images.find? fun f => f.req = r.id with
  | none => t
  | some f =>
    farAsk t r.die { f with stage := f.stage + 1, bads := f.bads ++ r.bads,
                            mem := r.data.foldl (fun m x => memSet m x.1 (BitVec.ofNat 8 x.2.toNat)) f.mem }

/-- A part of an image could not be read: one not resident is read again from the start, and a CTXREST parks on it (R338); a mirror is
done without. -/
def fetchFails (s : State) (r : Req) (status off : Nat) : State :=
  let t := reqDel s r.id
  if status = 1 then
    let t := updDie t r.die fun y => { y with images := y.images.filter fun f => decide (f.req ≠ r.id) }
    match t.reqs.find? fun q => (match q.op with | .ctxrest .. => true | _ => false) && decide (q.die = r.die) &&
        decide (q.handle = r.handle) && decide (q.st = .issued) with
    | some q => parkReq t q 0 off
    | none => t
  else farUpd t r.die r.id fun f => if f.at_.isSome ∧ f.stage = 1 then { f with done := true } else { f with bad := true }

/-- Whether the request that reads an image is gone without an answer: its package could not be reached. -/
def farLost (s : State) (f : FarImg) : Bool := f.bad || (!f.done && (reqFind s f.req).isNone)

/-! ## The image of a handle -/

/-- What an image handle names. -/
inductive ImgRes where
  | ok (o : Img)
  | bad
  | wait
  deriving DecidableEq, Repr

/-- The linked image that a handle names, for the record of words l: bad where a check of R264 fails, waiting where it is not
resident or still being read of another package. -/
def imgAt (s : State) (d dom : Nat) (h : Word) (l : List Word) : ImgRes :=
  if hIndex h = 0 ∨ hRights h % 2 = 0 then .bad
  else
    match resolve s d dom h 0 with
    | .fault _ => .bad
    | .deferred => .wait
    | .remote _ _ =>
      match farFind s d l h dom none with
      | none => .wait
      | some f => if farLost s f then .bad else if f.done then .ok (.far f.mem f.bads) else .wait
    | .ok o _ =>
      if !(eIdentity o.e) then .bad
      else
        match extChk s d dom o false 8 ((extentBits o).map fun b => ((b / 8 : Nat) : Int)) with
        | .rights _ => .bad
        | .deferred _ => .wait
        | _ => .ok (.here o)

/-- The image of a record. -/
def imgOf (s : State) (d : Nat) (l : List Word) : ImgRes := imgAt s d (lDom l) (l.getD 1 0) l

/-- Whether a handle names an image of another package that is not yet being read. -/
def farUnread (s : State) (d dom : Nat) (h : Word) (l : List Word) (at_ : Option (Nat × Nat)) : Bool :=
  decide (hIndex h ≠ 0) && (match resolve s d dom h 0 with | .remote _ _ => true | _ => false) && (farFind s d l h dom at_).isNone

/-! ## Tables (R70, R72, R73, R228) -/

/-- Whether a table of bundles passes R72. -/
def dictOk (l : List Bundle) : Bool := l.all fun b => decide (validate 0 b = none)

/-- The report of a table of bundles that fails R72 on core k: its first failing entry, from number n on (R73). -/
def dictReport (k table n : Nat) (l : List Bundle) : Option LoadReport :=
  l.zipIdx.findSome? fun x => (validate 0 x.1).map fun v => { core := k, table := table, entry := n + x.2, slot := v.2, check := v.1 }

/-- Entries of 48 bytes as bundles. -/
def bundles (bs : List Byte) (n : Nat) : List Bundle :=
  (List.range n).map fun i => BitVec.ofNat 384 (natOfBytes (bs.drop (48 * i) |>.take 48))

/-- The dictionary of a descriptor. -/
def imgDict (s : State) (o : Img) (w : List Word) : List Bundle :=
  bundles (imgBytes s o (wBits w 0 0 48) (48 * wBits w 0 52 12)) (wBits w 0 52 12)

/-- The microprogram of a descriptor. -/
def imgMicro (s : State) (o : Img) (w : List Word) : List MicroWord :=
  (List.range (wBits w 4 54 10)).map fun i => BitVec.ofNat 128 (natOfBytes (imgBytes s o (wBits w 4 0 48 + 16 * i) 16))

/-- The kernel partition (R421): none where memory cannot be read. -/
def kernelPart (s : State) (d : Nat) : Option (List Bundle) :=
  let y := dieOf s d
  let n := min 256 (y.kdn.toNat % 512)
  let a := y.kdpa.toNat % 2 ^ 48 / 64 * 64
  if n = 0 then some [] else if memReadable s a (48 * n) then some (bundles (memBytes s.mem a (48 * n)) n) else none

/-- The report of microprogram entries that fail R235 (R228): micro-address and check. -/
def microReport (k : Nat) (l : List (Nat × MicroWord)) : Option LoadReport :=
  l.findSome? fun x =>
    if microEntryOk x.2 x.1 then none else some { core := k, table := 2, entry := x.1, slot := 6, check := microCheck x.2 }

/-- The report of a load, the first that there is. -/
def putReport (s : State) (d : Nat) (r : Option LoadReport) : State :=
  match r with
  | some x => updDie s d fun y => { y with report := some x }
  | none => s

/-! ## What a launch record gives a core (R64, R157, R420) -/

/-- The core copies the handle table at htb into its store (R157); a table that cannot be read leaves it empty. -/
def loadStore (s : State) (k : Nat) : State :=
  let a := (coreOf s k).htb.toNat
  let n := if memReadable s a 8 then min 256 ((physWord s a).toNat % 512) else 0
  let n := if memReadable s a (8 * n) then n else 0
  updCore s k fun c => { c with hcount := n, hstore := tblOf 0 n fun i => physWord s (a + 8 * i) }

/-- The seven seeds of image core k; a seed of 0 loads as 1 (R55). -/
def seedsOf (s : State) (l : List Word) (k : Nat) : Tbl Word :=
  tblOf 1 7 fun i =>
    let v := physWord s (wBits l 9 0 48 + 64 * k + 8 * i)
    if v = 0 then 1 else v

/-- The parts of a context that the kernel owns, from the launch record, and the dictionary and code of image core k (R64, R70). -/
def ownedParts (s : State) (d : Nat) (l : List Word) (o : Img) (k : Nat) (c : Core) : Core :=
  let w := imgDesc s o k
  let kp := (kernelPart s d).getD []
  { c with
    pbound := BitVec.ofNat 32 (lPbound l), lbound := BitVec.ofNat 32 (lLbound l), ktvb := BitVec.ofNat 64 ((l.getD 5 0).toNat / 512 * 512),
    dom := BitVec.ofNat 16 (lDom l), htb := l.getD 4 0,
    dict := ((imgDict s o w).zipIdx.map fun b => (b.2, b.1)) ++ kp.zipIdx.map fun b => (0xF00 + b.2, b.1),
    codeImg := cellsAt 0 (imgBytes s o (wBits w 1 0 48) (2 * wBits w 2 32 32)), imgLen := wBits w 2 32 32 }

/-- The launch that runs on a core. -/
def launchOf (s : State) (k : Nat) : Option Launch :=
  (coreOf s k).launch.bind fun id => (dieOf s (coreDie k)).launches.find? fun x => decide (x.id = id)

end Sys2Proof.Machine
end

