-- ==== Sys2Proof/Machine/Context.lean ====
section
/-! DEFINITION. Context images (R432 to R436), CTXSAVE and CTXREST (R337, R338). -/

namespace Sys2Proof.Machine

/-! ## Parts of an image -/

/-- The micro-state (R232). -/
def microState (q : Sequencer) : List Word :=
  let ent (e : MLoopEnt) := e.count * 2 ^ 30 + e.index * 2 ^ 18 + e.stop * 2 ^ 9 + e.start
  let l := ((List.range q.loops.length).foldl (fun a i =>
    match q.loops[i]? with
    | some e => a + ent e * 2 ^ (42 * i)
    | none => a) 0)
  [BitVec.ofNat 64 (q.fmts.toNat * 2 ^ 32 + q.loops.length * 2 ^ 14 + q.state * 2 ^ 12 + q.upc),
    BitVec.ofNat 64 (q.tsb.toNat * 2 ^ 32 + q.tsa.toNat), BitVec.ofNat 64 l, BitVec.ofNat 64 (l / 2 ^ 64)]

/-- A micro-loop entry by its 42 bits. -/
def microLoop (v : Nat) : MLoopEnt :=
  { count := v / 2 ^ 30 % 2 ^ 12, index := v / 2 ^ 18 % 2 ^ 12, stop := v / 2 ^ 9 % 512, start := v % 512 }

/-- Whether a saved micro-state can be restored (R232). -/
def microStateOk (m : Mem) : Bool :=
  let w := (imgWord m 0x640).toNat
  let l := memRead m 0x650 16
  decide (w / 2 ^ 12 % 4 ≠ 3) &&
    (List.range 3).all fun i => decide (i < w / 2 ^ 14 % 4) == decide (l / 2 ^ (42 * i + 30) % 2 ^ 12 ≠ 0)

/-- The sequencer of a saved micro-state and latch. The image has no bit for the stream that started a routine nor for the hold of an
MCALLW (R62): the primary stream (DESIGN CHOICE) and no hold (DEDUCED), see the log. -/
def restSeq (q : Sequencer) (m : Mem) : Sequencer :=
  let w := (imgWord m 0x640).toNat
  let l := memRead m 0x650 16
  { Sequencer.reset with
    fmts := BitVec.ofNat 32 (w / 2 ^ 32), state := w / 2 ^ 12 % 4, upc := w % 512,
    tsb := BitVec.ofNat 32 ((imgWord m 0x648).toNat / 2 ^ 32), tsa := BitVec.ofNat 32 (imgWord m 0x648).toNat,
    loops := (List.range (w / 2 ^ 14 % 4)).map fun i => microLoop (l / 2 ^ (42 * i) % 2 ^ 42),
    latch := tblOf 0 8 fun i => imgWord m (0x660 + 8 * i), nextStart := q.nextStart }

/-- The items of R59 of a stream at their offsets, base a: csw and bases are given. -/
def strmCells (a : Nat) (x : Strm) (csw bases : Word) (xr : Nat) (s : Tbl Word) : Mem :=
  wordCells (a + 0x48) [csw, bases, BitVec.ofNat 64 (x.fmt.toNat + xr * 2 ^ 32), x.link] ++
    wordCells (a + 0x68) ((List.range 12).map fun i => tblGet (0 : Word) x.loops i) ++
    wordCells (a + 0x100) ((List.range 64).map fun i => tblGet (0 : Word) s i)

/-- A stream as an image holds it at base a. -/
def restStrm (x : Strm) (m : Mem) (a : Nat) : Strm :=
  let csw := imgWord m (a + 0x48)
  let b := (imgWord m (a + 0x50)).toNat
  { x with s := tblOf 0 64 fun i => imgWord m (a + 0x100 + 8 * i),
           g := tblOf 0 64 fun i => genWord (i % 8) (imgWord m (a + 0x400 + 8 * i)),
           fmt := BitVec.ofNat 32 ((imgWord m (a + 0x58)).toNat % 2 ^ 32 / 2 ^ 13 * 2 ^ 13),
           link := BitVec.ofNat 64 ((imgWord m (a + 0x60)).toNat % 2 ^ 32),
           loops := tblOf 0 12 fun i => loopWord (imgWord m (a + 0x68 + 8 * i)) (decide (i % 2 = 1)), lsp := csw.toNat / 2 ^ 55 % 8,
           pcbase := b % 2 ^ 32, segbase := b / 2 ^ 32, next := b % 2 ^ 32, hold := .ps, half := false, fault := none }

/-! ## Saving (R337, R432 to R434) -/

/-- The header (R433). -/
def imgHeader (s : State) (k : Nat) (mir : Bool) (ndet : Nat) : List Word :=
  let c := coreOf s k
  let img := match (dieOf s (coreDie k)).launches.find? fun l => some l.id = c.launch with
    | some l => wN l.words 1 / 2 ^ 28 * 2 ^ 28
    | none => 0
  [BitVec.ofNat 64 (2 ^ 32 + 0x4E5A4358), s.gcyc,
    BitVec.ofNat 64 (s.pkg.toNat * 2 ^ 52 + coreDie k * 2 ^ 50 + coreNum k * 2 ^ 43 + c.icore % 128 * 2 ^ 36 +
      (if mir then 4 else 0) + (if c.arch.secOn then 2 else 0) + (if c.mode then 1 else 0)),
    BitVec.ofNat 64 img, BitVec.ofNat 64 ndet]

/-- The image of core k's app context but for its checksums, in ascending order. The command-stream pointer is the code
offset where the context stops, its pcbase. -/
def imgBody (s : State) (k : Nat) (mir : Bool) (ndet : Nat) : Mem :=
  let c := coreOf s k
  let a := c.arch
  let bank (o lo : Nat) (t : Tbl Word) : Tbl Word :=
    (List.range 8).foldl (fun t i => tblSet (0 : Word) t (lo + i) (frameAt s k (o + 8 * i))) t
  let h := tblSet (0 : Word) (tblSet (0 : Word) a.h 30 (frameAt s k 0x180)) 31 (frameAt s k 0x188)
  wordCells 0 (imgHeader s k mir ndet) ++
  wordCells 0x40 [BitVec.ofNat 64 ((frameAt s k 0x008).toNat % 2 ^ 32)] ++
  strmCells 0 a.pri (frameAt s k 0x000) (frameAt s k 0x008) a.xratio.toNat (bank 0x140 56 (bank 0x100 24 a.pri.s)) ++
  wordCells 0x300 ((List.range 32).map fun i => tblGet (0 : Word) h i) ++
  wordCells 0x400 ((List.range 64).map fun i => tblGet (0 : Word) a.pri.g i) ++
  wordCells 0x600 ((List.range 8).map fun i => tblGet (0 : Word) a.mp i) ++
  wordCells 0x640 (microState a.seq) ++
  wordCells 0x660 ((List.range 8).map fun i => tblGet (0 : Word) a.seq.latch i) ++
  (if a.secOn then
    strmCells 0x800 a.sec (frameAt s k 0x040) (frameAt s k 0x048) 0 a.sec.s ++
      wordCells 0xC00 ((List.range 64).map fun i => tblGet (0 : Word) a.sec.g i)
   else []) ++
  ((List.range 64).flatMap fun i =>
    let t := tileOf c i
    wordCells (0x1000 + 40 * i) [t.ctl, t.map.extractLsb' 0 64, t.map.extractLsb' 64 64, t.pois.extractLsb' 0 64,
      t.pois.extractLsb' 64 64]) ++
  (c.ustore.flatMap fun u => cellsAt (0x2000 + 16 * u.1) (bytesOf u.2.toNat 16)) ++
  (a.p.flatMap fun x => cellsAt (0x4000 + 64 * x.1) (bytesOf x.2.toNat 64)) ++
  (a.v.flatMap fun x => cellsAt (0x5000 + 2048 * x.1) (bytesOf x.2.toNat 2048)) ++
  (a.acc.flatMap fun x => cellsAt (0x105000 + 65536 * x.1) (bytesOf x.2.toNat 65536)) ++
  shiftCells 0x405000 a.scratch ++ shiftCells 0x605000 a.wbuf

/-- The checksum table of a body (R434). -/
def imgSums (m : Mem) : List Byte :=
  let t := ((List.range 1669).flatMap fun b => bytesOf (crc32c (memBytes (sliceCells m (4096 * b) 4096) 0 4096)) 4) ++
    List.replicate 1512 0
  t ++ bytesOf (crc32c t) 4

/-- An image with its checksums. -/
def imgWhole (m : Mem) : Mem := m ++ cellsAt 0x685000 (imgSums m)

/-- Writes an image at byte a of an object, block by block, at its home dies (R337). -/
def writeImage (s : State) (o : Obj) (a : Nat) (m : Mem) : State :=
  (List.range (imgSize / 512)).foldl (fun s b =>
    homeWrite s o [] (8 * (a + 512 * b)) 4096 (natOfBytes (memBytes (sliceCells m (512 * b) 512) 0 512))) s

/-- Whether a producer of a tile of the core that has not parked, a report or a queue entry is outstanding (R269). -/
def producersOut (s : State) (k : Nat) : Bool :=
  let c := coreOf s k
  (c.arch.tiles.any fun t => tBusy t.2 && decide (tState t.2.ctl = 1)) || !c.reports.isEmpty ||
    c.inq.any (fun q => q.2.any fun e => decide (e.taken = none))

/-- Whether the sequencer, the transforms and the decoder FIFO allow the context to be saved (R253, R262). -/
def unitsQuiet (c : Core) : Bool :=
  c.arch.seq.fly.isEmpty && c.arch.seq.load.isNone && (decide (c.arch.seq.state ≠ 1) || c.arch.seq.waiting) &&
    c.xfJobs.isEmpty && c.expJobs.isEmpty && c.arch.fifo.isEmpty

/-- Whether every write of R94 from bundles older than an age has landed. -/
def writesLanded (s : State) (c : Core) (age : Nat) : Bool :=
  !(c.landing.any fun x => decide (x.age < age)) &&
    !(c.samples.any fun x => decide (x.age < age) && !x.held && decide (s.tick < x.land) &&
      (match x.k with | .lds .. => true | .vld .. => true | .vgath .. => true | _ => false)) &&
    !(c.stores.any fun x => decide (x.group = slotGroup) && decide (x.order / 16 < age) && decide (x.order % 16 < 4) &&
      (decide (s.tick + 1 < x.due) || (match x.k with | .amos _ _ _ _ _ _ _ ld false => decide (s.tick < ld) | _ => false)))

/-- Whether every other slot has issued what came before, and every write has landed (R330). -/
def wholeReady (s : State) : Bool :=
  writesLanded s (cc s) ((cc s).age + 1) && (List.range 9).all fun k =>
    decide (k = s.cur.slot) || decide (s.cur.idx ≤ nextIdx (cc s) k)

/-- Whether the landing buffer holds an entry, or a result is on its way to it (R104, R105). -/
def bufferHeld (c : Core) : Bool :=
  !c.withheld.isEmpty || (c.samples.any fun x => x.held && decide (c.dropAge ≤ x.age)) ||
    c.stores.any fun x => match x.k with | .amos _ _ _ _ _ _ _ _ true => decide (c.dropAge ≤ x.order / 16) | _ => false

/-- The checks of CTXSAVE and CTXREST. -/
def chkCtx (s : State) : Chk :=
  (privChk s 1).and ((faultIf (!(isCompute s.cur.core)) 3 0 0).and (waitIf (!(wholeReady s))))

/-- The checks of CTXSAVE. -/
def chkCtxsave (_hh : BitVec 5) (_sx _sy : BitVec 6) (s : State) : Chk := chkCtx s
/-- CTXSAVE (R337): the core is held until it completes. -/
def execCtxsave (hh : BitVec 5) (sx sy : BitVec 6) (s : State) : Host.Outcome State Fault Refusal :=
  perform s (chkCtxsave hh sx sy s) fun s =>
    let r := newReq s (readH s hh) (.ctxsave (readS s sx) (readS s sy)) 8 [] .issued
    holdMem s r (later s 1 r.id)

/-- The checks of CTXREST. -/
def chkCtxrest (_hh : BitVec 5) (_sx _sy : BitVec 6) (s : State) : Chk := chkCtx s
/-- CTXREST (R338). -/
def execCtxrest (hh : BitVec 5) (sx sy : BitVec 6) (s : State) : Host.Outcome State Fault Refusal :=
  perform s (chkCtxrest hh sx sy s) fun s =>
    let r := newReq s (readH s hh) (.ctxrest (readS s sx) (readS s sy)) 8 [] .issued
    holdMem s r (later s 1 r.id)

/-- The instruction completes with a status in the frame. -/
def ctxDone (s : State) (r : Req) (code : Nat) : State :=
  let s := physPut s ((coreOf s r.core).ktvb.toNat + 0x200 + 0x050) (BitVec.ofNat 64 code)
  freeMem s r

/-- What a save or restore finds at its image object: the object, a status, a missing residency, or an extent on its way (R401); or
another package. -/
inductive CtxObj where
  | ok (o : Obj)
  | status (n : Nat)
  | park (off : Nat)
  | moving
  | remote (pkg : Nat) (ent : List Word)
  deriving DecidableEq, Repr

/-- Resolves an image object over byte ranges. Every condition of R264 is status 4. -/
def ctxObj (s : State) (d dom : Nat) (h : Word) (right : Nat) (at_ : List Nat) : CtxObj :=
  if hIndex h = 0 ∨ hRights h / 2 ^ right % 2 = 0 then .status 4
  else
    match resolve s d dom h right with
    | .fault _ => .status 4
    | .deferred => .park (at_.headD 0)
    | .remote p e => .remote p e
    | .ok o _ =>
      if !(eIdentity o.e) || at_.any (fun a => decide (a + imgSize > eSize o.e)) then .status 4
      else
        match extChk s d dom o (decide (right = 1)) 8
            (at_.flatMap fun a => (List.range (imgSize / 4096)).map fun i => ((a + 4096 * i : Nat) : Int)) with
        | .rights _ => .status 4
        | .deferred b => .park b
        | .moving => .moving
        | .ok => .ok o

/-- A parked producer is bound to a saved image (R436). -/
def detach (s : State) (k : Nat) (img : Nat × Nat) : State :=
  let tile (r : Req) : Bool := (reqTile r).isSome
  let s := { s with reqs := s.reqs.map fun r =>
    match r.st with
    | .parked _ => if r.core = k ∧ tile r = true then { r with det := some img } else r
    | _ => r }
  updDie s (coreDie k) fun y =>
    { y with jobs := y.jobs.map fun j =>
        match j.st with
        | .parked _ => if j.core = k ∧ j.kind ≤ 2 ∧ (cSrci j.card = 0 ∨ cDsti j.card = 0) then { j with det := some img } else j
        | _ => j }

/-- How many producers a save detaches. -/
def detachCount (s : State) (k : Nat) : Nat :=
  (s.reqs.filter fun r => decide (r.core = k) && (reqTile r).isSome && (match r.st with | .parked _ => true | _ => false)).length +
  ((dieOf s (coreDie k)).jobs.filter fun j => decide (j.core = k) && decide (j.kind ≤ 2) &&
    (decide (cSrci j.card = 0) || decide (cDsti j.card = 0)) && (match j.st with | .parked _ => true | _ => false)).length

/-- The words of 32 bits from a byte on, of an image at another package, as elements from number n on. -/
def imgElems (n a : Nat) : List (Nat × Int) := (List.range (imgSize / 4)).map fun i => (n + i, ((a / 4 + i : Nat) : Int))

/-- Resolution of a CTXSAVE (R337). -/
def resolveCtxsave (s : State) (r : Req) (sx sy : Word) : State :=
  let k := r.core
  let c := coreOf s k
  let mir := (frameAt s k 0x000).getLsbD 61
  let cause := (frameAt s k 0x010).toNat
  let x := sx.toNat
  let y := sy.toNat
  let at_ := if mir then [x, y] else [x]
  if bufferHeld c then machineCheckAt (freeMem s r) k 4 0
  else if cause / 2 ^ 16 % 32 > 1 ∨ cause / 2 ^ 21 % 32 > 1 ∨ !(unitsQuiet c) ∨ producersOut s k then ctxDone s r 2
  else if x % 4096 ≠ 0 ∨ y % 4096 ≠ 0 ∨ (mir ∧ x < y + imgSize ∧ y < x + imgSize) then ctxDone s r 3
  else
    match ctxObj s r.die r.dom.toNat r.handle 1 at_ with
    | .status n => ctxDone s r n
    | .park b => parkReq s r 0 b
    | .moving => reqSet s { r with st := .waitMv }
    | .remote p e =>
      let m := imgWhole (imgBody s k mir (detachCount s k))
      let els := (List.range at_.length).flatMap fun i => imgElems (i * (imgSize / 4)) (at_.getD i 0)
      let r := { r with w := 32, elems := els,
                        data := els.map fun x => (x.1, BitVec.ofNat 32 (memRead m (x.1 % (imgSize / 4) * 4) 4)), miss := [] }
      sendRemote s r p e
    | .ok o =>
      let m := imgWhole (imgBody s k mir (detachCount s k))
      let s := at_.foldl (fun s a => writeImage s o a m) s
      ctxDone (detach s k (o.key, x)) r 0

/-! ## Restoring (R338, R434, R435) -/

/-- Page b of 4,096 bytes of an image at byte a of an object, as die d reads it; none where a block is uncorrectable. -/
def imgPage (s : State) (d : Nat) (o : Obj) (a b : Nat) : Option (List Byte) :=
  (List.range 8).foldl (fun acc i =>
    match acc with
    | none => none
    | some l =>
      let p := blockOf o (8 * (a + 4096 * b + 512 * i))
      match (readBlock s d o [] p.1 p.2).2 with
      | .data v => some (l ++ blockBytes v)
      | _ => none) (some [])

/-- The verified image at primary byte a and, where that is read, mirror byte b of an object. -/
def readImage (s : State) (d : Nat) (o : Obj) (a : Nat) (b : Option Nat) : Option Mem :=
  verifyImage fun mir i =>
    if mir then b.bind fun b => imgPage s d o b i else imgPage s d o a i

/-- What a restore finds at an image: the object's key and the verified bytes, an image that is lost, a status, a missing residency at
a byte, or nothing yet, while another package's image is read. -/
inductive CtxRead where
  | ok (key : Nat) (m : Mem)
  | lost
  | status (n : Nat)
  | park (off : Nat)
  | ended
  | wait
  deriving DecidableEq, Repr

/-- Reads and verifies the context image at primary byte a and mirror byte b of a handle's object (R338, R435), for the record of words
l where another package holds it. The mirror is read only where the primary does not verify. -/
def readCtx (s : State) (d dom : Nat) (h : Word) (l : List Word) (a b : Nat) : CtxRead :=
  match ctxObj s d dom h 0 [a] with
  | .status n => .status n
  | .park b => .park b
  | .moving => .wait
  | .remote _ _ =>
    match farFind s d l h dom (some (a, b)) with
    | none => .wait
    | some f =>
      if f.bad then .status 4
      else if farLost s f then .ended
      else if !f.done then .wait
      else
        match verifyImage (farPage f (a, b)) with
        | some m => .ok (h.toNat / 2 ^ 28) m
        | none => .lost
  | .ok o =>
    match readImage s d o a none with
    | some m => .ok o.key m
    | none =>
      match ctxObj s d dom h 0 [b] with
      | .park c => .park c
      | .ok _ =>
        match readImage s d o a (some b) with
        | some m => .ok o.key m
        | none => .lost
      | _ => .lost

/-- The state that an image gives a core; a tile's first read compares its seq and exp again (R38), and passes where it has passed:
the image has no bit for it (DEDUCED, see the log). -/
def restArch (a : Arch) (m : Mem) : Arch :=
  let sec := decide ((imgWord m 0x10).toNat / 2 % 2 = 1)
  { a with
    pri := restStrm a.pri m 0, sec := if sec then restStrm a.sec m 0x800 else a.sec, secOn := sec,
    v := tblOf 0 512 fun i => BitVec.ofNat 16384 (memRead m (0x5000 + 2048 * i) 2048),
    p := tblOf 0 32 fun i => BitVec.ofNat 512 (memRead m (0x4000 + 64 * i) 64),
    acc := tblOf 0 48 fun i => BitVec.ofNat 524288 (memRead m (0x105000 + 65536 * i) 65536),
    tiles := (List.range 64).map fun i =>
      let b := 0x1000 + 40 * i
      (i, { Tile.reset with ctl := setField (imgWord m b) 12 4 0, cmp := true, map := BitVec.ofNat 128 (memRead m (b + 8) 16),
                            pois := BitVec.ofNat 128 (memRead m (b + 24) 16) }),
    h := tblOf 0 32 fun i => imgWord m (0x300 + 8 * i), mp := tblOf 0 8 fun i => imgWord m (0x600 + 8 * i),
    xratio := BitVec.ofNat 16 ((imgWord m 0x58).toNat / 2 ^ 32), seq := restSeq a.seq m, fifo := [],
    scratch := sliceCells m 0x405000 0x200000, wbuf := sliceCells m 0x605000 0x80000 }

/-- The micro-instructions of an image. -/
def restUstore (m : Mem) : Tbl MicroWord := tblOf 0 512 fun i => BitVec.ofNat 128 (memRead m (0x2000 + 16 * i) 16)

/-- The kind-5 record of an image that is lost (R338, R345). -/
def lostRecord (k d : Nat) (h : Word) (off : Nat) : FRec :=
  { kind := 5, code := 0, unit := unitOf k, num := coreNum k, die := d, handle := h, off := BitVec.ofNat 64 off, prog := 0,
    token := 0, src := 0 }

/-- CTXREST installs a verified image (R338): all but what stands in the frame in the live state, with the launch record's parts (R64)
and the image's dictionary (R70). The mode and csw.sec keep their values (R48, R57). -/
def restLive (s : State) (k : Nat) (l : List Word) (o : Img) (m : Mem) : State :=
  let c := coreOf s k
  let base := c.ktvb.toNat + 0x200
  let put (s : State) (o : Nat) (w : Word) := physPut s (base + o) w
  let sec := decide ((imgWord m 0x10).toNat / 2 % 2 = 1)
  let s := put (put s 0x000 (imgWord m 0x48)) 0x008 (imgWord m 0x50)
  let s := (List.range 8).foldl (fun s i => put (put s (0x100 + 8 * i) (imgWord m (0x100 + 8 * (24 + i)))) (0x140 + 8 * i)
    (imgWord m (0x100 + 8 * (56 + i)))) s
  let s := put (put s 0x180 (imgWord m (0x300 + 240))) 0x188 (imgWord m (0x300 + 248))
  let s := if sec then put (put s 0x040 (imgWord m 0x848)) 0x048 (imgWord m 0x850) else s
  let cz := (frameAt s k 0x010).toNat
  let s := put s 0x010 (BitVec.ofNat 64 (cz % 2 ^ 16 + 2 ^ 16 + (if sec then 2 ^ 21 else 0) + cz / 2 ^ 26 * 2 ^ 26))
  let s := physWrite s (base + 0x060) (bytesOf ((imgWord m 0x50).toNat % 2 ^ 32) 4)
  let s := if sec then physWrite s (base + 0x0A4) (bytesOf ((imgWord m 0x850).toNat % 2 ^ 32) 4) else s
  let s := put (put s 0x0E8 0) 0x0F0 0
  let s := updCore s k fun c =>
    let live := c.arch
    let a := restArch live m
    let keep (lo : Nat) (t : Tbl Word) : Tbl Word :=
      (List.range 8).foldl (fun t i => tblSet (0 : Word) t (lo + i) (tblGet (0 : Word) live.pri.s (lo + i))) t
    let a := { a with
      pri := { live.pri with s := keep 56 (keep 24 a.pri.s), g := a.pri.g, fmt := a.pri.fmt, link := a.pri.link,
                             loops := a.pri.loops, lsp := live.pri.lsp },
      secOn := live.secOn, seeds := if l.isEmpty then live.seeds else seedsOf s l c.icore,
      h := tblSet (0 : Word) (tblSet (0 : Word) a.h 30 (tblGet (0 : Word) live.h 30)) 31 (tblGet (0 : Word) live.h 31) }
    let away := if c.away.isEmpty then [] else ((true, false), (sec && live.secOn, false)) :: c.away.tail
    let icore := (imgWord m 0x10).toNat / 2 ^ 36 % 128
    let own := ownedParts s (coreDie k) l o icore c
    let own := if l.isEmpty then { c with dict := own.dict, codeImg := own.codeImg, imgLen := own.imgLen } else own
    { own with arch := a, ustore := restUstore m, withheld := [], away := away }
  loadStore s k

/-- A restore fails (R338, R73, R228): nothing is installed, ctxst is 1, and a kind-5 record is posted; a table that fails its
validation is reported. -/
def restFails (s : State) (r : Req) (sx : Word) (rep : Option LoadReport) : State :=
  postRecord (putReport (ctxDone s r 1) r.die rep) r.die (lostRecord r.core r.die r.handle sx.toNat)

/-- The handle of the linked image that a context's header names (R433): the launch record's where that names it, else one of the
entry's generation, for an object homed here. -/
def restHandle (s : State) (k : Nat) (l : List Word) (m : Mem) : Word :=
  let key := (imgWord m 0x18).toNat / 2 ^ 28
  if (l.getD 1 0).toNat / 2 ^ 28 = key then l.getD 1 0
  else
    match entryOf s (coreDie k) (key % 2 ^ 24) with
    | some e => if homedHere s key then BitVec.ofNat 64 (key * 2 ^ 28 + eGen e * 2 ^ 12 + 1) else 0
    | none => 0

/-- A verified image is installed, once the linked image that it names can be read: its dictionary, the kernel partition and the
microprogram store are validated first (R70, R72, R228, R232). -/
def restDone (s : State) (r : Req) (sx : Word) (m : Mem) : State :=
  let k := r.core
  let l := (launchOf s k).map Launch.words |>.getD []
  let h := restHandle s k l m
  let dom := (coreOf s k).dom.toNat
  if !(microStateOk m) then restFails s r sx none
  else
    match imgAt s r.die dom h l with
    | .bad => ctxDone s r 4
    | .wait =>
      let s := if farUnread s r.die dom h l none then farStart s r.die l h dom none else s
      resolveAt s (s.tick + 1) r.id
    | .ok o =>
      let icore := (imgWord m 0x10).toNat / 2 ^ 36 % 128
      let rep := (dictReport k 0 0 (imgDict s o (imgDesc s o icore))).or
        ((dictReport k 1 0xF00 ((kernelPart s r.die).getD [])).or (microReport k (restUstore m)))
      if icore ≥ imgN s o then ctxDone s r 4
      else if rep.isSome then restFails s r sx rep
      else ctxDone (restLive s k l o m) r 0

/-- Resolution of a CTXREST (R338): an image of another package is read part by part. -/
def resolveCtxrest (s : State) (r : Req) (sx sy : Word) : State :=
  let l := (launchOf s r.core).map Launch.words |>.getD []
  match readCtx s r.die r.dom.toNat r.handle l sx.toNat sy.toNat with
  | .status n => ctxDone s r n
  | .park off => parkReq s r 0 off
  | .ended => abortCore s r
  | .wait =>
    let at_ := some (sx.toNat, sy.toNat)
    let s := if farUnread s r.die r.dom.toNat r.handle l at_ then farStart s r.die l r.handle r.dom.toNat at_ else s
    resolveAt s (s.tick + 1) r.id
  | .lost => restFails s r sx none
  | .ok _ m => restDone s r sx m

end Sys2Proof.Machine
end

