-- ==== Sys2Proof/Machine/Halo.lean ====
section
/-! DEFINITION. Halo-step jobs (R479 to R482), and which Ready job an engine starts in a cycle (R423). -/

namespace Sys2Proof.Machine

/-- The step S of a halo card. -/
def hStep (j : Job) : Nat := wBits j.card 1 0 32
/-- The partition k of a halo card. -/
def hPart (j : Job) : Nat := wBits j.card 2 0 32

/-- The elements of a slot. -/
def slotElems (g : Grid) (slot : Nat) : List Int := (List.range (gdBk g)).map fun i => ((slot * gdBk g + i : Nat) : Int)

/-- The code of element i of the slot, as the job read it. -/
def readAt (j : Job) (i : Nat) : Nat :=
  match j.reads.find? fun x => x.1 = i with
  | some x => x.2.toNat
  | none => 0

/-- The value of ghost cell fr of partition q, whose source is k (R476). -/
def ghostCode (g : Grid) (ty : NTy) (j : Job) (k q fr : Nat) : Nat :=
  match ghostOf g (globalOf g q fr) with
  | .const v => v % 2 ^ ty.width
  | .supply => readAt j (gdF g + gdG g + ghostIndex g fr)
  | .terms [(1, x)] => readAt j (frameNo g k x)
  | .terms l =>
    let c : Rnd := { mode := .rne, sat := true, ftz := false, rng := 0 }
    encodeNum ty c (l.foldl (fun a t =>
      Num.add .rne a (Num.mul (Num.ofInt t.1) (decodeNum ty false (readAt j (frameNo g k t.2))))) (.zero false))

/-- The partitions that have a ghost cell with source k, ascending. -/
def targetsOf (g : Grid) (k : Nat) : List Nat := (List.range (gdPn g)).filter fun q => (sourcesOf g q).contains k

/-- The ghost cells of q with source k. -/
def cellsFrom (g : Grid) (q k : Nat) : List Nat := (ghostCells g).filter fun fr => decide (sourceOf g q fr = k)

/-- Whether the receiver's record lets a delivery of step S go on (R480, step 2). -/
def mayDeliver (s : State) (g : Grid) (a st : Nat) : Bool :=
  decide (st < gdS0 g + 2 * gdD g) || (recPv s a && decide (st - gdD g ≤ recPstep s a))

/-- The grid of a job's source, where it resolves. -/
def jobGrid (s : State) (d : Nat) (j : Job) : Option (Obj × Grid) :=
  match resolve s d j.dom.toNat (jobH j (cSrci j.card)) 0 with
  | .ok o _ => (gridOf s o).map fun g => (o, g)
  | _ => none

/-- The next delivery of a job. -/
def nextDelivery (s : State) (d id n : Nat) : State :=
  post (jobUpd s d id fun j => { j with step := n }) (later s 1 id) .haloDelivery { Ev.none with die := d, id := id, n := n }

/-- The start of a halo step (R479; R480, step 1), or its going on after a wait or a parking. The job's cursor: 0 before
step 1, else 1 and the number of deliveries made. -/
def haloStart (s : State) (d : Nat) (j : Job) : State :=
  let h := jobH j (cSrci j.card)
  let st := hStep j
  let k := hPart j
  if j.step > 0 then nextDelivery s d j.id j.step
  else
    match resolve s d j.dom.toNat h 0 with
    | .deferred => parkJob s d j h 0
    | .fault _ => failJob s d j 24 h 0 false
    | .remote _ _ => failJob s d j 24 h 0 false
    | .ok o ent =>
      match gridOf s o with
      | none => failJob s d j 24 h 0 false
      | some g =>
        let slot := mapSlot s g k
        if k ≥ gdPn g ∨ (mapHandle s g k).toNat / 2 ^ 28 ≠ o.key ∨ slot ≥ gdNslot g then failJob s d j 24 h 0 false
        else
          let a := recAddr g slot
          let want := if recPv s a then recPstep s a + gdD g else gdS0 g
          if st ≠ want then failJob s d j 26 h 0 false
          else
            let w := eWidth o.e
            let els := slotElems g slot
            match jobObj s d j h 0 els w with
            | .fail c off => failJob s d j c h off false
            | .park off => parkJob s d j h off
            | .ok _ _ =>
              let r := readElems s d o ent w els
              let s := physPut r.1 a (BitVec.ofNat 64 (st * 2 ^ 32 + 1))
              let reads := (List.range els.length).zip (r.2.map fun x => BitVec.ofNat 32 x.1)
              let s := jobUpd s d j.id fun j => { j with reads := reads }
              nextDelivery (recordChanged s) d j.id 1
            | _ => jobAgain s d j.id (s.tick + 1) false

/-- The object of a target: a grid object, or the failure (R480, step 2). -/
inductive Target where
  | ok (o : Obj) (g : Grid) (slot : Nat)
  | fail (code : Nat)
  | park (h : Word)
  | remote (h : Word) (pkg : Nat) (ent : List Word) (slot : Nat)
  deriving DecidableEq, Repr

/-- Reads and checks map entry q. -/
def targetOf (s : State) (d : Nat) (j : Job) (g : Grid) (q : Nat) : Target :=
  let h := mapHandle s g q
  let slot := mapSlot s g q
  match resolve s d j.dom.toNat h 1 with
  | .fault c => .fail c
  | .deferred => .park h
  | .remote p ent => .remote h p ent slot
  | .ok o _ =>
    match gridOf s o with
    | none => .fail 24
    | some g2 => if slot ≥ gdNslot g2 then .fail 24 else .ok o g2 slot

/-- The element of a slot that holds ghost cell fr in bank b. -/
def bankElem (g : Grid) (slot b fr : Nat) : Int :=
  ((slot * gdBk g + (if b = 0 then fr else gdF g + ghostIndex g fr) : Nat) : Int)

/-- The writes of a delivery, its bit, and the count of bytes (R480, steps 3 and 4); where the writes must wait, the delivery is made
again, and it parks at an extent that is not there (R342). -/
def deliverTo (s : State) (d : Nat) (j : Job) (g : Grid) (h : Word) (o : Obj) (g2 : Grid) (slot q n : Nat) : State :=
  let k := hPart j
  let b := bankOf g (hStep j)
  let a := recAddr g2 slot
  let ty := fmtNty ((fmtOf (BitVec.ofNat 4 (eFmt o.e))).getD .i8)
  let w := eWidth o.e
  let cells := cellsFrom g q k
  let els := cells.map fun fr => bankElem g2 slot b fr
  let ev : Ev := { Ev.none with die := d, id := j.id, n := n }
  match els.find? fun e => (elemBit o w e).isNone with
  | some e => failJob s d j 25 h (e.toNat * w / 8) false
  | none =>
    match extChk s d j.dom.toNat o true w els with
    | .rights c => failJob s d j 23 h c false
    | .deferred c => parkJob s d j h c
    | .moving => postMv s .haloDelivery ev o.key
    | .ok =>
      let y := writeElems s o w (els.zip (cells.map fun fr => ghostCode g ty j k q fr))
      if y.2 then
        let s := setMap y.1 a b (Nat.lor (recMap y.1 a b) (2 ^ ordinalOf g q k))
        nextDelivery (recordChanged (jobUpd s d j.id fun j => { j with done := j.done + (cells.length * w + 7) / 8 })) d j.id (n + 1)
      else post y.1 (s.tick + 1) .haloDelivery ev

/-- A step of a delivery to a grid object of another package (R480): 0 steps 2's wait and tag, 1 the wait for the receiver's
pstep, 2 step 4's bit. The package that holds the record makes it, and answers. -/
def haloAsk (s : State) (d : Nat) (j : Job) (g : Grid) (q : Nat) (h : Word) (pkg : Nat) (ent : List Word) (slot phase : Nat) : State :=
  let r := jobReq s d j h (.halo phase slot (hStep j) (ordinalOf g q (hPart j))) 8 [] (jobEng d j)
  sendRemote (reqAdd s r) r pkg ent

/-- Step 3 of a delivery to another package: its ghost cells, in the grid's element format. -/
def haloData (s : State) (d : Nat) (j : Job) (o : Obj) (g : Grid) (q : Nat) (h : Word) (pkg : Nat) (ent : List Word) (slot : Nat) : State :=
  let cells := cellsFrom g q (hPart j)
  let ty := fmtNty ((fmtOf (BitVec.ofNat 4 (eFmt o.e))).getD .i8)
  let data := cells.map fun fr => BitVec.ofNat 32 (ghostCode g ty j (hPart j) q fr)
  jobRemote s d j h pkg ent .jobWrite ty.width (cells.map fun fr => bankElem g slot (bankOf g (hStep j)) fr)
    ((List.range data.length).zip data)

/-- A delivery to another package goes on: phase 0 and 1 ask, 2 sends the bit, 3 the cells. -/
def haloRemote (s : State) (d : Nat) (j : Job) (phase : Nat) : State :=
  match jobGrid s d j with
  | none => failJob s d j 24 (jobH j (cSrci j.card)) 0 false
  | some (o, g) =>
    match (targetsOf g (hPart j))[j.step - 1]? with
    | none => nextDelivery s d j.id j.step
    | some q =>
      match targetOf s d j g q with
      | .remote h p ent slot => if phase = 3 then haloData s d j o g q h p ent slot else haloAsk s d j g q h p ent slot phase
      | _ => nextDelivery s d j.id j.step

/-- HALO_DELIVERY (R480): the job's next delivery, or its arrival when every one is done. -/
def execHaloDelivery (s : State) : Host.Outcome State Fault Refusal :=
  let d := s.ev.die
  match jobFind s d s.ev.id with
  | none => .next s
  | some j =>
    if j.st ≠ .running then .next s
    else
      let h := jobH j (cSrci j.card)
      match jobGrid s d j with
      | none => .next (failJob s d j 24 h 0 false)
      | some (_, g) =>
        match (targetsOf g (hPart j))[s.ev.n - 1]? with
        | none => .next (post s (later s 1 j.id) .jobComplete { Ev.none with die := d, id := j.id })
        | some q =>
          match targetOf s d j g q with
          | .fail c => .next (failJob s d j c (mapHandle s g q) 0 false)
          | .park h => .next (parkJob s d j h 0)
          | .remote h p ent slot => .next (haloAsk (jobUpd s d j.id fun j => { j with step := s.ev.n }) d j g q h p ent slot 0)
          | .ok o g2 slot =>
            let a := recAddr g2 slot
            let st := hStep j
            let b := bankOf g st
            let tag := recTag s a b
            if !(mayDeliver s g a st) then
              .next (jobUpd s d j.id fun j => { j with st := .waiting, chan := 0, step := s.ev.n })
            else if tag ≠ 0xFFFFFFFF ∧ tag > st then .next (failJob s d j 26 h 0 false)
            else if tag ≠ st ∧ recRd s a b ≠ 0 then .next (post s (s.tick + 1) .haloDelivery s.ev)
            else
              let s := if tag = st then s else setMap (setTag s a b st) a b 0
              .next (deliverTo s d j g (mapHandle s g q) o g2 slot q s.ev.n)

/-! ## Which job starts (R423) -/

/-- Whether a waiting halo job's receiver has come on. -/
def haloCan (s : State) (d : Nat) (j : Job) : Bool :=
  if j.step = 0 then true
  else
    match jobGrid s d j with
    | none => true
    | some (_, g) =>
      match (targetsOf g (hPart j))[j.step - 1]? with
      | none => true
      | some q =>
        match targetOf s d j g q with
        | .ok _ g2 slot => mayDeliver s g (recAddr g2 slot) (hStep j)
        | .remote .. => !(s.reqs.any fun r => decide (r.eng.map Eng.job = some j.id) &&
            (match r.op with | .halo 1 .. => true | _ => false))
        | _ => true

/-- Whether a release of the issuing core that came before a job is still to be applied, or an earlier store of its to an object of the
job still to perform (R364, R378); of a chain, whose cards are not known yet, to any object. -/
def jobBehind (s : State) (j : Job) : Bool :=
  let keys := ([cSrci j.card, cDsti j.card, cNxti j.card].filter fun i => decide (i ≠ 0)).map fun i => (jobH j i).toNat / 2 ^ 28
  s.reqs.any fun q => decide (q.core = j.core) && q.eng.isNone && decide (q.id < j.id) && decide (q.st ≠ .held) &&
    (match q.op with
      | .relv .. => true
      | .stt _ => decide (j.kind = 5) || keys.contains (q.handle.toNat / 2 ^ 28)
      | _ => false)

/-- Whether a job is Ready: its edges are satisfied, what its core did before it has performed, and it was not detached (R436). -/
def jobReady (s : State) (d : Nat) (j : Job) : Bool :=
  j.det.isNone &&
    match j.st with
    | .ready => true
    | .waiting => !((dieOf s d).jobs.any fun a => j.edges.contains a.id) && !(jobBehind s j) && (decide (j.kind ≠ 4) || haloCan s d j)
    | _ => false

/-- The engines: 0 the copy channels, 1 the collective engine, 2 the halo engine. -/
def engineOf (kind : Nat) : Nat := if kind = 3 then 1 else if kind = 4 then 2 else 0

/-- Room of an engine. -/
def engineRoom (e : Nat) : Nat := if e = 1 then 8 else 16

/-- Numbers that jobs hold of an engine. -/
def chansOf (s : State) (d e : Nat) : List Nat :=
  ((dieOf s d).jobs.filter fun j => decide (engineOf j.kind = e) && decide (j.chan ≠ 0)).map Job.chan

/-- Whether an engine has room for a job. -/
def jobRoom (s : State) (d : Nat) (j : Job) : Bool :=
  let e := engineOf j.kind
  decide (j.chan ≠ 0) ||
    (decide ((chansOf s d e).length < engineRoom e) &&
      (decide (j.kind ≠ 5) ||
        decide (((dieOf s d).jobs.filter fun q => decide (q.kind = 5) && decide (q.chan ≠ 0)).length < 12)))

/-- The jobs that start on die d in this cycle: of each engine the earliest accepted Ready one that has room. -/
def startingJobs (s : State) (d : Nat) : List Job :=
  (List.range 3).filterMap fun e =>
    (dieOf s d).jobs.find? fun j => decide (engineOf j.kind = e) && jobReady s d j && jobRoom s d j

/-- The lowest free number of an engine, from 1. -/
def freeChan (s : State) (d e : Nat) : Nat := ((List.range 16).find? fun i => !((chansOf s d e).contains (i + 1))).getD 0 + 1

/-- JOB_START (R423): a Ready job starts on its engine. flag: the second phase of a running copy or gather; flag2: its source
has come from another package. -/
def execJobStart (s : State) : Host.Outcome State Fault Refusal :=
  let d := s.ev.die
  match jobFind s d s.ev.id with
  | none => .next s
  | some j =>
    if s.ev.flag || s.ev.flag2 then
      if j.st ≠ .running then .next s
      else if j.kind = 3 then .next (collRead s d j s.ev.n (segCodes 32 s.ev.bytes (s.ev.bytes.length / 4)))
      else .next (copyGo s d j s.ev.flag2)
    else
      let ch := if j.chan ≠ 0 then j.chan else freeChan s d (engineOf j.kind)
      let s := rearm (jobUpd s d j.id fun j => { j with st := .running, chan := ch }) j.core (cDtile j.card) (.job d j.id)
      let j := { j with st := JobSt.running, chan := ch }
      if j.kind = 4 then .next (haloStart s d j)
      else if j.kind = 3 then .next (collBegin s d j)
      else if j.kind = 5 ∧ j.words.isEmpty then .next (chainNext s d j.id)
      else if j.kind = 5 ∧ j.phase ≠ 0 then .next (post s (s.tick + 1) .jobComplete { Ev.none with die := d, id := j.id })
      else .next (copyStart s d j)

end Sys2Proof.Machine
end

