-- ==== Sys2Proof/Machine/Unit.lean ====
section
/-! DEFINITION. What the handle unit does with each request (R264), the fault queue (R344, R345, R348), retried write-backs
(R398), and the instructions that look at the unit: HQRY, WAITB, MWAITB. -/

namespace Sys2Proof.Machine

/-! ## OTI (R334) -/

/-- Aborts a parked producer on an object and withdraws its record, if that is still held. -/
def abortOn (s : State) (tok : Word) (d : Nat) (f : State → State) : State :=
  f (updDie s d fun y => { y with recs := y.recs.filter fun x => decide (x.token ≠ tok) })

/-- Every parked producer waiting on an object is aborted (R334, R348). -/
def abortParked (s : State) (key : Nat) : State :=
  let s := s.reqs.foldl (fun s r =>
    match r.st with
    | .parked tok =>
      if r.handle.toNat / 2 ^ 28 = key then
        abortOn s tok r.die fun s =>
          if r.det.isSome then reqSet s { r with st := .abortedDetached } else abortReq s r 67
      else s
    | _ => s) s
  (List.range 4).foldl (fun s d =>
    (dieOf s d).jobs.foldl (fun s j =>
      match j.st with
      | .parked tok =>
        if j.wait.toNat / 2 ^ 28 = key ∧ !(s.reqs.any fun r => decide (r.st = .parked tok)) then
          abortOn s tok d fun s =>
            if j.det.isSome then jobUpd s d j.id fun j => { j with st := .abortedDetached }
            else failJob s d j 67 j.wait j.woff false
        else s
      | _ => s) s) s

/-- OTI completes: the entry is not live, its generation counts on, cached resolutions and the object's views go, parked producers are
aborted. -/
def resolveOti (s : State) (r : Req) (ident : Word) : State :=
  let key := identKey ident
  let i := key % 2 ^ 24
  let a := entAddr s r.die i
  let w := (physWord s a).toNat
  let gen := (w / 2 ^ 46 % 2 ^ 16 + 1) % 2 ^ 16
  let w := w % 2 ^ 46 + gen * 2 ^ 46
  let s := dropViews (dropRes (physPut s a (BitVec.ofNat 64 w)) i) key
  let s := abortParked s key
  freeMem (wakeMovers s fun k => decide (k = key)) r

/-! ## Waits on barriers (R176, R249, R586) -/

/-- The element and phase of a wait. -/
def waitOf (r : Req) : Option (Word × Bool) :=
  match r.op with
  | .waitb el ph => some (el, ph)
  | .mwaitb el ph => some (el, ph)
  | _ => none

/-- A parked or remote wait resolves: it parks again, travels, or is looked at anew by its waiter. -/
def resolveWait (s : State) (r : Req) (el : Word) (ph : Bool) : State :=
  match barrierAt s r.die r.dom.toNat r.handle el.toNat ph 1 with
  | .deferred => parkReq s r 0 (32 * el.toNat)
  | .remote p ent => sendRemote s r p ent
  | _ => reqDel s r.id

/-- Whether a wait must ask the unit: nothing stands for it yet, and its object is not resident or not here. -/
def waitAsks (s : State) (own : Option Nat) (b : BarSt) : Bool :=
  (match own with
    | none => true
    | some id => (reqFind s id).isNone) &&
  (match b with
    | .deferred => true
    | .remote _ _ => true
    | _ => false)

/-- What a waiter finds: by the request that stands for it, else at the barrier. -/
def waitLook (s : State) (own : Option Nat) (h : Word) (el : Word) (b : BarSt) : Chk :=
  let hi := handleInfo h
  let here : Chk :=
    match b with
    | .flipped => .ok
    | .poisoned => .fault 22 el hi
    | .fault c => .fault c el hi
    | _ => .wait
  match own with
  | none => here
  | some id =>
    match reqFind s id with
    | none => here
    | some r =>
      match r.st with
      | .failed c => .fault c el hi
      | .ended => .fault 22 (el ||| (1#64 <<< 63)) hi
      | .answered w => if s.tick < r.ready then .wait else if w.getLsbD 63 then .fault 22 el hi else .ok
      | _ => .wait

/-- Asks the unit on behalf of a waiter; answers the request's number. -/
def waitAsk (s : State) (h : Word) (op : ReqOp) (el : Word) (b : BarSt) : State × Nat :=
  let r := newReq s h op 8 [] .issued
  let t := reqAdd s r
  match b with
  | .deferred => (parkReq t r 0 (32 * el.toNat), r.id)
  | .remote p ent => (sendRemote t r p ent, r.id)
  | _ => (t, r.id)

/-- What WAITB observes. -/
def waitbSees (s : State) (h : Word) (el : Word) (ph : Bool) : BarSt :=
  barrierAt s (coreDie s.cur.core) (cc s).dom.toNat h el.toNat ph 1

/-- The checks and the wait of WAITB. -/
def chkWaitb (hh : BitVec 5) (sx : BitVec 6) (ph : Bool) (s : State) : Chk :=
  let h := readH s hh
  let el := readS s sx
  (handleChk h 0).and (waitLook s (cc s).waitReq h el (waitbSees s h el ph))

/-- Whether a waiting WAITB has something to ask. -/
def asksWaitb (hh : BitVec 5) (sx : BitVec 6) (ph : Bool) (s : State) : Bool :=
  let h := readH s hh
  decide (handleChk h 0 = .ok) && waitAsks s (cc s).waitReq (waitbSees s h (readS s sx) ph)

/-- The request of a wait that is over goes. -/
def dropWait (s : State) : State :=
  match (cc s).waitReq with
  | none => s
  | some id => updCur (reqDel s id) fun c => { c with waitReq := none }

/-- WAITB (R176). -/
def execWaitb (hh : BitVec 5) (sx : BitVec 6) (ph : Bool) (s : State) : Host.Outcome State Fault Refusal :=
  match chkWaitb hh sx ph s with
  | .wait =>
    if asksWaitb hh sx ph s then
      let h := readH s hh
      let el := readS s sx
      let x := waitAsk s h (.waitb el ph) el (waitbSees s h el ph)
      .next (updCur x.1 fun c => { c with waitReq := some x.2 })
    else .next s
  | k => perform (dropWait s) k fun s => s

/-- The element of MWAITB (R236). -/
def mwaitbElem (s : State) (i : MIdx) (idx : BitVec 16) : Word :=
  BitVec.ofNat 64 ((idx.toNat + idxWord s i / 2 ^ 48) % 65536)

/-- What MWAITB observes: poison in the cycle after its application, a flip one later. -/
def mwaitbSees (s : State) (h : Word) (el : Word) (ph : Bool) : BarSt :=
  barrierAt s (coreDie s.cur.core) (cc s).dom.toNat h el.toNat ph 0

/-- The request of the sequencer's wait that is over goes. -/
def dropMwait (s : State) : State :=
  match (seqr s).req with
  | none => s
  | some id => updCur (reqDel s id) fun c => updSeq c fun q => { q with req := none }

/-- MWAITB (R249). -/
def execMwaitb (i : MIdx) (hh : BitVec 5) (idx : BitVec 16) (ph : Bool) (s : State) : Host.Outcome State Fault Refusal :=
  let h := readH s hh
  let el := mwaitbElem s i idx
  let b := mwaitbSees s h el ph
  let k := (handleChk h 0).and (waitLook s (seqr s).req h el b)
  if k = .wait ∧ waitAsks s (seqr s).req b then
    let x := waitAsk s h (.mwaitb el ph) el b
    microOp (updCur x.1 fun c => updSeq c fun q => { q with req := some x.2 }) false .wait fun s => s
  else if k = .wait then microOp s false k fun s => s
  else microOp (dropMwait s) false k fun s => s

/-! ## HQRY (R160) -/

/-- The number under which a resolution cache keeps a handle's entry: its index, for one homed elsewhere beyond every index. -/
def resKey (s : State) (h : Word) : Nat :=
  if hHome h = s.pkg.toNat then hIndex h else 2 ^ 36 + hHome h * 2 ^ 24 + hIndex h

/-- The entry that answers HQRY (R160): where the unit holds a resolution of the object, and the free choice lets it answer within the
latency, the entry as it stands now, of an object homed elsewhere the copy that came (see the log). -/
def heldEntry (s : State) (h : Word) : Option (List Word) :=
  let d := coreDie s.cur.core
  match (dieOf s d).rescache.find? fun x => x.1 = resKey s h with
  | some x => if !(pickBit s d (hIndex h)) then none else if hHome h = s.pkg.toNat then tableEntry s d (hIndex h) else some x.2
  | none => none

/-- The unit begins to fetch an entry: of this package's table, or by a request to the object's home. -/
def fetchEntry (s : State) (h : Word) : State :=
  let d := coreDie s.cur.core
  if hHome h = s.pkg.toNat then noteEntry s d (hIndex h)
  else if hHome h > 2303 ∨ s.reqs.any (fun r => decide (r.die = d) && decide (r.op = .entry) && decide (r.handle.toNat / 2 ^ 28 = h.toNat / 2 ^ 28)) then s
  else
    let r := newReq s h .entry 8 [] .issued
    resolveAt (reqAdd s r) (later s 1 r.id) r.id

/-- Whether an entry is that of a live object, under a handle's generation: not live where it is malformed (R387). -/
def liveUnder (s : State) (h : Word) (e : List Word) : Bool :=
  eLive e && entryOk e && decide (eGen e = hGen h) &&
    (decide (eRes e ≥ 2) || decide (hHome h ≠ s.pkg.toNat) || (objWith s (h.toNat / 2 ^ 28) e).isSome)

/-- The checks of HQRY. -/
def chkHqry (q : HQuery) (h : Word) (s : State) : Chk :=
  match q with
  | .home => .ok
  | .rights => .ok
  | .live => faultIf (decide (hIndex h = 0)) 23 (handleInfo h) 0
  | _ =>
    (faultIf (decide (hIndex h = 0)) 23 (handleInfo h) 0).and
      (match heldEntry s h with
        | none => .ok
        | some e => faultIf (decide (eGen e ≠ hGen h)) 23 (handleInfo h) 0)

/-- The answer of the unit from an entry. -/
def hqryFrom (s : State) (q : HQuery) (h : Word) (e : List Word) : Nat :=
  match q with
  | .home => hHome h
  | .rights => hRights h
  | .live => if liveUnder s h e then 1 else 0
  | .res => eRes e + 4 * eHdie e
  | .shape => eFmt e + 16 * eNd e + 128 * eAttr e
  | .ver => eVer e
  | .size => eSize e

/-- HQRY (R160): codes home and rights by the handle, the others by the unit, or all ones while it fetches the entry. -/
def execHqry (q : HQuery) (rd : BitVec 6) (ha : BitVec 5) (s : State) : Host.Outcome State Fault Refusal :=
  let h := readH s ha
  let held := heldEntry s h
  let v := BitVec.ofNat 64 (hqryFrom s q h (held.getD []))
  perform s (chkHqry q h s) fun s =>
    if q = .home ∨ q = .rights ∨ held.isSome then landS s 8 rd v else fetchEntry (landS s 8 rd (BitVec.allOnes 64)) h

/-! ## Resolution (R264) -/

/-- What a job's read has brought: the codes by their numbers, with those that came poisoned. A chain takes it as its card, a
collective by what the read was for. -/
def jobAnswer (s : State) (r : Req) (data : List (Nat × Word32)) (bads : List Nat) : State :=
  match r.eng with
  | none => reqDel s r.id
  | some e =>
    let s := jobUpd (reqDel s r.id) e.die e.job fun j => { j with reads := data, bads := bads }
    let chain := match jobFind s e.die e.job with
      | some j => decide (j.kind = 5) && j.words.isEmpty
      | none => false
    post s (s.tick + 1) (if chain then .chainCardRead else .jobStart)
      { Ev.none with die := e.die, id := e.job, flag2 := true, n := r.left.headD 0,
                     bytes := (data.foldr insCode []).flatMap fun x => bytesOf x.2.toNat 4 }

/-- A request of an engine that resolves again travels again; what is held here now is read here, or the job starts again. -/
def resolveJobReq (s : State) (r : Req) : State :=
  let els := r.elems.map Prod.snd
  match resolve s r.die r.dom.toNat r.handle (reqRight r), decide (r.op = .jobRead) with
  | .remote p ent, _ => sendRemote s r p ent
  | .ok o ent, true =>
    match els.find? fun e => (elemBit o r.w e).isNone with
    | some e => lateFault s r 25 (BitVec.ofNat 64 (e.toNat * r.w / 8))
    | none =>
      match extChk s r.die r.dom.toNat o false r.w els with
      | .rights b => lateFault s r 23 (BitVec.ofNat 64 b)
      | .deferred b => parkReq s r 0 b
      | _ =>
        let y := readElems s r.die o ent r.w els
        let l := (r.elems.map Prod.fst).zip y.2
        jobAnswer y.1 r (r.data ++ l.map fun x => (x.1, BitVec.ofNat 32 x.2.1)) (r.bads ++ (l.filter fun x => x.2.2).map Prod.fst)
  | _, _ =>
    let s := reqDel s r.id
    match r.eng with
    | some e => jobUpd s e.die e.job fun j => { j with st := .ready, phase := if j.kind = 3 then 0 else j.phase }
    | none => s

/-- A read of an image that resolves again travels again; one that is held here now is read here, and this one is forgotten. -/
def resolveFetch (s : State) (r : Req) : State :=
  match resolve s r.die r.dom.toNat r.handle 0 with
  | .remote p ent => sendRemote s r p ent
  | _ => updDie (reqDel s r.id) r.die fun y => { y with images := y.images.filter fun f => decide (f.req ≠ r.id) }

/-- A fetch of another package's entry travels to it. -/
def resolveEntry (s : State) (r : Req) : State :=
  if hHome r.handle = s.pkg.toNat then reqDel s r.id else sendRemote s r (hHome r.handle) []

/-- Resolves a request by its kind. -/
def resolveReq (s : State) (r : Req) : State :=
  match r.op with
  | .ldt spec step t => resolveLdt (rearm s r.core t.toNat (.request r.id)) r spec step t
  | .stt _ => resolveStt s r
  | .pft => resolvePft s r
  | .acqv sc _ _ _ => resolveAcqv s r sc
  | .relv sc v => resolveRelv s r sc v
  | .waitb el ph => resolveWait s r el ph
  | .mwaitb el ph => resolveWait s r el ph
  | .pfxlook sh t hs pos => resolvePfx (rearm s r.core t.toNat (.request r.id)) r sh t hs pos
  | .ctxsave x y => resolveCtxsave s r x y
  | .ctxrest x y => resolveCtxrest s r x y
  | .ldp pa nb a => resolveLdp s r pa nb a
  | .stp pa nb _ data => resolveStp s r pa nb data
  | .tlbi kind pkg ident off n => resolveTlbi s r kind pkg ident off n
  | .oti ident => resolveOti s r ident
  | .ota ident attrs => resolveOta s r ident attrs
  | .fetch => resolveFetch s r
  | .entry => resolveEntry s r
  | .jobRead => resolveJobReq s r
  | .jobWrite => resolveJobReq s r
  | .halo .. => resolveJobReq s r
  | _ =>
    match reqAtom r with
    | some x => resolveAtomic s r x
    | none => s

/-- HANDLE_RESOLUTION (R264): a request that stands resolves, a held store looks at what it needs; one parked, detached or elsewhere
does not. -/
def execHandleResolution (s : State) : Host.Outcome State Fault Refusal :=
  match reqFind s s.ev.id with
  | none => .next s
  | some r =>
    let looks := decide (r.st = .held) && (match r.op with | .stt _ => true | _ => false)
    if r.st = .issued ∨ looks = true then .next (resolveReq s r) else .next s

/-! ## The fault queue (R343 to R345, R348) -/

/-- Records that the ring of a die holds. -/
def ringSize (y : Die) : Nat := 2 ^ (min 6 (y.fqctl.toNat / 2 % 8) + 6)

/-- Where record n lies. -/
def recordAt (y : Die) (n : Nat) : Nat := y.fqbase.toNat / 4096 * 4096 + 64 * (n % ringSize y)

/-- Whether the next record can be posted (R344). -/
def canPost (y : Die) : Bool :=
  let a := recordAt y y.fqprod.toNat
  y.fqctl.getLsbD 0 && decide ((y.fqprod - y.fqcons).toNat < ringSize y) && memMapped a && memMapped (a + 63)

/-- The eight words of a record (R345). -/
def recordWords (n : Word) (cyc : Word) (r : FRec) : List Word :=
  [n, recWord1 r, r.handle, r.off, r.prog, cyc, r.token, r.src]

/-- FAULT_RECORD_POST (R344): the oldest record's bytes perform, prod advances, and the notice is raised. -/
def execFaultRecordPost (s : State) : Host.Outcome State Fault Refusal :=
  let d := s.ev.die
  let y := dieOf s d
  match y.recs with
  | [] => .next s
  | r :: rest =>
    if !(canPost y) then .next s
    else
      let a := recordAt y y.fqprod.toNat
      let s := physWrite (flushPhys s (a / 2 ^ 40) a 64) a ((recordWords y.fqprod s.gcyc r).flatMap fun w => bytesOf w.toNat 8)
      let s := updDie s d fun y => { y with recs := rest, fqprod := y.fqprod + 1 }
      let s := raiseAsync s (noticeCore s d) { cause := 52, info0 := 52, info2 := 0, info3 := 0 }
      .next (if rest.isEmpty then s else post s (later s 1 d) .faultRecordPost { Ev.none with die := d })

/-- Whether a detached request still misses its residency. -/
def reqAbsent (s : State) (r : Req) : Bool :=
  match resolve s r.die r.dom.toNat r.handle 0 with
  | .deferred => true
  | .ok o _ =>
    match extChk s r.die r.dom.toNat o false r.w (r.elems.map Prod.snd) with
    | .deferred _ => true
    | _ => false
  | _ => false

/-- Whether a detached job still misses the residency of a side. -/
def jobAbsent (s : State) (d : Nat) (j : Job) : Bool :=
  let w := jobCard j
  let parks (x : Option JobObj) : Bool := match x with | some (.park _) => true | _ => false
  parks (sideObj s d j (cSrci w) 0 (srcElems (jobMem s j) j w) (codeWidth (cSfmt w))) ||
    parks (sideObj s d j (cDsti w) 1 (dstElems w) (codeWidth (cDfmt w)))

/-- A parked request resolves again (R348); one that was detached moves no byte (R436). -/
def resumeReq (s : State) (r : Req) : State :=
  if r.det.isSome then
    if reqAbsent s r then parkReq s r 0 (firstByte r) else reqSet s { r with st := .resolvedDetached }
  else
    let s := match r.eng with
      | some e => if e.poison then s else jobUpd s e.die e.job fun j => { j with st := .running }
      | none => s
    let held := (coreOf s r.core).heldStt.contains r.id && r.eng.isNone
    resolveAt (reqSet s { r with st := if held then .held else .issued }) (later s 1 r.id) r.id

/-- A parked job is Ready again (R348), or, detached, resolves without effect (R436). -/
def resumeJob (s : State) (d : Nat) (j : Job) : State :=
  if j.det.isSome then
    if jobAbsent s d j then parkJob s d j j.wait j.woff
    else jobUpd s d j.id fun j => { j with st := .resolvedDetached }
  else jobUpd s d j.id fun j => { j with st := .ready }

/-- The parked job of a token: its die and itself. -/
def jobByToken (s : State) (tok : Word) : Option (Nat × Job) :=
  (List.range 4).findSome? fun d => ((dieOf s d).jobs.find? fun j => decide (j.st = .parked tok)).map fun j => (d, j)

/-- FQRESUME (R348): the producer that the token names resolves again. -/
def execFqresume (s : State) : Host.Outcome State Fault Refusal :=
  match s.reqs.find? fun r => decide (r.st = .parked s.ev.w) with
  | some r => .next (resumeReq s r)
  | none =>
    match jobByToken s s.ev.w with
    | some (d, j) => .next (resumeJob s d j)
    | none => .next s

/-- FQABORT (R348): the producer that the token names ends. -/
def execFqabort (s : State) : Host.Outcome State Fault Refusal :=
  match s.reqs.find? fun r => decide (r.st = .parked s.ev.w) with
  | some r => .next (if r.det.isSome then reqSet s { r with st := .abortedDetached } else abortReq s r 67)
  | none =>
    match jobByToken s s.ev.w with
    | some (d, j) =>
      .next (if j.det.isSome then jobUpd s d j.id fun j => { j with st := .abortedDetached }
             else failJob s d j 67 j.wait j.woff false)
    | none => .next s

/-! ## Write-backs tried again (R398) -/

/-- WRITEBACK_RETRY (R398): when sectors have been pushed, a free choice of the package's dirty lines homed at the die is
written back. -/
def execWritebackRetry (s : State) : Host.Outcome State Fault Refusal :=
  let d := s.ev.die
  .next ((List.range 4).foldl (fun s e =>
    (dieOf s e).lines.foldl (fun s l =>
      match objOfLine s e l with
      | some o =>
        if homeDie o l.shard = d ∧ l.mask ≠ 0 ∧ pickBit s (4000 + e) (l.obj + 8 * l.blk + l.shard) then writeBack s e l else s
      | none => s) s) s)

end Sys2Proof.Machine
end

