-- ==== Sys2Proof/Machine/Manager.lean ====
section
/-! DEFINITION. The object manager (R401, R402): moves of extents, and the stacks of free sectors and pages. -/

namespace Sys2Proof.Machine

/-- The die of a register address (R343). -/
def regDie (a : Nat) : Nat := (a - 0xFF0000000000) / 0x1000000

/-- The object that a move names, homed here and live. -/
def moveObj (s : State) (d : Nat) : Option Obj :=
  let key := (dieOf s d).mobj.toNat / 2 ^ 28
  if homedHere s key then
    match tableEntry s d (key % 2 ^ 24) with
    | some e => if eLive e && entryOk e then objWith s key e else none
    | none => none
  else none

/-- mstat of a failed move. -/
def moveFail (s : State) (d why : Nat) : State :=
  updDie s d fun y => { y with mstat := BitVec.ofNat 64 (2 ^ 62 + why * 2 ^ 56 + y.mstat.toNat % 2 ^ 32) }

/-- The next part of a move. -/
def moveOn (s : State) (d : Nat) (copying : Bool) : State :=
  post s (later s 1 (8000 + d)) .moveExtent { Ev.none with die := d, flag := copying }

/-- MGO (R402): a move starts, unless one is in progress. -/
def execMgo (s : State) : Host.Outcome State Fault Refusal :=
  let d := regDie s.ev.id
  if (dieOf s d).mstat.getLsbD 63 then .next s
  else
    let s := updDie s d fun y => { y with mstat := 0, mCur := 0 }
    match moveObj s d with
    | none => .next (moveFail s d 1)
    | some _ => .next (moveOn (updDie s d fun y => { y with mstat := BitVec.ofNat 64 (2 ^ 63) }) d false)

/-- Whether the destination extents of a move are indirect. -/
def moveInd (y : Die) (w : Nat × Nat) : Bool :=
  match y.mdst.toNat / 2 ^ 61 % 4 with
  | 0 => xInd w
  | 1 => false
  | _ => true

/-- Bytes of one destination extent: its data, or its run of indirection entries (R396). -/
def moveLen (o : Obj) (ind : Bool) : Nat := if ind then 2 ^ eXlog o.e / 64 else 2 ^ eXlog o.e

/-- The destination address of the extent a move has come to. -/
def moveDst (y : Die) (o : Obj) (ind : Bool) : Nat := y.mdst.toNat % 2 ^ 48 + y.mCur * moveLen o ind

/-- The shard and extent a move has come to. -/
def moveAt (y : Die) : Nat × Nat := (y.mext.toNat % 4, y.mext.toNat / 2 ^ 32 + y.mCur)

/-- Why a move fails at its extent: absent, kind 3, or a destination not aligned to its extent or its entries. -/
def moveWhy (s : State) (d : Nat) (o : Obj) : Option Nat :=
  let y := dieOf s d
  let a := moveAt y
  let w := extMem s o a.1 a.2
  if !(xPresent o w) || decide (a.1 ≥ 2 ^ eShn o.e) then some 2
  else if y.mdst.toNat / 2 ^ 61 % 4 = 3 then some 3
  else if y.mdst.toNat % 2 ^ 48 % (if moveInd y w then 8 else 2 ^ eXlog o.e) ≠ 0 then some 3
  else none

/-- The lines of an extent that a die holds. -/
def extLines (s : State) (e : Nat) (o : Obj) (q x : Nat) : List Line :=
  (dieOf s e).lines.filter fun l =>
    decide (l.obj = o.key) && decide (l.shard = q) && decide (512 * l.blk / 2 ^ eXlog o.e = x)

/-- Marks a range of memory uncorrectable. -/
def markBad (s : State) (a : Nat) : State := { s with uncorr := s.uncorr ++ [a] }

/-- Writes one block of a move at an address, under an owner's tag: its bytes, or at an indirection entry (ind) its sectors; none where
no sector is free. A block that cannot be read stays one that cannot be read. -/
def putMoved (s : State) (tag attr : Nat) (ind : Bool) (a : Nat) (b : Option (BitVec 4096)) : Option State :=
  if ind then
    let s := physPut s a 0
    match b with
    | some v => if v = 0 then some s else storeInd s (a / 2 ^ 40) tag attr a v
    | none =>
      match popSectors s (a / 2 ^ 40) 4 with
      | none => none
      | some (s, sa) => some (markBad (physPut s a (BitVec.ofNat 64 (2 ^ 63 + 3 * 2 ^ 60 + sa))) sa)
  else
    match b with
    | some v => some (sectorsOut s tag a (blockBytes v))
    | none => some (markBad s a)

/-- Writes one block of a local move at its destination. -/
def moveBlock (s : State) (o : Obj) (ind : Bool) (dst i : Nat) (b : Option (BitVec 4096)) : Option State :=
  putMoved s (ownerTag o.e) (eAttr o.e) ind (if ind then dst + 8 * i else dst + 512 * i) b

/-- Copies n blocks of an extent from block i on. -/
def moveBlocks (s : State) (o : Obj) (w : Nat × Nat) (ind : Bool) (dst i n : Nat) : Option State :=
  match n with
  | 0 => some s
  | n + 1 =>
    match moveBlock s o ind dst i (storedBlock s o w (512 * i)) with
    | none => none
    | some s => moveBlocks s o w ind dst (i + 1) n

/-- One extent more is done; the last one ends the move. -/
def moveDone (s : State) (d : Nat) : State :=
  let y := dieOf s d
  let n := y.mCur + 1
  if n > y.mext.toNat / 2 ^ 16 % 2 ^ 16 then updDie s d fun y => { y with mCur := n, mstat := BitVec.ofNat 64 n }
  else moveOn (updDie s d fun y => { y with mCur := n, mstat := BitVec.ofNat 64 (2 ^ 63 + n) }) d false

/-- A block of a peer move travels as write-back data (R454): its words 1 to 3 are the destination address, the mark of a move, and the
owner's tag, the attributes, whether it goes behind an indirection entry and whether it could not be read; the manual does not give
them (DESIGN CHOICE, see the log). -/
def moveSend (s : State) (d : Nat) (o : Obj) (ind : Bool) (pkg a : Nat) (b : Option (BitVec 4096)) : State :=
  let w := ownerTag o.e + eAttr o.e * 2 ^ 16 + (if ind then 2 ^ 32 else 0) + (if b.isNone then 2 ^ 33 else 0)
  sendPacket s d pkg (a / 2 ^ 40 % 4) 2
    (payloadOf [BitVec.ofNat 64 (o.key * 2 ^ 28), BitVec.ofNat 64 a, 1, BitVec.ofNat 64 w] ::
      (List.range 4).map fun i => (b.getD 0).extractLsb' (1024 * i) 1024)
    none

/-- Steps 3 and 4 of R401 on one extent. -/
def moveCopy (s : State) (d : Nat) (o : Obj) : State :=
  let y := dieOf s d
  let a := moveAt y
  let w := extMem s o a.1 a.2
  let ind := moveInd y w
  let dst := moveDst y o ind
  let n := 2 ^ eXlog o.e / 512
  if y.mdst.getLsbD 63 then
    let pkg := y.mdst.toNat / 2 ^ 48 % 4096
    moveDone ((List.range n).foldl (fun s i =>
      moveSend s d o ind pkg (if ind then dst + 8 * i else dst + 512 * i) (storedBlock s o w (512 * i))) s) d
  else
    match moveBlocks s o w ind dst 0 n with
    | none => moveOn s d true
    | some t =>
      let keep := w.1 % 2 ^ 60 / 2 ^ 48 * 2 ^ 48 + (if xCow w then 2 ^ 60 else 0)
      let t := physPut t (extAddr o a.1 a.2) (BitVec.ofNat 64 (2 ^ 63 + (if ind then 2 ^ 62 else 0) + keep + dst))
      let t := (List.range 4).foldl (fun t e => dropXlats t e (xlatOf o a.1 a.2)) t
      moveDone (wakeMovers t fun k => decide (k = o.key)) d

/-- MOVE_EXTENT (R401): flag false sets mv and writes back the extent's dirty lines, flag true copies and installs. -/
def execMoveExtent (s : State) : Host.Outcome State Fault Refusal :=
  let d := s.ev.die
  if !((dieOf s d).mstat.getLsbD 63) then .next s
  else
    match moveObj s d with
    | none => .next (moveFail s d 1)
    | some o =>
      match moveWhy s d o with
      | some why => .next (moveFail s d why)
      | none =>
        if s.ev.flag then .next (moveCopy s d o)
        else
          let a := moveAt (dieOf s d)
          let x := extAddr o a.1 a.2
          let w := (extMem s o a.1 a.2).1
          let s := physPut s x (BitVec.ofNat 64 (w - w / 2 ^ 61 % 2 * 2 ^ 61 + 2 ^ 61))
          let s := (List.range 4).foldl (fun s e => (extLines s e o a.1 a.2).foldl (fun s l => writeBack s e l true) s) s
          let dirty := (List.range 4).any fun e => (extLines s e o a.1 a.2).any fun l => decide (l.mask ≠ 0)
          .next (moveOn s d (!dirty))

/-- MSPUT (R402): pushes one sector address, and the write-backs that lacked one are tried again (R398). -/
def execMsput (s : State) : Host.Outcome State Fault Refusal :=
  let d := regDie s.ev.id
  let s := pushSector s d (s.ev.w.toNat % 2 ^ 48)
  .next (post s (later s 1 d) .writebackRetry { Ev.none with die := d })

/-- MPPUT (R402): pushes one page address. -/
def execMpput (s : State) : Host.Outcome State Fault Refusal :=
  let d := regDie s.ev.id
  let x := pushStack s (dieOf s d).mpstk (dieOf s d).mpfree (s.ev.w.toNat % 2 ^ 48 / 65536 * 65536)
  .next (updDie x.1 d fun y => { y with mpfree := x.2 })

end Sys2Proof.Machine
end

