-- ==== Sys2Proof/Machine/Launch.lean ====
section
/-! DEFINITION. Linked images, launch records, admission, loading and starting (R411 to R422), kind-2 and kind-3 loads, freeing
a core (R422, R428, R323), and the gangs' account of holds (R437 to R440, R505). -/

namespace Sys2Proof.Machine

/-! ## Launch records and rings (R415, R416) -/

/-- Records that ring p holds. -/
def csSize (y : Die) (p : Nat) : Nat := 2 ^ (min 10 ((tblGet (0 : Word) y.csbase p).toNat % 16) + 4)

/-- Where record n of ring p lies. -/
def csRecord (y : Die) (p n : Nat) : Nat := (tblGet (0 : Word) y.csbase p).toNat / 4096 * 4096 + 256 * (n % csSize y p)

/-- Number of the head record. -/
def csCons (y : Die) (p : Nat) : Nat := (tblGet (0 : Word) y.cscons p).toNat

/-- Number of the next record to be written. -/
def csProd (y : Die) (p : Nat) : Nat := (tblGet (0 : Word) y.csprod p).toNat

/-- The 32 words of a record; none where memory cannot be read. -/
def recordOf (s : State) (a : Nat) : Option (List Word) := if memReadable s a 256 then some (physWords s a 32) else none

/-- The device writes st and why into a record (R416). -/
def putStatus (s : State) (a st why : Nat) : State :=
  let s := flushPhys s (a / 2 ^ 40) a 8
  physPut s a (BitVec.ofNat 64 ((physWord s a).toNat % 2 ^ 56 + st * 2 ^ 60 + why * 2 ^ 56))

/-! ## Barriers of a record (R416, R418) -/

/-- A barrier of a record by its first word's number: the handle, then element 47:16, used 1, phase 0. -/
structure RecBar where
  h : Word
  el : Nat
  used : Bool
  ph : Bool
  deriving DecidableEq, Repr

/-- The barrier at word i. -/
def recBar (l : List Word) (i : Nat) : RecBar :=
  { h := l.getD i 0, el := wBits l (i + 1) 16 32, used := decide (wBits l (i + 1) 1 1 = 1), ph := decide (wBits l (i + 1) 0 1 = 1) }

/-- Arrives at, or poisons, a record's completion barrier as an engine does, with no record of its own. -/
def cbarOp (s : State) (d : Nat) (l : List Word) (poison : Bool) : State :=
  let b := recBar l 23
  if !b.used then s
  else
    let e : Eng := { die := d, job := 0, unit := 2, num := 0, src := 0, poison := true, fail := none }
    let r : Req :=
      { id := s.nextId, core := 96 * d, sec := false, off := 0, handler := false, die := d, dom := BitVec.ofNat 16 (lDom l),
        handle := b.h, op := .bara false poison (BitVec.ofNat 64 b.el) 0, w := 8, elems := [], data := [], left := [],
        ready := s.tick, rdAt := none, st := .issued, eng := some e, det := none, miss := [], bad := none, asks := 0, want := [], bads := [] }
    resolveAtomic (reqAdd s r) r (.bara b.el false poison 0)

/-- How the dependencies of a record stand. -/
inductive Deps where
  | met
  | poisoned
  | wait
  deriving DecidableEq, Repr

/-- The barrier of a record's word i at another package, as the answer to its request has it (R393, R587). -/
def farBarrier (s : State) (d : Nat) (l : List Word) (i : Nat) : BarSt :=
  match (dieOf s d).depReqs.find? fun x => decide (x.1 = l) && decide (x.2.1 = i) with
  | none => .waits
  | some x =>
    match (reqFind s x.2.2).map Req.st with
    | some (.answered w) => if w.getLsbD 63 then .poisoned else .flipped
    | _ => .waits

/-- What the command stream observes of the barrier at word i. -/
def depLook (s : State) (d : Nat) (l : List Word) (i : Nat) : BarSt :=
  let b := recBar l i
  match barrierAt s d (lDom l) b.h b.el b.ph 1 with
  | .remote _ _ => farBarrier s d l i
  | x => x

/-- The used dependencies of a record. -/
def usedDeps (l : List Word) : List Nat := [15, 17, 19, 21].filter fun i => (recBar l i).used

/-- Test 1 of R418; a barrier that is not resident, or cannot be resolved, leaves the record waiting. -/
def depsOf (s : State) (d : Nat) (l : List Word) : Deps :=
  let bs := usedDeps l
  if bs.any fun i => decide (depLook s d l i = .poisoned) then .poisoned
  else if bs.all (fun i => decide (depLook s d l i = .flipped)) && !((recBar l 23).used && decide (depLook s d l 23 = .deferred)) then .met
  else .wait

/-- icl. -/
def dIcl (w : List Word) : Nat := wBits w 8 20 4
/-- pos. -/
def dPos (w : List Word) : Nat := wBits w 8 17 3
/-- The core number on the die that a descriptor's place maps to. -/
def dCore (l w : List Word) : Nat := 8 * lCluster l (dIcl w) + dPos w

/-- Image cores that a record includes. -/
def imgIncl (l : List Word) (n : Nat) : List Nat := (List.range (min n 96)).filter fun k => decide (lKind l = 1) || lMask l k

/-- The cores that a record names, with their image cores; a place that no core has names none (see the log). -/
def namedCores (s : State) (d : Nat) (l : List Word) : List (Nat × Nat) :=
  if lKind l = 0 then []
  else
    match imgOf s d l with
    | .ok o => ((imgIncl l (imgN s o)).map fun k => (dCore l (imgDesc s o k), k)).filter fun x => decide (x.1 < 96)
    | _ => []

/-- The coolant class of an image core (R517). -/
def coolClass (l w : List Word) : Nat := if wBits l 7 48 16 = 0 then wBits w 10 0 8 else wBits l 7 48 8

/-- The demand of a coolant class (R513). -/
def coolDemand (s : State) (c : Nat) : Nat := (tblGet (0 : Word) s.ctab (c / 4)).toNat / 2 ^ (16 * (c % 4)) % 65536

/-- The demand of each cluster that a record occupies (R517). -/
def demands (s : State) (d : Nat) (l : List Word) : List (Nat × Nat) :=
  match imgOf s d l with
  | .ok o =>
    let cs := (namedCores s d l).map fun x => (x.1 / 8, coolDemand s (coolClass l (imgDesc s o x.2)))
    ((cs.map Prod.fst).eraseDups).map fun c => (c, ((cs.filter fun x => decide (x.1 = c)).map Prod.snd).foldl max 0)
  | _ => []

/-! ## Admission (R418) -/

/-- What the command stream does with a head record in this cycle. -/
inductive HeadDo where
  | none
  | poisoned
  | withdrawn
  | take
  deriving DecidableEq, Repr

/-- The head record of ring p: its address and words. -/
def headOf (s : State) (d p : Nat) : Option (Nat × List Word) :=
  let y := dieOf s d
  if csCons y p = csProd y p then none
  else
    let a := csRecord y p (csCons y p)
    (recordOf s a).map fun l => (a, l)

/-- The cores that waiting heads above priority p reserve. -/
def reserved (s : State) (d p : Nat) : List Nat :=
  (List.range 8).flatMap fun q =>
    if q ≤ p then []
    else
      match headOf s d q with
      | some (_, l) => if lRes l then (namedCores s d l).map Prod.fst else []
      | none => []

/-- Whether a launch in being holds a share of the package. -/
def shareHeld (s : State) (n : Nat) : Bool :=
  (List.range 4).any fun d => (dieOf s d).launches.any fun x => decide (lShare x.words = n)

/-- Test 4 of R418 (R517). -/
def coolOk (s : State) (d p : Nat) (l : List Word) : Bool :=
  let held := (reserved s d p).map fun c => c / 8
  (demands s d l).all fun x =>
    let z := zoneOf s (16 * d + x.1)
    decide (z.state = 2) && decide (z.granted + x.2 ≤ z.tflow) && !(held.contains x.1)

/-- Where the context image of image core k of a record stands: primary and mirror. -/
def ctxPlace (l : List Word) (k : Nat) : Nat × Nat :=
  (wBits l 12 0 48 + k * wBits l 14 0 32, wBits l 13 0 48 + k * wBits l 14 0 32)

/-- Whether an image that a record needs lies at another package and is still being read. -/
def farWaits (s : State) (d : Nat) (l : List Word) : Bool :=
  let reads (h : Word) (at_ : Option (Nat × Nat)) : Bool :=
    farUnread s d (lDom l) h l at_ ||
      (match farFind s d l h (lDom l) at_ with
        | some f => !f.done && !(farLost s f)
        | none => false)
  reads (l.getD 1 0) none ||
    (decide (lKind l = 3) && (namedCores s d l).any fun c => reads (l.getD 11 0) (some (ctxPlace l c.2)))

/-- The tests of R418 on the head of ring p, in order. -/
def headDo (s : State) (d p : Nat) : HeadDo :=
  match headOf s d p with
  | none => .none
  | some (_, l) =>
    if wBits l 0 60 4 = 7 then .withdrawn
    else
      match depsOf s d l with
      | .poisoned => .poisoned
      | .wait => .none
      | .met =>
        let waits := decide (lKind l ≠ 0) && ((match imgOf s d l with | .wait => true | _ => false) || farWaits s d l)
        let cs := (namedCores s d l).map Prod.fst
        if waits || (cs.any fun c => (dieOf s d).busyCores.contains c || (reserved s d p).contains c) ||
            (decide (lShare l ≠ 0) && shareHeld s (lShare l)) || !(coolOk s d p l) then .none
        else .take

/-- What the command stream does with the heads in a cycle, from priority 7 down: poisoned and withdrawn records leave, and at most
one is admitted. Each is a byte: the ring, and 8, 16 or 24 for poisoned, withdrawn, taken. -/
def admitPlan (s : State) (d : Nat) : List Byte :=
  let ps := [7, 6, 5, 4, 3, 2, 1, 0]
  let first := ps.find? fun p => decide (headDo s d p = .take)
  ps.filterMap fun p =>
    match headDo s d p with
    | .poisoned => some (BitVec.ofNat 8 (8 + p))
    | .withdrawn => some (BitVec.ofNat 8 (16 + p))
    | .take => if first = some p then some (BitVec.ofNat 8 (24 + p)) else none
    | .none => none

/-- The head record leaves its ring. -/
def consume (s : State) (d p : Nat) : State :=
  updDie s d fun y => { y with cscons := tblSet (0 : Word) y.cscons p (tblGet (0 : Word) y.cscons p + 1) }

/-- Adds to a zone's grant. -/
def grant (s : State) (z : Nat) (f : Nat → Nat) : State := updZone s z fun x => { x with granted := f x.granted }

/-- A core with nothing left that it had in progress: what its registers, scratchpad and stores hold stays, for the jobs that run
on (R422, R424), with the readers and the writes of units outside the core. -/
def idleCore (c : Core) (born : Nat) : Core :=
  let off (x : Strm) : Strm := { x with live := false, hold := .ended, half := false, fault := none }
  { Core.reset with
    born := born, mode := c.mode, level := c.level, stopS := c.stopS, stopWhy := c.stopWhy, pbound := c.pbound, lbound := c.lbound,
    ktvb := c.ktvb, dom := c.dom, htb := c.htb, trapinfo := c.trapinfo, dict := c.dict, ustore := c.ustore, codeImg := c.codeImg,
    imgLen := c.imgLen, hstore := c.hstore, hcount := c.hcount, age := c.age, readers := c.readers,
    stores := c.stores.filter fun x => decide (x.group ≤ 3), statLate := c.statLate, statReplay := c.statReplay,
    statSched := c.statSched, statLast := c.statLast,
    arch := { c.arch with pri := off c.arch.pri, sec := off c.arch.sec,
                          seq := { c.arch.seq with state := 0, hold := none, mend := none, fly := [], load := none, req := none } } }

/-- A core that a launch has taken. -/
def takenCore (s : State) (c : Core) (l : Launch) (icore : Nat) : Core :=
  { idleCore c s.nextId with run := .loading, launch := some l.id, icore := icore }

/-- Takes the cores, the share and the coolant grant of a record (R418, R419). -/
def admitRecord (s : State) (d a : Nat) (l : List Word) : State :=
  let cs := namedCores s d l
  let g := demands s d l
  let x : Launch :=
    { id := s.nextId, recPa := a, words := l, cores := cs, start := 0, loaded := false, started := false, grants := g,
      frames := [], finals := [] }
  let s := { s with nextId := s.nextId + 1 }
  let s := putStatus s a 1 0
  let s := g.foldl (fun s z => grant s (16 * d + z.1) fun n => n + z.2) s
  let s := updDie s d fun y => { y with busyCores := y.busyCores ++ (cs.map Prod.fst).eraseDups, launches := y.launches ++ [x] }
  let s := cs.foldl (fun s c => setCore s (96 * d + c.1) (takenCore s (coreOf s (96 * d + c.1)) x c.2)) s
  let span := if lKind l = 3 then 24574 else 8190
  post s (within s span x.id) .launchLoad { Ev.none with die := d, id := x.id }

/-- One ring's part of the plan. -/
def admitOne (s : State) (d : Nat) (b : Byte) : State :=
  let p := b.toNat % 8
  match headOf s d p with
  | none => s
  | some (a, l) =>
    match b.toNat / 8 with
    | 1 => consume (cbarOp (putStatus s a 8 0) d l true) d p
    | 2 => consume s d p
    | _ => consume (admitRecord s d a l) d p

/-- ADMISSION (R418, R422): the plan that the cycle began with. -/
def execAdmission (s : State) : Host.Outcome State Fault Refusal :=
  .next (s.ev.bytes.foldl (fun s b => admitOne s s.ev.die b) s)

/-! ## What the command stream reads of other packages -/

/-- The records whose images are wanted: heads whose dependencies are met, and launches that still load. -/
def readingRecords (s : State) (d : Nat) : List (List Word) :=
  ((List.range 8).filterMap fun p =>
    match headOf s d p with
    | some (_, l) => if wBits l 0 60 4 ≠ 7 ∧ depsOf s d l = .met then some l else none
    | none => none) ++
  ((dieOf s d).launches.filter fun x => !x.loaded).map Launch.words

/-- The images that a record wants. -/
def wantedImages (s : State) (d : Nat) (l : List Word) : List (Word × Option (Nat × Nat)) :=
  if lKind l = 0 then []
  else (l.getD 1 0, none) ::
    (if lKind l = 3 then (namedCores s d l).map fun c => (l.getD 11 0, some (ctxPlace l c.2)) else [])

/-- The heads of a die's rings. -/
def headWords (s : State) (d : Nat) : List (List Word) := (List.range 8).filterMap fun p => (headOf s d p).map Prod.snd

/-- Begins the reads of images, and the requests for barriers, that records now want of other packages; what none wants any more goes. -/
def tendDie (s : State) (d : Nat) : State :=
  let ls := readingRecords s d
  let restores := (s.reqs.filter fun r => decide (r.die = d) && (match r.op with | .ctxrest .. => true | _ => false)).map fun r =>
    (launchOf s r.core).map Launch.words |>.getD []
  let heads := headWords s d
  let s := if (dieOf s d).images.isEmpty && (dieOf s d).depReqs.isEmpty then s
    else updDie s d fun y =>
      { y with images := y.images.filter fun f => ls.contains f.words || restores.contains f.words,
               depReqs := y.depReqs.filter fun x => heads.contains x.1 && (reqFind s x.2.2).isSome }
  let stale (r : Req) : Bool :=
    (match r.op with | .depb .. => true | _ => false) && decide (r.die = d) && !((dieOf s d).depReqs.any fun x => decide (x.2.2 = r.id))
  let s := if s.reqs.any stale then { s with reqs := s.reqs.filter fun r => !(stale r) } else s
  let s := ls.foldl (fun s l => (wantedImages s d l).foldl (fun s x =>
    if farUnread s d (lDom l) x.1 l x.2 then farStart s d l x.1 (lDom l) x.2 else s) s) s
  heads.foldl (fun s l => (usedDeps l).foldl (fun s i =>
    let b := recBar l i
    match barrierAt s d (lDom l) b.h b.el b.ph 1 with
    | .remote p ent =>
      if (dieOf s d).depReqs.any fun x => decide (x.1 = l) && decide (x.2.1 = i) then s
      else
        let r := streamReq s d (lDom l) b.h (.depb (BitVec.ofNat 64 b.el) b.ph) 8 []
        sendRemote (updDie (reqAdd s r) d fun y => { y with depReqs := y.depReqs ++ [(l, i, r.id)] }) r p ent
    | _ => s) s) s

/-- CSPROD_WRITE (R415): a write outside cons to cons + ring size is ignored. -/
def execCsprodWrite (s : State) : Host.Outcome State Fault Refusal :=
  let d := regDie s.ev.id
  let p := s.ev.id % 0x1000 / 0x20
  let y := dieOf s d
  if (s.ev.w - tblGet (0 : Word) y.cscons p).toNat ≤ csSize y p then
    .next (setDie s d { y with csprod := tblSet (0 : Word) y.csprod p s.ev.w })
  else .next s

/-! ## The frame table's entries (R449, R450) -/

/-- Number of entry (L, d, s). -/
def frameKey (l d sl : Nat) : Nat := l * 0x1000 + d * 0x800 + sl

/-- Writes an entry; until the next frame the old one is in effect. -/
def framePut (s : State) (k : Nat) (w : Word) : State :=
  { s with frame := tblSet (0 : Word) s.frame k w,
           frameOld := if s.frameOld.any (fun x => decide (x.1 = k)) then s.frameOld
             else (k, tblGet (0 : Word) s.frame k) :: s.frameOld }

/-- The reserved form of a share's entry. -/
def reservedForm (share : Nat) : Word := BitVec.ofNat 64 (2 ^ 62 + share * 2 ^ 54)

/-- A frame-table entry of an image: key, image core, word. -/
structure ImgFrame where
  key : Nat
  icore : Nat
  w : Word
  ok : Bool
  deriving DecidableEq, Repr

/-- Entry i of descriptor w, with the checks of R450 on its own fields. -/
def imgFrame (s : State) (d : Nat) (l : List Word) (o : Img) (n : Nat) (w : List Word) (i : Nat) : ImgFrame :=
  let e := imgWords s o (wBits w 9 0 48 + 16 * i) 2
  let lp := wBits e 0 56 8
  let dr := wBits e 0 55 1
  let sl := wBits e 0 44 11
  let ic := wBits e 0 0 32
  let k := frameKey lp dr sl
  let core := dCore l (imgDesc s o ic)
  let send := if dr = 0 then wBits e 1 52 12 * 2 ^ 24 + wBits e 1 50 2 * 2 ^ 22 + wBits e 1 43 7 * 2 ^ 15 else 0
  { key := k, icore := ic,
    w := BitVec.ofNat 64 ((reservedForm (lShare l)).toNat + d * 2 ^ 52 + core % 128 * 2 ^ 45 + wBits e 0 32 9 * 2 ^ 36 + send),
    ok := decide (sl % 16 ≠ 0) && decide (lp ≤ 132) && decide (ic < n) &&
      decide (tblGet (0 : Word) s.frame k = reservedForm (lShare l)) }

/-- All entries of an image. -/
def imgFrames (s : State) (d : Nat) (l : List Word) (o : Img) (ds : List (List Word)) : List ImgFrame :=
  ds.flatMap fun w => (List.range (wBits w 9 48 16)).map fun i => imgFrame s d l o ds.length w i

/-! ## The checks of a load (R414) -/

/-- Whether the regions of a descriptor lie in an object of a size (R414, reason 1). -/
def regionsIn (size : Nat) (w : List Word) : Bool :=
  (imgRegions w).all fun x => decide (x.1 + x.2 ≤ size)

/-- Reasons 1 to 12 of R414 in order. -/
def imgRefuse (s : State) (d : Nat) (l : List Word) (o : Img) : Option Nat :=
  let size := imgLimit o
  let hd := imgWords s o 0 2
  let n := wBits hd 1 0 8
  let prot := decide (wBits hd 1 8 1 = 1)
  if size < 64 ∨ !(imgReadable s o) ∨ wBits hd 0 0 32 ≠ 0x4E5A4958 ∨ wBits hd 0 32 16 ≠ 1 ∨ n = 0 ∨ n > 96 ∨ 64 + 128 * n > size then some 1
  else
    let ds := (List.range n).map (imgDesc s o)
    let icls := (ds.map dIcl).eraseDups
    let phys := icls.map (lCluster l)
    let places := ds.map fun w => (dIcl w, dPos w)
    let fs := imgFrames s d l o ds
    if ds.any (fun w => !(regionsIn size w)) then some 1
    else if places.eraseDups.length < n ∨ phys.any (fun c => decide (c ≥ 12)) ∨ phys.eraseDups.length < phys.length then some 2
    else if prot ≠ lMode l ∨ (prot ∧ ds.any fun w => decide (wBits w 3 0 1 = 1) || decide (wBits w 8 16 1 = 1)) then some 3
    else if ds.any (fun w => decide (wBits w 0 52 12 = 0) || decide (wBits w 0 52 12 > 3840) || !(dictOk (imgDict s o w))) then some 4
    else if ds.any (fun w => decide (wBits w 2 0 32 ≥ wBits w 2 32 32) ||
        (decide (wBits w 3 0 1 = 1) && decide (wBits w 3 32 32 ≥ wBits w 2 32 32))) then some 5
    else if ds.any (fun w => decide (wBits w 4 54 10 > 512) ||
        !((imgMicro s o w).zipIdx.all fun x => microEntryOk x.1 x.2)) then some 6
    else if ds.any (fun w => (List.range 8).any fun q => decide (wBits w 6 (5 * q) 5 > 16)) then some 7
    else if ds.any (fun w => decide (wBits w 7 32 32 > lPbound l)) then some 8
    else if ds.any (fun w => decide (wBits w 7 0 32 > lLbound l)) then some 9
    else if ds.any (fun w => decide (wBits w 8 0 8 > 32) || decide (wBits w 8 8 8 > 8)) then some 10
    else if (lShare l = 0 ∧ ds.any fun w => decide (wBits w 9 48 16 ≠ 0)) ∨ fs.any (fun f => !f.ok) ∨
        ((fs.map ImgFrame.key).eraseDups).length < fs.length then some 11
    else
      match kernelPart s d with
      | none => some 12
      | some k => if dictOk k then none else some 12

/-! ## Context images of a kind-3 record (R435) -/

/-- What a kind-3 load finds for one core. -/
inductive CtxRes where
  | ok (key : Nat) (m : Mem)
  | lost
  | wait
  deriving DecidableEq, Repr

/-- The image of image core k. -/
def ctxOf (s : State) (d : Nat) (l : List Word) (k : Nat) : CtxRes :=
  match readCtx s d (lDom l) (l.getD 11 0) l (ctxPlace l k).1 (ctxPlace l k).2 with
  | .ok key m => if microStateOk m then .ok key m else .lost
  | .park _ => .wait
  | .wait => .wait
  | _ => .lost

/-- Reason 13: the header disagrees, or the image of another package holds detached producers. -/
def headerBad (s : State) (l : List Word) (k : Nat) (m : Mem) : Bool :=
  let w := (imgWord m 0x10).toNat
  let h := imgWord m 0
  decide (h.toNat % 2 ^ 32 ≠ 0x4E5A4358) || decide (h.toNat / 2 ^ 32 % 65536 ≠ 1) || decide (w / 2 ^ 36 % 128 ≠ k) ||
    decide ((imgWord m 0x18).toNat / 2 ^ 28 ≠ (l.getD 1 0).toNat / 2 ^ 28) || decide ((w % 2 = 1) ≠ lMode l) ||
    (decide ((imgWord m 0x20).toNat % 65536 ≠ 0) && decide (w / 2 ^ 52 ≠ s.pkg.toNat))

/-! ## Installing (R419 to R421, R427, R435) -/

/-- The launch block (R420). -/
def launchBlock (s : State) (d : Nat) (l w : List Word) (num k : Nat) (start : Word) : List Word :=
  [if l.getD 3 0 = 0 then start else l.getD 3 0, start, BitVec.ofNat 64 (wBits l 0 0 48),
    BitVec.ofNat 64 (s.pkg.toNat * 2 ^ 36 + d * 2 ^ 23 + num * 2 ^ 16 + dPos w * 2 ^ 12 + num / 8 * 2 ^ 8 + k % 128),
    BitVec.ofNat 64 (lGang l), 0, 0, 0]

/-- Address of a half of the yield record of image core k (R427). -/
def yieldAt (l : List Word) (k : Nat) (sec : Bool) : Nat := wBits l 10 0 48 + 512 * k + (if sec then 256 else 0)

/-- Whether a kind-2 load starts a half (R427). -/
def halfStarts (s : State) (l : List Word) (k : Nat) (sec : Bool) : Bool :=
  decide ((physWord s (yieldAt l k sec + 8)).toNat % 8 = 3)

/-- A stream that begins at an offset. -/
def freshStrm (live : Bool) (entry : Nat) (sc : Tbl Word) : Strm :=
  { Strm.reset with s := sc, pcbase := entry, segbase := entry, live := live, halted := false, next := entry,
                    hold := if live then .none else .ended }

/-- A stream of a launch or a yield resume. -/
def startStrm (s : State) (l : List Word) (k : Nat) (sec : Bool) (runs : Bool) (entry : Nat) : Strm :=
  if lKind l = 2 then
    let a := yieldAt l k sec
    freshStrm (runs && halfStarts s l k sec) ((physWord s a).toNat % 2 ^ 32) (tblOf 0 16 fun i => physWord s (a + 64 + 8 * i))
  else freshStrm runs entry []

/-- What a load gives a core beside its architected registers. -/
def loadedCore (s : State) (d : Nat) (x : Launch) (o : Img) (c : Core) (k : Nat) : Core :=
  let l := x.words
  ownedParts s d l o k
  { Core.reset with
    run := .loading, launch := some x.id, icore := k, born := s.nextId, readers := c.readers, stores := c.stores, mode := lMode l,
    gangWait := decide (lGang l ≠ 0),
    holdShift := 4096 * (((dieOf s d).gangs.find? fun g => decide (g.gang = lGang l)).map Gang.total |>.getD 0) }

/-- Installs a core of a kind-1 or kind-2 record. -/
def installFresh (s : State) (d : Nat) (x : Launch) (o : Img) (num k : Nat) (start : Word) : State :=
  let l := x.words
  let w := imgDesc s o k
  let c := loadedCore s d x o (coreOf s (96 * d + num)) k
  let sec := lSec l && !(lMode l) && decide (wBits w 3 0 1 = 1)
  let us := (imgMicro s o w).zipIdx.foldl (fun t e => tblSet (0 : MicroWord) t e.2 e.1) []
  loadStore (setCore s (96 * d + num)
    { c with ustore := us,
             arch := { Arch.reset with
               pri := startStrm s l k false true (wBits w 2 0 32), sec := startStrm s l k true sec (wBits w 3 32 32), secOn := sec,
               seeds := seedsOf s l k, scratch := wordCells 0 (launchBlock s d l w num k start) } }) (96 * d + num)

/-- Installs a core of a kind-3 record from its context image: its streams' bundles are dispatched again from their saved pcbase, with
each slot at its offset of the saved csw (R435). The level is 0 (R18, R419). -/
def installContext (s : State) (d : Nat) (x : Launch) (o : Img) (num k : Nat) (m : Mem) : State :=
  let l := x.words
  let n := 96 * d + num
  let c := loadedCore s d x o (coreOf s n) k
  let a := restArch Arch.reset m
  let csw := imgWord m 0x48
  let pri := { a.pri with live := true }
  let sec := if a.secOn then { a.sec with live := true } else a.sec
  let s := loadStore (setCore s n
    { c with ustore := restUstore m, ie := csw.getLsbD 59, intrap := csw.getLsbD 58,
             arch := { a with pri := pri, sec := sec, seeds := seedsOf s l k } }) n
  redispatch s n 1 (if a.secOn then 1 else 0) [pri.pcbase] [sec.pcbase] csw (imgWord m 0x848)

/-- Attaches the producers detached to an image to the core that restores it (R436). -/
def attach (s : State) (d num key off : Nat) : State :=
  let k := 96 * d + num
  let s := s.reqs.foldl (fun s r =>
    if r.det = some (key, off) then
      let r := { r with det := none, core := k, id := r.id }
      let t := ((reqTile r).getD 0).toNat
      let s := reqSet s r
      let s := updCore s k fun c => updTile { c with born := min c.born r.id } t fun x => { x with prod := .request r.id }
      match r.st with
      | .resolvedDetached => resolveAt (reqSet s { r with st := .issued }) (later s 1 r.id) r.id
      | .abortedDetached => abortReq s r 67
      | _ => s
    else s) s
  (List.range 4).foldl (fun s e =>
    (dieOf s e).jobs.foldl (fun s j =>
      if j.det = some (key, off) then
        let s := jobUpd s e j.id fun j => { j with det := none, core := k }
        let s := if cDsti j.card = 0 then updCore s k fun c => updTile c (cDtile j.card) fun x => { x with prod := .job e j.id } else s
        match j.st with
        | .resolvedDetached => jobUpd s e j.id fun j => { j with st := .ready }
        | .abortedDetached => failJob s e { j with det := none, core := k } 67 j.wait 0 false
        | _ => s
      else s) s) s

/-! ## Freeing a core (R422) -/

/-- Requests that the core's next occupant must not meet: those that write its tiles or hold it are dropped, what has left the
core goes on without a report. -/
def neutral (k : Nat) (r : Req) : Option Req :=
  if r.core ≠ k ∨ r.eng.isSome ∨ r.det.isSome then some r
  else if r.st = .held then none
  else
    match r.op with
    | .stt _ => some r
    | .relv .. => some r
    | .bari .. => some r
    | .bara .. => some r
    | .amo op w64 _ off a b t w => some { r with op := .amo op w64 true off a b t w }
    | _ => none

/-- Applies it to every request. -/
def neutralize (s : State) (k : Nat) : State :=
  s.reqs.foldl (fun s r =>
    match neutral k r with
    | some q => reqSet s q
    | none => endLoad s r) s

/-- Whether an agenda event would write a freed core's tiles, or send its markers. -/
def meantFor (k : Nat) (e : Event) : Bool :=
  decide (e.ev.core = k) && (decide (e.instr = .reportLands) || (decide (e.instr = .tileChunkLands) && !e.ev.flag2) ||
    (decide (e.instr = .marker) && e.ev.flit.isNone))

/-- The cores of a launch that are not freed. -/
def leftOf (s : State) (d : Nat) (x : Launch) : List (Nat × Nat) :=
  x.cores.filter fun c => decide ((coreOf s (96 * d + c.1)).launch = some x.id)

/-- Changes a launch of a die. -/
def updLaunch (s : State) (d id : Nat) (f : Launch → Launch) : State :=
  updDie s d fun y => { y with launches := y.launches.map fun x => if x.id = id then f x else x }

/-- The final status (R417): the first of 10, 6, 5 and 3 among the cores. -/
def finalStatus (l : List Nat) : Nat := ([10, 6, 5, 3].find? fun n => l.contains n).getD 3

/-- The grants of clusters with no core of the launch left return; a drain that waits for its cores looks again (R422, R521). -/
def returnGrants (s : State) (d : Nat) (x : Launch) : State :=
  let cl := (leftOf s d x).map fun c => c.1 / 8
  let gone := x.grants.filter fun g => !(cl.contains g.1)
  let s := gone.foldl (fun s g =>
    let z := 16 * d + g.1
    let s := grant s z fun n => n - g.2
    let y := zoneOf s z
    if y.state = 4 ∧ y.dstep = 1 then post s (s.tick + 1) .drainStepComplete { Ev.none with n := z } else s) s
  updLaunch s d x.id fun x => { x with grants := x.grants.filter fun g => cl.contains g.1 }

/-- The launch is over: its entries of the frame table return to their reserved form, and its share is free (R422, R450). -/
def endLaunch (s : State) (d : Nat) (x : Launch) : State :=
  let s := x.frames.foldl (fun s k => framePut s k (reservedForm (lShare x.words))) s
  updDie s d fun y =>
    let ls := y.launches.filter fun z => decide (z.id ≠ x.id)
    { y with launches := ls, gangs := y.gangs.filter fun g =>
        decide (g.gang ≠ lGang x.words) || ls.any fun z => decide (lGang z.words = g.gang) }

/-- The core gives up what it holds: no launch is told. -/
def clearCore (s : State) (k : Nat) : State :=
  let c := coreOf s k
  let s := c.heldStt.foldl dropHeld s
  let s := c.leaving.foldl (dropLeaving k) s
  let s := neutralize s k
  let d := coreDie k
  let mine (j : Job) : Bool := decide (j.core = k) && (decide (j.st = .accepting) || decide (j.st = .accepted))
  let s := updDie s d fun y =>
    { y with jobs := y.jobs.filter (fun j => !(mine j)), busyCores := y.busyCores.filter (fun n => decide (n ≠ coreNum k)),
             sv := tblSet (0 : Word) y.sv (coreNum k) (tblGet (0 : Word) y.sv (coreNum k) &&& ~~~(1#64 <<< 32)) }
  let s := { s with agenda := s.agenda.filter (fun e => !(meantFor k e)), marks := s.marks.filter fun m => decide (m.core ≠ k) }
  updCore s k fun c => idleCore c s.nextId

/-- Frees a core with the status it counts as (R417, R422). -/
def freeCore (s : State) (k status : Nat) : State :=
  let own := (coreOf s k).launch
  let s := clearCore s k
  let d := coreDie k
  match own.bind fun id => (dieOf s d).launches.find? fun x => decide (x.id = id) with
  | none => s
  | some x =>
    let x := { x with finals := x.finals ++ [status] }
    let s := updLaunch s d x.id fun _ => x
    let s := returnGrants s d x
    if (leftOf s d x).isEmpty then endLaunch (putStatus s x.recPa (finalStatus x.finals) 0) d x else s

/-- A launch that is refused, lost or aborted gives up every core, grant and entry (R414, R440). -/
def dropLaunch (s : State) (d : Nat) (x : Launch) : State :=
  let s := (leftOf s d x).foldl (fun s c => clearCore s (96 * d + c.1)) s
  endLaunch (returnGrants s d x) d x

/-- A launch refused with a reason (R414). -/
def refuse (s : State) (d : Nat) (x : Launch) (why : Nat) : State :=
  cbarOp (putStatus (dropLaunch s d x) x.recPa 4 why) d x.words true

/-! ## The load's end (R419) -/

/-- The contexts of a kind-3 record's cores. -/
def contexts (s : State) (d : Nat) (x : Launch) : List ((Nat × Nat) × CtxRes) := x.cores.map fun c => (c, ctxOf s d x.words c.2)

/-- A kind-3 record some of whose images are lost: status 9 and a record for each (R435). -/
def loseLaunch (s : State) (d : Nat) (x : Launch) (cs : List ((Nat × Nat) × CtxRes)) : State :=
  let l := x.words
  let s := cs.foldl (fun s c =>
    if c.2 = .lost then
      postRecord s d (lostRecord (96 * d + c.1.1) d (l.getD 11 0) (wBits l 12 0 48 + c.1.2 * wBits l 14 0 32))
    else s) s
  putStatus (dropLaunch s d x) x.recPa 9 0

/-- Start-vector entry of a core that is loaded (R419). -/
def startVector (c : Core) : Word :=
  BitVec.ofNat 64 (c.arch.pri.pcbase % 2 ^ 32 + (if c.arch.pri.live || c.arch.sec.live then 2 ^ 32 else 0) +
    (if c.arch.secOn && c.arch.sec.live then 2 ^ 33 else 0))

/-- The start vectors (R419), in the cycle in which the load ends. -/
def putVectors (s : State) (d : Nat) (x : Launch) : State :=
  let s := (leftOf s d x).foldl (fun s c =>
    updDie s d fun y => { y with sv := tblSet (0 : Word) y.sv c.1 (startVector (coreOf s (96 * d + c.1))) }) s
  updDie s d fun y => { y with svcyc := x.start }

/-- The frame-table entries and the start of every installed core; the load ends two cycles on. -/
def startLaunch (s : State) (d : Nat) (x : Launch) (o : Img) (start : Word) : State :=
  let l := x.words
  let left := leftOf s d x
  let fs := (imgFrames s d l o ((List.range (imgN s o)).map (imgDesc s o))).filter fun f => left.any fun c => decide (c.2 = f.icore)
  let s := fs.foldl (fun s f => framePut s f.key f.w) s
  let s := updLaunch s d x.id fun x => { x with loaded := true, start := start, frames := fs.map ImgFrame.key }
  let s := post s (s.tick + 2) .launchLoad { Ev.none with die := d, id := x.id, flag := true }
  left.foldl (fun s c =>
    post s (s.tick + (start.toNat - s.gcyc.toNat - 2)) .coreStart { Ev.none with core := 96 * d + c.1, id := x.id }) s

/-- Cores of a kind-2 record with no half to start are free again. -/
def dropIdle (s : State) (d : Nat) (x : Launch) : State :=
  (leftOf s d x).foldl (fun s c =>
    let a := (coreOf s (96 * d + c.1)).arch
    if a.pri.live || a.sec.live then s else freeCore s (96 * d + c.1) 3) s

/-- The report of a refused load (R73, R228): the first entry that fails, of the first core with one. -/
def refusedReport (s : State) (d : Nat) (x : Launch) (o : Img) (why : Nat) : Option LoadReport :=
  let l := x.words
  (imgIncl l (imgN s o)).findSome? fun k =>
    let w := imgDesc s o k
    let n := 96 * d + dCore l w
    match why with
    | 4 => dictReport n 0 0 (imgDict s o w)
    | 6 => microReport n ((imgMicro s o w).zipIdx.map fun e => (e.2, e.1))
    | 12 => dictReport n 1 0xF00 ((kernelPart s d).getD [])
    | _ => none

/-- LAUNCH_LOAD (R419): two cycles before its end a load's checks are made and everything is installed; at its end (flag) the start
vectors are written. -/
def execLaunchLoad (s : State) : Host.Outcome State Fault Refusal :=
  let d := s.ev.die
  match (dieOf s d).launches.find? fun x => decide (x.id = s.ev.id) with
  | none => .next s
  | some x =>
    let l := x.words
    if s.ev.flag then .next (putVectors s d x)
    else if lKind l = 0 then .next (refuse s d x 1)
    else
      match imgOf s d l with
      | .bad => .next (refuse s d x 1)
      | .wait => .next (post s (s.tick + 1) .launchLoad s.ev)
      | .ok o =>
        match imgRefuse s d l o with
        | some why => .next (refuse (putReport s d (refusedReport s d x o why)) d x why)
        | none =>
          let start := BitVec.ofNat 64 (max (l.getD 3 0).toNat (s.gcyc.toNat + 2))
          let left := leftOf s d x
          if lKind l = 3 then
            let cs := contexts s d x
            if cs.any fun c => decide (c.2 = .wait) then .next (post s (s.tick + 1) .launchLoad s.ev)
            else if cs.any fun c => decide (c.2 = .lost) then .next (loseLaunch s d x cs)
            else
            let rep := cs.findSome? fun c => match c.2 with
              | .ok _ m => microReport (96 * d + c.1.1) (restUstore m)
              | _ => none
            if rep.isSome then .next (refuse (putReport s d rep) d x 6)
            else if cs.any fun c => (match c.2 with | .ok _ m => headerBad s l c.1.2 m | _ => false) then .next (refuse s d x 13)
            else
              let s := cs.foldl (fun s c =>
                match c.2 with
                | .ok key m =>
                  if left.contains c.1 then
                    attach (installContext s d x o c.1.1 c.1.2 m) d c.1.1 key (wBits l 12 0 48 + c.1.2 * wBits l 14 0 32)
                  else s
                | _ => s) s
              .next (startLaunch s d x o start)
          else
            let s := left.foldl (fun s c => installFresh s d x o c.1 c.2 start) s
            .next (dropIdle (startLaunch s d x o start) d x)

/-- CORE_START (R419): two cycles before S; the first bundle is dispatched in S − 1 and issues in S at the earliest. -/
def execCoreStart (s : State) : Host.Outcome State Fault Refusal :=
  let k := s.ev.core
  let d := coreDie k
  match (dieOf s d).launches.find? fun x => decide (x.id = s.ev.id) with
  | none => .next s
  | some x =>
    if (coreOf s k).launch ≠ some x.id then .next s
    else
      let s := if x.started then s else putStatus s x.recPa 2 0
      let s := updLaunch s d x.id fun x => { x with started := true }
      let hold (y : Strm) : Strm := { y with hold := match y.hold with | .none => .until (s.tick + 1) | h => h }
      .next (updCore s k fun c =>
        { c with run := .running, issueFrom := s.tick + 2, arch := { c.arch with pri := hold c.arch.pri, sec := hold c.arch.sec } })

/-! ## Stops and releases (R425, R428, R323) -/

/-- Wait-form step loads of a core that are not current park when stop.s becomes 1 (R485). -/
def parkSteps (s : State) (k : Nat) : State :=
  s.reqs.foldl (fun s r => if r.core = k ∧ (r.st = .stepWait ∨ r.st = .farWait) then parkReq s r 26 (firstByte r) else s) s

/-- When a write to stopreq for a core takes effect: within 16 cycles, behind the earlier writes for it. -/
def stopDue (s : State) (k : Nat) : Nat :=
  s.agenda.foldl (fun n e =>
    if e.instr = .stopreq ∧ 96 * regDie e.ev.id + e.ev.w.toNat % 128 = k then max n e.due else n) (within s 16 k)

/-- STOPREQ (R425): the write, then within 16 cycles (flag) the change of stop.s. -/
def execStopreq (s : State) : Host.Outcome State Fault Refusal :=
  let v := s.ev.w.toNat
  let k := 96 * regDie s.ev.id + v % 128
  if v % 128 ≥ 96 then .next s
  else if !s.ev.flag then .next (post s (stopDue s k) .stopreq { s.ev with flag := true })
  else if v / 128 % 2 = 1 then
    let was := (coreOf s k).stopS
    let s := updCore s k fun c =>
      { c with stopS := true, stopWhy := BitVec.ofNat 8 (v / 256), stopCount := if was then c.stopCount else some 0 }
    .next (if was then s else parkSteps s k)
  else .next (updCore s k fun c => { c with stopS := false, stopCount := none })

/-- RELEASE_WRITE (R428): the core is freed at once; with self, the writing core. -/
def execReleaseWrite (s : State) : Host.Outcome State Fault Refusal :=
  let v := s.ev.w.toNat
  let k := if v / 256 % 2 = 1 then s.ev.core else 96 * regDie s.ev.id + v % 128
  let busy := (dieOf s (coreDie k)).busyCores.contains (coreNum k)
  if k < 384 && (decide (v / 256 % 2 = 1) || decide (v % 128 < 96)) && busy then .next (freeCore s k 6) else .next s

/-- CORERES (R323, R343): a core stopped by a machine check is freed, its context lost. -/
def execCoreres (s : State) : Host.Outcome State Fault Refusal :=
  let n := s.ev.w.toNat % 128
  let k := 96 * regDie s.ev.id + n
  if n < 96 ∧ (coreOf s k).run = .machineChecked then .next (freeCore s k 10) else .next s

/-- STOP_TAKEN (R322, R430): cause 49 at a PS bundle whose offset the event gives: the save offsets stand in trapinfo2 and
trapinfo3 and the image object's handle in h31. -/
def execStopTaken (s : State) : Host.Outcome State Fault Refusal :=
  let k := s.ev.core
  let c := coreOf s k
  let l := (launchOf s k).map Launch.words |>.getD []
  let off (i : Nat) : Word := BitVec.ofNat 64 (wBits l i 0 48 + c.icore * wBits l 14 0 32)
  let s := commitSegment s k
  let s := updCore s k fun c => { c with stopCount := none }
  let s := takeTrap s k
    { cause := 49, slot := 15, sec := false, off := s.ev.n, info0 := 49, info1 := 0, info2 := off 12, info3 := off 13,
      late := false, rt := false, age := 0, wait := false }
  if (coreOf s k).run = .running then
    .next (updCore s k fun c => { c with arch := { c.arch with h := tblSet (0 : Word) c.arch.h 31 (l.getD 11 0) } })
  else .next s

/-- PREEMPTION_OVERRUN (R54): the cause stands in trapinfo0, and the core takes a machine check with reason 3. DEDUCED: the only
number that the manual gives to pre-emption overrun is that reason. -/
def execPreemptionOverrun (s : State) : Host.Outcome State Fault Refusal :=
  let k := s.ev.core
  let s := updCore s k fun c =>
    { c with stopCount := none, trapinfo := tblSet (0 : Word) c.trapinfo 0 3 }
  .next (machineCheckAt s k 3 0)

/-! ## YIELD and HALT (R178, R179, R427, R429) -/

/-- The 16 words s0 to s15 of a stream. -/
def lowRegs (x : Strm) : List Byte := (List.range 16).flatMap fun i => bytesOf (tblGet (0 : Word) x.s i).toNat 8

/-- Writes the half of a yield record at an address (R427): word 0 for a YIELD, word 1, word 2 for a YIELD, s0 to s15 with stop. -/
def putYield (s : State) (a : Nat) (halted stopped : Bool) (pc : Nat) (regs : List Byte) : State :=
  let s := flushPhys s (a / 2 ^ 40) a 256
  if halted then physPut s (a + 8) 5
  else
    let s := physPut s a (BitVec.ofNat 64 (pc % 2 ^ 32))
    let s := physPut s (a + 8) (if stopped then 3 else 1)
    let s := physPut s (a + 16) s.gcyc
    if stopped then physWrite s (a + 64) regs else s

/-- The acting stream's half of its core's yield record is written four cycles on, by the event i with the arguments e; a core that no
launch runs has none. -/
def postYield (s : State) (i : Instr) (e : Ev) : State :=
  match launchOf s s.cur.core with
  | none => s
  | some x =>
    post s (s.tick + 4) i
      { e with core := s.cur.core, flag := s.cur.sec, flag2 := true, id := yieldAt x.words (cc s).icore s.cur.sec }

/-- Whether no half of core k's yield record is still to be written. -/
def yieldWritten (s : State) (k : Nat) : Bool :=
  !(s.agenda.any fun e => decide (e.ev.core = k) && e.ev.flag2 && (decide (e.instr = .yieldRelease) || decide (e.instr = .streamRetire)))

/-- YIELD (R178): the record is written four cycles on; with stop.s the stream waits for its release. -/
def execYield (s : State) : Host.Outcome State Fault Refusal :=
  perform s (faultIf (decide (levelOf s.cur.core (cc s) ≠ 0)) 3 0 0) fun s =>
    let stop := (cc s).stopS
    let pc := s.cur.off + bundleLen s.cur.lit
    let s := postYield s .yieldRelease { Ev.none with n := if stop then 1 else 0, w := BitVec.ofNat 64 pc, bytes := lowRegs (act s) }
    if stop then
      updAct s fun x => { x with yielded := true, hold := .ended, endId := s.nextId, endAge := s.cur.age }
    else fallOn s

/-- HALT (R179): its stream issues nothing more, and what decode has dispatched of it behind the bundle is discarded; CTL's field
stands until the stream retires. -/
def execHalt (s : State) : Host.Outcome State Fault Refusal :=
  if levelOf s.cur.core (cc s) ≠ 0 then .next (precise s 3 0 0)
  else
    let s := postYield s .streamRetire Ev.none
    let s := updCur s fun c =>
      let x := afterPath c s.cur.sec (c.queue.drop (s.cur.idx + 1))
      let c := setStrm c s.cur.sec { x with next := s.cur.off, halted := true, hold := .ended, half := false, fault := none,
                                            endId := s.nextId, endAge := s.cur.age }
      { c with queue := (c.queue.take (s.cur.idx + 1)).modify s.cur.idx (fun d => { d with halt := true }) ++
                 (c.queue.drop (s.cur.idx + 1)).filterMap (withoutStream s.cur.sec) }
    .next s

/-- Whether a request still has to perform before its stream may end: stores and releases perform at the commit. -/
def opensEnd (k : Nat) (sec : Bool) (n : Nat) (stores : Bool) (r : Req) : Bool :=
  decide (r.core = k) && r.eng.isNone && r.det.isNone && decide (r.sec = sec) && decide (r.id < n) &&
    (match r.op with
      | .stt _ => stores
      | .relv .. => stores
      | .pft => false
      | _ => true)

/-- Whether a device producer other than an engine is at work on a tile of a core. -/
def tileWork (c : Core) : Bool :=
  c.arch.tiles.any fun t => tBusy t.2 && (match t.2.prod with | .job _ _ => false | .request _ => false | _ => true)

/-- Whether a receive still has a completion bit to set (R179): of a chunk in which it expects a flit. -/
def recvOpen (c : Core) : Bool :=
  c.recvs.any fun r => r.slots.any fun z => !((tileOf c r.tile.toNat).map.getLsbD (z.sub / 4))

/-- Whether everything that a stream issued before its end has landed or performed (R179, step 2; R429). -/
def streamDrained (s : State) (k : Nat) (sec : Bool) : Bool :=
  let c := coreOf s k
  let x := strmOf c sec
  !(c.landing.any fun l => decide (l.age ≤ x.endAge)) && !(c.samples.any fun l => decide (l.age ≤ x.endAge)) &&
    !(c.stores.any fun l => decide (l.group = 6) && decide (l.order / 16 ≤ x.endAge)) &&
    !(s.reqs.any fun r => decide (r.st ≠ .held) && !(c.heldStt.contains r.id) && opensEnd k sec x.endId false r) &&
    !(c.arch.seq.fly.any fun f => decide (f.key < x.endId)) && c.arch.seq.load.isNone &&
    !(c.stores.any fun l => decide (l.group = 2)) && !(decide (c.arch.seq.state = 1) && decide (c.arch.seq.bySec = sec)) && !(c.xfJobs.any fun f => decide (f.key < x.endId)) &&
    !(c.expJobs.any fun f => decide (f.key < x.endId)) && !(tileWork c) && !(recvOpen c) && c.reports.isEmpty

/-- Whether the stores and releases that its last segment held have performed. -/
def storesDone (s : State) (k : Nat) (sec : Bool) : Bool :=
  !(s.reqs.any fun r => opensEnd k sec (strmOf (coreOf s k) sec).endId true r)

/-- Whether the segment that was open at a stream's end is still open. -/
def endOpen (c : Core) (sec : Bool) : Bool := c.segOpen && decide (c.segAge ≤ (strmOf c sec).endAge)

/-- Whether a halted stream has a step to make: its segment commits, or it retires. -/
def retireReady (s : State) (k : Nat) (sec : Bool) : Bool :=
  let c := coreOf s k
  let x := strmOf c sec
  x.live && x.halted && !c.intrap && streamDrained s k sec && (endOpen c sec || storesDone s k sec)

/-- Whether a stream of a core runs no more: it has retired, or, with y, waits in a YIELD. -/
def streamOver (c : Core) (sec y : Bool) : Bool :=
  let x := strmOf c sec
  !x.live || (y && x.yielded) || (sec && !c.arch.secOn)

/-- The HALT of a stream has ended: its field no longer stands. -/
def clearHalt (c : Core) (sec : Bool) : Core :=
  let i := c.queue.findIdx fun d => d.halt && inStrm sec d
  { c with queue := c.queue.modify i (fun d => { d with halt := false, done := d.done ||| 256#9 }) }

/-- STREAM_RETIRE (R179, R61, R427): the record's word (flag2), then the commit, then the stream's and the core's end. -/
def execStreamRetire (s : State) : Host.Outcome State Fault Refusal :=
  let k := s.ev.core
  let sec := s.ev.flag
  if s.ev.flag2 then .next (putYield s s.ev.id true false 0 [])
  else if !(retireReady s k sec) then .next s
  else if endOpen (coreOf s k) sec then .next (commitSegment s k)
  else
    let s := updCore s k fun c => clearHalt (updStrm c sec fun x => { x with live := false, hold := .ended }) sec
    let c := coreOf s k
    if streamOver c false false && streamOver c true false then
      let s := match launchOf s k with
        | some x => cbarOp s (coreDie k) x.words false
        | none => s
      .next (freeCore s k 3)
    else .next s

/-- Whether a job of the core's tiles still runs (R424). -/
def jobsHold (s : State) (k : Nat) : Bool :=
  (dieOf s (coreDie k)).jobs.any fun j => decide (j.core = k) && decide (j.kind ≤ 2) &&
    (decide (cSrci j.card = 0) || decide (cDsti j.card = 0)) &&
    (decide (j.st = .waiting) || decide (j.st = .ready) || decide (j.st = .running) || decide (j.st = .accepted))

/-- Whether a YIELD with stop may release its core, or commit its segment (R429). -/
def yieldReady (s : State) (k : Nat) : Bool :=
  let c := coreOf s k
  let one (sec : Bool) : Bool := !(strmOf c sec).yielded || (streamDrained s k sec && (endOpen c sec || storesDone s k sec))
  !c.intrap && (c.arch.pri.yielded || c.arch.sec.yielded) && streamOver c false true && streamOver c true true &&
    one false && one true && yieldWritten s k && !(jobsHold s k)

/-- YIELD_RELEASE (R427, R429): the record (flag2), then the commit, then the release. -/
def execYieldRelease (s : State) : Host.Outcome State Fault Refusal :=
  let k := s.ev.core
  if s.ev.flag2 then .next (putYield s s.ev.id false (decide (s.ev.n = 1)) s.ev.w.toNat s.ev.bytes)
  else if !(yieldReady s k) then .next s
  else if (coreOf s k).segOpen then .next (commitSegment s k)
  else .next (freeCore s k 5)

end Sys2Proof.Machine
end

