-- ==== Sys2Proof/Machine/Link.lean ====
section
/-! DEFINITION. The links of the fabric (R441 to R457, R464, R467 to R469): slots, flits out and in, credits, link replay, and the
failure of a port. What the peer sends is the world's: it comes as an event with the flit. -/

namespace Sys2Proof.Machine

/-! ## Slots and entries (R445, R449) -/

/-- The flit slot of the current cycle. -/
def slotNow (s : State) : Nat := s.gcyc.toNat % 4096 / 2

/-- The frame of the current cycle. -/
def frameNow (s : State) : Nat := s.gcyc.toNat / 4096

/-- The logical port bound to a physical port. -/
def logOf (s : State) (p : Nat) : Option Nat := (List.range 133).find? fun l => decide (physOf s l = p)

/-- An entry in effect: one written in this frame waits for the next (R449). -/
def frameEff (s : State) (k : Nat) : Nat :=
  match s.frameOld.find? fun x => decide (x.1 = k) with
  | some x => x.2.toNat
  | none => (tblGet (0 : Word) s.frame k).toNat

/-- use. -/
def fUse (w : Nat) : Nat := w / 2 ^ 62
/-- die. -/
def fDie (w : Nat) : Nat := w / 2 ^ 52 % 4
/-- core. -/
def fCore (w : Nat) : Nat := w / 2 ^ 45 % 128
/-- sub. -/
def fSub (w : Nat) : Nat := w / 2 ^ 36 % 512

/-- The number of an open slot among those of its port and direction, in slot order (R453). -/
def openNumber (s : State) (l d sl : Nat) : Nat :=
  ((List.range sl).filter fun i => decide (i % 16 ≠ 0) && decide (fUse (frameEff s (frameKey l d i)) = 0)).length

/-- The tick at which the next occurrence of a slot begins, from a tick on that lies n cycles ahead. -/
def slotTick (s : State) (sl n : Nat) : Nat := s.tick + n + (2 * sl + 4096 - (s.gcyc.toNat + n) % 4096) % 4096

/-- The share of the launch that a core runs; 0 for none (R416). -/
def coreShare (s : State) (k : Nat) : Nat :=
  match launchOf s k with
  | some x => lShare x.words
  | none => 0

/-- Whether a scheduled entry is one of a core's share: it names the core and the share of its launch; one that is only reserved for that
share is not (R305, R449, R450). -/
def ownsEntry (s : State) (k key e : Nat) : Bool :=
  decide (fUse e = 1) && decide (fDie e = coreDie k) && decide (fCore e = coreNum k) && decide (e / 2 ^ 54 % 256 = coreShare s k) &&
    (decide (coreShare s k = 0) || decide (k ≠ 0) || (match launchOf s k with | some x => x.frames.contains key | none => true))

/-- Core numbers that hold a scheduled entry of a logical port: compute cores by key. -/
def coresOn (s : State) (l : Nat) : List Nat :=
  ((s.frame.filter fun e => decide (e.1 / 0x1000 = l) && decide (fCore e.2.toNat < 96) &&
      ownsEntry s (96 * fDie e.2.toNat + fCore e.2.toNat) e.1 e.2.toNat).map
    fun e => 96 * fDie e.2.toNat + fCore e.2.toNat).eraseDups

/-! ## Control messages (R465, R466) -/

/-- A control message toward a package: it goes out on the first hop of path 0 in the next control slot (R443, R466). -/
def sendCtl (s : State) (pkg : Nat) (msg : Nat) : State :=
  match minimalPaths s pkg with
  | [] => s
  | l :: _ => updPort s (physOf s l) fun p => { p with ctlq := p.ctlq ++ [BitVec.ofNat 64 msg] }

/-- A control message on a given logical port. -/
def sendCtlOn (s : State) (l msg : Nat) : State :=
  updPort s (physOf s l) fun p => { p with ctlq := p.ctlq ++ [BitVec.ofNat 64 msg] }

/-! ## Failure (R467, R468) -/

/-- Every compute core with a scheduled entry on a port rewinds, then takes cause 51. -/
def linkLost (s : State) (l reason pkg : Nat) : State :=
  (coresOn s l).foldl (fun s k => raise51 (if rewindable (coreOf s k) then askRewind s k none else s) k l reason pkg) s

/-- The entries of a port are disabled, their other fields kept. -/
def disableEntries (s : State) (l : Nat) : State :=
  (List.range 0x1000).foldl (fun s i =>
    if i % 16 = 0 then s
    else
      let k := frameKey l 0 i
      { s with frame := tblSet (0 : Word) s.frame k (tblGet (0 : Word) s.frame k ||| 0xC000000000000000#64),
               frameOld := s.frameOld.filter fun x => decide (x.1 ≠ k) }) s

/-- The buffers that the transit flits of a port's queue held are free again (R454). -/
def freeBuffers (s : State) (l : List (Nat × Flit × Option (Nat × Nat))) : State :=
  l.foldl (fun s o =>
    match o.2.2 with
    | some b => updPort s b.1 fun x => { x with owe := tblSet 0 x.owe b.2 (tblGet 0 x.owe b.2 + 1) }
    | none => s) s

/-- A logical port fails (R467). -/
def failPort (s : State) (p : Nat) : State :=
  let s := freeBuffers { s with readys := s.readys.filter fun x => decide (x.1 ≠ p) } (portOf s p).outq
  match logOf s p with
  | none => updPort s p fun x => { x with state := 3 }
  | some l =>
    let s := updPort s p fun x => { x with state := 3, kept := [], naks := [], ctlq := [], outq := [], wire := none }
    let s := disableEntries s l
    let peer := portPeer s.pkg.toNat l
    let s := match livePaths s peer with
      | [] => s
      | m :: _ => sendCtlOn s m (5 * 2 ^ 60 + (portOf s p).pport.toNat + 1 * 2 ^ 8 + s.pkg.toNat * 2 ^ 12)
    linkLost s l 1 s.pkg.toNat

/-- PORT_FAIL (R467): a physical port fails. -/
def execPortFail (s : State) : Host.Outcome State Fault Refusal := .next (failPort s s.ev.port)

/-- PORT_STATE_WRITE (R469): a write of 3 to state fails the port. -/
def execPortStateWrite (s : State) : Host.Outcome State Fault Refusal :=
  match blockAt s.ev.id with
  | some (.port p, _) => .next (failPort s p)
  | _ => .next s

/-- PORT_EN_WRITE (R469): en takes its value; 0 holds the port down, and a port that was up fails; 1 begins training. -/
def execPortEnWrite (s : State) : Host.Outcome State Fault Refusal :=
  match blockAt s.ev.id with
  | some (.port p, _) =>
    let en := s.ev.w.getLsbD 8
    let x := portOf s p
    if en then .next (updPort s p fun x => { x with en := true, state := if x.en || x.state = 3 then x.state else 1 })
    else
      let s := if x.state = 2 then failPort s p else s
      .next (updPort { s with readys := s.readys.filter fun x => decide (x.1 ≠ p) } p fun x => { x with en := false, state := 0 })
  | _ => .next s

/-- Whether a ready message that has come on a physical port names the logical pair of a binding (R442, R465). -/
def readyFor (s : State) (b : Nat × Nat) (x : Nat × Word) : Bool :=
  let w := x.2.toNat
  decide (b.2 = x.1) && decide (w / 256 % 2 = 1) && decide (w / 2 ^ 9 % 4096 = portPeer s.pkg.toNat b.1) &&
    decide (portPeer (w / 2 ^ 9 % 4096) (w % 256) = s.pkg.toNat)

/-- Bindings take effect whose port is up and whose ready message has come (R442). -/
def bindReady (s : State) : State :=
  { s with lbind := s.lbind.filter fun b => !(decide ((portOf s b.2).state = 2) && s.readys.any (readyFor s b)) }

/-- PORT_MAP_WRITE (R442, R469): binds a logical port to a physical port; the binding waits for training and the peer. -/
def execPortMapWrite (s : State) : Host.Outcome State Fault Refusal :=
  match blockAt s.ev.id with
  | some (.portMap, o) =>
    let l := o / 8
    let p := s.ev.w.toNat % 256
    if p > 143 ∨ p = physOf s l then .next s
    else
      let s := { s with lmap := tblPut s.lmap l p, lbind := s.lbind.filter (fun b => decide (b.1 ≠ l)) ++ [(l, p)] }
      .next (if (portOf s p).state = 2 then
          bindReady (sendCtlOn s l (3 * 2 ^ 60 + l + 256 + s.pkg.toNat * 2 ^ 9))
        else s)
  | _ => .next s

/-- FRAME_TABLE_WRITE (R449): slot 0 and the replay slots ignore it; it takes effect from the next frame. -/
def execFrameTableWrite (s : State) : Host.Outcome State Fault Refusal :=
  match blockAt s.ev.id with
  | some (.frame, o) =>
    if frameSlot o then .next (framePut s (o / 8) (BitVec.ofNat 64 (s.ev.w.toNat / 128 * 128))) else .next s
  | _ => .next s

/-- PORT_TRAINING (R444, R442): the training flits give the peer's gcyc in w, its logical port in code, its package in id and
the link latency in n. The port comes up where the peer's gcyc agrees and its package is the expected one. -/
def execPortTraining (s : State) : Host.Outcome State Fault Refusal :=
  let p := s.ev.port
  let x := portOf s p
  if !x.en || x.state ≠ 1 then .next s
  else
    let lat := min 1000 (max 1 s.ev.n)
    let diff := s.ev.w + BitVec.ofNat 64 (2 * lat) - s.gcyc
    let skew := diff.extractLsb' 0 32
    let wrong := match logOf s p with
      | some l => decide (portPeer s.pkg.toNat l ≠ s.ev.id)
      | none => false
    let up := decide (diff = 0) && !wrong
    let s := updPort s p fun x =>
      { x with lat := BitVec.ofNat 10 lat, ppkg := BitVec.ofNat 12 s.ev.id, pport := s.ev.code.extractLsb' 0 8, skew := skew,
               pmerr := wrong, state := if up then 2 else 1 }
    if up then
      let s := updPort s p fun x =>
        { x with credits := (List.range 6).map (fun i => (i, 32)), taken := [], gave := [], owe := [], kept := [], naks := [],
                 badRun := 0, wire := none, train := none }
      .next (match s.lbind.find? fun b => decide (b.2 = p) with
        | some b => sendCtlOn s b.1 (3 * 2 ^ 60 + b.1 + 256 + s.pkg.toNat * 2 ^ 9)
        | none => s)
    else .next s

/-! ## Flits out (R445, R447, R455) -/

/-- The reverse NAK of a port's next flit, and the port with its NAKs in turn. -/
def stampNak (now : Nat) (p : Port) (x : Port × Flit) : Port × Flit :=
  let live := p.naks.filter fun n => match n.2.2 with
    | some t => decide (now < t + 4 * p.lat.toNat + 32)
    | none => true
  match live.find? fun n => decide (n.2.1 ≤ now) with
  | none => ({ x.1 with naks := live }, x.2)
  | some n =>
    let rest := live.filter fun m => decide (m.1 ≠ n.1)
    ({ x.1 with naks := rest ++ [(n.1, n.2.1, some (n.2.2.getD now))] }, { x.2 with nv := true, nslot := n.1 })

/-- The reverse credits of a port's next flit: of one source, at most 15. -/
def stampCredit (x : Port × Flit) : Port × Flit :=
  match (List.range 6).find? fun i => decide (tblGet 0 x.1.owe i > 0) with
  | none => x
  | some i =>
    let n := min 15 (tblGet 0 x.1.owe i)
    ({ x.1 with owe := tblSet 0 x.1.owe i (tblGet 0 x.1.owe i - n), gave := tblSet 0 x.1.gave i ((tblGet 0 x.1.gave i + n) % 256) },
      { x.2 with csrc := BitVec.ofNat 3 i, ccnt := BitVec.ofNat 4 n })

/-- The totals of word 15 of a control flit (R464). -/
def creditTotals (p : Port) : Word := BitVec.ofNat 64 ((List.range 6).foldl (fun a i => a + tblGet 0 p.gave i * 2 ^ (8 * i)) 0)

/-- A flit leaves on a physical port with the reverse fields of its link; one of classes 1 to 3 is kept for replay and counts as
acknowledged after 4·lat + 16 cycles (R455, R456). -/
def sendFlit (s : State) (p : Nat) (f : Flit) (owner : Option (Nat × Nat)) : State :=
  let x := stampCredit (stampNak s.tick (portOf s p) (portOf s p, { f with nv := false, nslot := 0, csrc := 0, ccnt := 0 }))
  let lat := x.1.lat.toNat
  let f := sealed
    (if f.cls = 3 then { x.2 with payload := x.2.payload % (2 ^ 960) ||| (creditTotals x.1).zeroExtend 1024 <<< 960 } else x.2)
  let keep := x.1.kept.filter fun k => k.waiting || decide (s.tick < k.sent + 2 * (2 * lat + 64))
  let kept := if f.cls = 0 then keep
    else keep.filter (fun k => decide (k.oslot ≠ f.oslot)) ++
      [{ oslot := f.oslot, flit := f, sent := s.tick, naks := 0, waiting := false, ready := 0, owner := owner }]
  let s := updPort s p fun _ => { x.1 with wire := some f, kept := kept }
  if f.cls = 0 then s
  else post s (s.tick + 4 * lat + 18) .linkAcknowledgement
    { Ev.none with port := p, slot := f.oslot.toNat, n := s.tick }

/-- An idle flit. -/
def idleFlit (s : State) : Flit :=
  { dpkg := 0, ddie := 0, dcore := 0, cls := 0, kind := 0, seq := 0, oslot := BitVec.ofNat 11 (slotNow s), rp := false, spkg := s.pkg,
    sdie := 0, nv := false, nslot := 0, csrc := 0, ccnt := 0, payload := 0, crc := 0 }

/-- A control flit: the next control number and up to 15 messages. -/
def controlOut (s : State) (p : Nat) : State :=
  let x := portOf s p
  let n := x.csent + 1
  let f := { idleFlit s with cls := 3, seq := n, payload := payloadOf (x.ctlq.take 15) }
  sendFlit (updPort s p fun x => { x with csent := n, ctlq := x.ctlq.drop 15 }) p f none

/-- The index of the path a packet takes: its own, or the next one that is live, wrapping to path 0. -/
def pathIndex (s : State) (q : Pkt) : Option Nat :=
  let ps := pathPorts s.pkg.toNat q.dpkg.toNat
  ((List.range ps.length).map fun i => (q.path + i) % ps.length).find? fun i =>
    match ps[i]? with
    | some l => portUp s l
    | none => false

/-- Whether a packet lies in the window of 256 of its pair (R458). -/
def inWindow (s : State) (q : Pkt) : Bool :=
  decide ((s.pkts.filter fun r => decide (r.die = q.die) && decide (r.dpkg = q.dpkg) && decide (r.ddie = q.ddie) &&
    decide ((q.seq - r.seq).toNat < 2 ^ 23)).length ≤ 256)

/-- The packet of a die that goes out next on a logical port. -/
def nextPacket (s : State) (d l : Nat) : Option Pkt :=
  s.pkts.find? fun q => decide (q.die = d) && decide (q.next < q.flits.length) && inWindow s q &&
    (match pathIndex s q with
      | some i => decide ((pathPorts s.pkg.toNat q.dpkg.toNat)[i]? = some l)
      | none => false)

/-- Whether two records are of the same packet. -/
def samePkt (a b : Pkt) : Bool := decide (a.die = b.die) && decide (a.dpkg = b.dpkg) && decide (a.ddie = b.ddie) && decide (a.seq = b.seq)

/-- Changes a packet. -/
def updPkt (s : State) (q : Pkt) (f : Pkt → Pkt) : State := { s with pkts := s.pkts.map fun r => if samePkt q r then f r else r }

/-- One flit of a packet goes out; its first starts the end-to-end timer (R460). -/
def packetOut (s : State) (p : Nat) (q : Pkt) : State :=
  match q.flits[q.next]? with
  | none => s
  | some f =>
    let i := (pathIndex s q).getD q.path
    let t := if q.next = 0 then s.tick else q.sent
    let s := updPkt s q fun r => { r with next := r.next + 1, path := i, sent := t }
    let s := if q.next = 0 then
        post s (s.tick + max 512 s.eto.toNat) .e2eTimerExpiry
          { Ev.none with die := q.die, id := 4 * q.dpkg.toNat + q.ddie.toNat, n := q.seq.toNat, slot := t }
      else s
    sendFlit s p { f with oslot := BitVec.ofNat 11 (slotNow s) } none

/-- The flit of an open slot: its source's next one, where the source holds a credit (R453, R454). -/
def openOut (s : State) (p l : Nat) : State :=
  let src := openNumber s l 0 (slotNow s) % 6
  let x := portOf s p
  let idle := sendFlit s p (idleFlit s) none
  if tblGet 0 x.credits src = 0 then idle
  else
    let spend (s : State) := updPort s p fun x => { x with credits := tblPut x.credits src (tblGet 0 x.credits src - 1) }
    if src < 4 then
      match nextPacket s src l with
      | some q => packetOut (spend s) p q
      | none => idle
    else
      match x.outq.find? fun o => decide (o.1 = src) with
      | some o =>
        let s := freeBuffers (updPort (spend s) p fun x => { x with outq := x.outq.eraseP fun o => decide (o.1 = src) }) [o]
        sendFlit s p { o.2.1 with oslot := BitVec.ofNat 11 (slotNow s) } none
      | none => idle

/-- The first flit that waits for a replay slot and may take this one. -/
def replayReady (s : State) (p : Nat) : Option Kept := (portOf s p).kept.find? fun k => k.waiting && decide (k.ready ≤ s.tick)

/-- Whether a core's FSEND owns a slot of a logical port in this cycle. -/
def fsendNow (s : State) (l : Nat) : Bool :=
  s.cores.any fun c => c.2.samples.any fun x => decide (x.due = s.tick) && (match x.k with | .fsend m _ _ _ _ => decide (m = l) | _ => false)

/-- The flit of the collective engine of a die in its share (R294): the next 128 bytes for the package and die that the entry names. -/
def collOut (s : State) (p e : Nat) : State :=
  let d := fDie e
  let pkg := e / 2 ^ 24 % 4096
  let die := e / 2 ^ 22 % 4
  match (dieOf s d).coll.find? fun x => decide (x.1 = pkg) && decide (x.2.1 = die) with
  | none => sendFlit s p (idleFlit s) none
  | some x =>
    let bs := x.2.2
    let s := updDie s d fun y =>
      { y with coll := if bs.length ≤ 128 then y.coll.erase x
                       else y.coll.map fun z => if z = x then (pkg, die, bs.drop 128) else z }
    sendFlit s p { idleFlit s with dpkg := BitVec.ofNat 12 pkg, ddie := BitVec.ofNat 2 die, dcore := BitVec.ofNat 7 (e / 2 ^ 15), cls := 1,
                                   sdie := BitVec.ofNat 2 d, payload := BitVec.ofNat 1024 (natOfBytes (bs.take 128)) } none

/-- What one port sends in the slot that begins now; a scheduled flit, a replay and a forwarded flit have steps of their own. -/
def slotSend (s : State) (p l : Nat) : State :=
  let sl := slotNow s
  if sl = 0 then controlOut s p
  else if sl % 16 = 0 then
    match replayReady s p with
    | some _ => post s s.tick .linkReplayResend { Ev.none with port := p }
    | none => sendFlit s p (idleFlit s) none
  else
    let u := fUse (frameEff s (frameKey l 0 sl))
    let forwarded := s.agenda.any fun e => decide (e.instr = .flitForward) && decide (e.due ≤ s.tick) && decide (e.ev.port = p) && e.ev.flag
    if u = 0 then openOut s p l
    else if u = 1 ∧ fCore (frameEff s (frameKey l 0 sl)) = 127 then collOut s p (frameEff s (frameKey l 0 sl))
    else if (u = 1 && fsendNow s l) || (u = 2 && forwarded) then s
    else sendFlit s p (idleFlit s) none

/-- FLIT_SLOT_SEND (R445): every port that is up sends exactly one flit, an idle one in a slot of a logical port that is not ready
(R442); one in training sends a training flit (R444). -/
def execFlitSlotSend (s : State) : Host.Outcome State Fault Refusal :=
  .next (s.ports.foldl (fun s x =>
    if x.2.state = 2 then
      match logOf s x.1 with
      | some l => if portUp s l || decide (slotNow s % 16 = 0) then slotSend s x.1 l else sendFlit s x.1 (idleFlit s) none
      | none => if slotNow s % 16 = 0 then slotSend s x.1 0 else sendFlit s x.1 (idleFlit s) none
    else if x.2.state = 1 ∧ x.2.en then updPort s x.1 fun y => { y with train := some (s.gcyc, s.pkg.toNat, logOf s x.1) }
    else s) s)

/-- The flit of an FSEND leaves in its slot with the sub-block sampled in this cycle (R306, R451). -/
def fsendFlit (s : State) (k port id : Nat) (tag : BitVec 12) (ent : Word) (bytes : List Byte) : State :=
  let e := ent.toNat
  let f : Flit :=
    { idleFlit s with dpkg := BitVec.ofNat 12 (e / 2 ^ 24), ddie := BitVec.ofNat 2 (e / 2 ^ 22), dcore := BitVec.ofNat 7 (e / 2 ^ 15),
                      cls := 1, seq := tag.zeroExtend 24, sdie := BitVec.ofNat 2 (coreDie k), payload := BitVec.ofNat 1024 (natOfBytes bytes) }
  if portUp s port then sendFlit s (physOf s port) f (some (k, id)) else s

/-! ## Link replay (R455 to R457) -/

/-- LINK_REPLAY_RESEND (R455): the flit goes out again with rp and its first slot. -/
def execLinkReplayResend (s : State) : Host.Outcome State Fault Refusal :=
  let p := s.ev.port
  match replayReady s p with
  | none => .next s
  | some k =>
    let s := updPort s p fun x => { x with kept := x.kept.filter (fun y => decide (y.oslot ≠ k.oslot)), replays := x.replays + 1 }
    let s := match k.owner with
      | some o => updCore s o.1 fun c => { c with statReplay := c.statReplay + 1 }
      | none => s
    let s := sendFlit s p { k.flit with rp := true } k.owner
    .next (updPort s p fun x => { x with kept := x.kept.map fun y => if y.oslot = k.oslot then { y with naks := k.naks } else y })

/-- NAK_RECEIVED (R455, R457): the kept flit of the slot waits for a replay slot; a repeat is ignored; the fourth NAK fails the
port. -/
def execNakReceived (s : State) : Host.Outcome State Fault Refusal :=
  let p := s.ev.port
  let x := portOf s p
  match x.kept.find? fun k => decide (k.oslot.toNat = s.ev.slot) with
  | none => .next s
  | some k =>
    if k.waiting || (k.flit.rp && decide (s.tick ≤ k.sent + 4 * x.lat.toNat + 2)) then .next s
    else if k.naks ≥ 3 then .next (post s s.tick .portFail { Ev.none with port := p })
    else
      .next (updPort s p fun x =>
        { x with kept := x.kept.filter (fun y => decide (y.oslot ≠ k.oslot)) ++
                   [{ k with naks := k.naks + 1, waiting := true, ready := s.tick + 8 }] })

/-- An FSEND's flit is acknowledged; an FCTL.sync that waited for it alone reports (R311). -/
def ackSend (s : State) (k id : Nat) : State :=
  let s := updCore s k fun c => { c with sends := c.sends.filter fun n => decide (n ≠ id) }
  let c := coreOf s k
  let done := c.syncs.filter fun y => !(c.sends.any fun n => decide (n < y.2.2))
  let s := updCore s k fun c => { c with syncs := c.syncs.filter fun y => c.sends.any fun n => decide (n < y.2.2) }
  done.foldl (fun s y => reportDone s k y.1 y.2.1 false) s

/-- LINK_ACKNOWLEDGEMENT (R456): no NAK has named the flit since it was last sent. -/
def execLinkAcknowledgement (s : State) : Host.Outcome State Fault Refusal :=
  let p := s.ev.port
  match (portOf s p).kept.find? fun k => decide (k.oslot.toNat = s.ev.slot) && decide (k.sent = s.ev.n) && !k.waiting with
  | none => .next s
  | some k =>
    let s := updPort s p fun x => { x with kept := x.kept.map fun y => if y.oslot = k.oslot then { y with naks := 0 } else y }
    match k.owner with
    | some o => .next (ackSend s o.1 o.2)
    | none => .next s

/-! ## Flits in (R448, R454, R455, R464) -/

/-- A counted discard. -/
def rxErr (s : State) (p : Nat) : State := updPort s p fun x => { x with rxerr := x.rxerr + 1 }

/-- The slot in which a flit that arrives in a slot was sent. -/
def sentSlot (x : Port) (arrival : Nat) : Nat := (arrival + 2048 - x.lat.toNat % 2048) % 2048

/-- The link's part of an arrival: the crc, the NAK of a discarded flit, the reverse fields of a good one. -/
def linkIn (s : State) : State × Option Flit :=
  let p := s.ev.port
  let x := portOf s p
  match s.ev.flit with
  | none => (s, none)
  | some f =>
    if x.state ≠ 2 then (s, none)
    else if f.crc ≠ flitCrc f then
      let n : BitVec 11 := BitVec.ofNat 11 (sentSlot x s.ev.slot)
      let s := updPort s p fun x =>
        { x with crcerr := x.crcerr + 1, badRun := x.badRun + 1,
                 naks := if x.naks.any (fun y => decide (y.1 = n)) then x.naks else x.naks ++ [(n, s.tick + 4, none)] }
      (if x.badRun + 1 ≥ 64 then post s s.tick .portFail { Ev.none with port := p } else s, none)
    else
      let src := f.csrc.toNat
      let s := updPort s p fun x =>
        { x with badRun := 0, credits := tblPut x.credits src (tblGet 0 x.credits src + f.ccnt.toNat),
                 taken := tblSet 0 x.taken src ((tblGet 0 x.taken src + f.ccnt.toNat) % 256),
                 naks := if f.rp then x.naks.filter fun y => decide (y.1 ≠ f.oslot) else x.naks }
      (if f.nv then post s s.tick .nakReceived { Ev.none with port := p, slot := f.nslot.toNat } else s, some f)

/-- IDLE_FLIT_ARRIVAL (R454): its reverse fields count. -/
def execIdleFlitArrival (s : State) : Host.Outcome State Fault Refusal := .next (linkIn s).1

/-- The row of a control message. -/
def ctlRow (t : Nat) : Option Instr :=
  match t with
  | 1 => some .hold
  | 2 => some .gangAbortMessage
  | 3 => some .ready
  | 4 => some .markerAcknowledgement
  | 5 => some .errorReport
  | _ => none

/-- CONTROL_FLIT (R464, R465): its number, the credit totals, and each message in turn. -/
def execControlFlit (s : State) : Host.Outcome State Fault Refusal :=
  let p := s.ev.port
  let x := linkIn s
  match x.2 with
  | none => .next x.1
  | some f =>
    let tot (i : Nat) := (payloadWord f.payload 15).toNat / 2 ^ (8 * i) % 256
    let s := updPort x.1 p fun y =>
      (List.range 6).foldl (fun y i =>
        let n := (tot i + 256 - tblGet 0 y.taken i) % 256
        { y with credits := tblPut y.credits i (tblGet 0 y.credits i + n), taken := tblSet 0 y.taken i (tot i) }) { y with cacc := f.seq }
    .next ((List.range 15).foldl (fun s i =>
      let w := payloadWord f.payload i
      let t := w.toNat / 2 ^ 60
      if t = 0 then s
      else
        match ctlRow t with
        | some r => post s s.tick r { Ev.none with port := p, w := w }
        | none => rxErr s p) s)

/-- READY (R442, R465): the message stands for its port, and a binding of the pair it names takes effect, now or when it is written. -/
def execReady (s : State) : Host.Outcome State Fault Refusal :=
  let p := s.ev.port
  .next (if (portOf s p).state = 2 then bindReady { s with readys := s.readys.filter (fun x => decide (x ≠ (p, s.ev.w))) ++ [(p, s.ev.w)] }
         else s)

/-- ERROR_REPORT (R468): the cores with entries on this end of the failed port rewind and take cause 51. -/
def execErrorReport (s : State) : Host.Outcome State Fault Refusal :=
  let w := s.ev.w.toNat
  let pkg := w / 2 ^ 12 % 4096
  .next ((List.range 133).foldl (fun s l =>
    if portPeer s.pkg.toNat l = pkg ∧ (portOf s (physOf s l)).ppkg.toNat = pkg ∧ l = w % 256 then
      linkLost s l (w / 256 % 16) pkg
    else s) s)

/-! ## Scheduled flits (R307, R308, R451, R452) -/

/-- The receive of a core that owns a slot of a port (R451): for a flit that is on time the one that expects it in this very slot; for a
replayed one, of the slots of that number that have passed, the latest whose flit has not come (R307, R455). -/
def recvOf (s : State) (k l sl : Nat) (late : Bool) : Option (Recv × RecvSlot) :=
  let at_ (x : RecvSlot) : Bool :=
    decide (x.port = l) && decide (x.at_ ≤ s.tick) && decide ((s.gcyc.toNat - (s.tick - x.at_)) % 4096 / 2 = sl) &&
      (late == decide (x.at_ + 2 ≤ s.tick))
  (coreOf s k).recvs.foldl (fun acc r =>
    r.slots.foldl (fun acc x =>
      if at_ x then
        match acc with
        | some a => if x.at_ ≤ a.2.at_ then some a else some (r, x)
        | none => some (r, x)
      else acc) acc) none

/-- The receive expects one flit less. -/
def dropRecv (c : Core) (r : Recv) (x : RecvSlot) : Core :=
  let l := c.recvs.map fun y => if y = r then { y with slots := y.slots.erase x } else y
  { c with recvs := l.filter fun y => !y.slots.isEmpty }

/-- A scheduled flit reaches a core: it performs its write 20 cycles after its arrival (R446). -/
def deliverFlit (s : State) (k : Nat) (r : Recv) (x : RecvSlot) (f : Flit) : State :=
  updCore s k fun c =>
    let c := dropRecv c r x
    let a := tBase (tileOf c r.tile.toNat).ctl + 128 * x.sub
    let bs := bytesOf f.payload.toNat 128
    let last := !((c.recvs.filter fun y => decide (y.tile = r.tile) && y.comb.isSome).any fun y => y.slots.any fun z => decide (z.sub / 4 = x.sub / 4))
    let kind := match r.comb with
      | none => StoreKind.subBlock r.tile x.sub a (if r.arms then some (f.seq.toNat % 4096) else none) bs
      | some m => StoreKind.comb r.tile x.sub a m.1 m.2.1 m.2.2 last bs
    { c with stores := c.stores ++ [{ due := s.tick + 20, group := 2, order := 8 * x.port + 1024 * (s.gcyc.toNat % 4096), sec := false, k := kind }],
             statLate := if f.rp then c.statLate + 1 else c.statLate, statLast := if f.rp then s.gcyc else c.statLast }

/-- The bytes of a flit go to the collective that runs on a die (R294). -/
def deliverColl (s : State) (d : Nat) (f : Flit) : State :=
  match (dieOf s d).jobs.find? fun j => decide (j.kind = 3) && decide (j.st = .running) with
  | some j =>
    post s (s.tick + 20) .collectiveStep { Ev.none with die := d, id := j.id, flag := true, bytes := bytesOf f.payload.toNat 128 }
  | none => s

/-- SCHEDULED_FLIT_ARRIVAL (R451): the receive entry of its slot says whose it is; a flit that meets none is counted. -/
def execScheduledFlitArrival (s : State) : Host.Outcome State Fault Refusal :=
  let p := s.ev.port
  let x := linkIn s
  match x.2, logOf s p with
  | some f, some l =>
    let s := x.1
    let sl := if f.rp then (f.oslot.toNat + (portOf s p).lat.toNat) % 2048 else s.ev.slot % 2048
    let e := frameEff s (frameKey l 1 sl)
    if fUse e = 2 then .next (post s s.tick .flitForward { s.ev with slot := sl, flag := false, flit := some f })
    else if f.cls ≠ 1 ∨ fUse e ≠ 1 ∨ f.dpkg ≠ s.pkg ∨ f.ddie.toNat ≠ fDie e ∨ f.dcore.toNat ≠ fCore e then .next (rxErr s p)
    else if fCore e = 127 then .next (deliverColl s (fDie e) f)
    else
      match recvOf s (96 * fDie e + fCore e) l sl f.rp with
      | some r => .next (deliverFlit s (96 * fDie e + fCore e) r.1 r.2 f)
      | none => .next (rxErr s p)
  | _, _ => .next x.1

/-- FLIT_FORWARD (R452): a flit received on a forward entry waits for its outgoing slot, 8 or more cycles on; there (flag) it
leaves, where the send entry says so too. -/
def execFlitForward (s : State) : Host.Outcome State Fault Refusal :=
  let p := s.ev.port
  match s.ev.flit with
  | none => .next s
  | some f =>
    if s.ev.flag then
      match logOf s p with
      | some l =>
        if (portOf s p).state = 2 ∧ fUse (frameEff s (frameKey l 0 (slotNow s))) = 2 then
          .next (sendFlit s p { f with oslot := BitVec.ofNat 11 (slotNow s), rp := false } none)
        else .next (rxErr s s.ev.id)
      | none => .next (rxErr s s.ev.id)
    else
      match logOf s p with
      | some l =>
        let e := frameEff s (frameKey l 1 s.ev.slot)
        .next (post s (slotTick s (e / 2 ^ 34 % 2048) 8) .flitForward { s.ev with port := physOf s (e / 2 ^ 7 % 256), id := p, flag := true })
      | none => .next s

end Sys2Proof.Machine
end

