-- ==== Sys2Proof/Machine/EndToEnd.lean ====
section
/-! DEFINITION. The unscheduled traffic (R446, R453, R454, R458 to R463, R588): open packets in, what each kind does at its die,
acknowledgements, timers and markers. -/

namespace Sys2Proof.Machine

/-! ## Packets in (R454, R458, R459) -/

/-- The row of an open flit's kind. -/
def openRow (k : Nat) : Option Instr :=
  match k with
  | 0 => some .readRequest
  | 1 => some .readResponse
  | 2 => some .writeBackData
  | 3 => some .atomicRequest
  | 4 => some .atomicResponse
  | 5 => some .acquireRequest
  | 6 => some .acquireResponse
  | 7 => some .viewUpdate
  | 8 => some .forwardedResolution
  | 9 => some .endToEndAcknowledgement
  | 10 => some .marker
  | _ => none

/-- A record of a source endpoint; one not yet kept has accepted nothing. -/
def rxOf (s : State) (f : Flit) : Rx :=
  match s.rxs.find? fun x => decide (x.die = f.ddie.toNat) && decide (x.spkg = f.spkg) && decide (x.sdie = f.sdie) with
  | some x => x
  | none => { die := f.ddie.toNat, spkg := f.spkg, sdie := f.sdie, base := 0, map := 0, held := [] }

/-- Replaces a record of a source endpoint. -/
def rxPut (s : State) (x : Rx) : State :=
  { s with rxs := s.rxs.filter (fun y => !(decide (y.die = x.die) && decide (y.spkg = x.spkg) && decide (y.sdie = x.sdie))) ++ [x] }

/-- How many flits a packet has, by its first one: a write-back pair two, a block of a peer move five. -/
def packetLen (f : Flit) : Nat :=
  if f.kind = 2 then (if payloadWord f.payload 2 = 1 then 5 else 2)
  else if f.kind = 8 ∧ (payloadWord f.payload 6).toNat % 16 = 2 then 2
  else 1

/-- Adds a flit to those of its packet, in the order of their slots. -/
def addFlit (l : List Flit) (f : Flit) : List Flit :=
  match l with
  | [] => [f]
  | g :: r => if (f.oslot - g.oslot).toNat < 1024 then g :: addFlit r f else f :: g :: r

/-- The base moves over the numbers whose bit is set. -/
def advanceRx (x : Rx) (fuel : Nat) : Rx :=
  match fuel with
  | 0 => x
  | n + 1 => if x.map.getLsbD 0 then advanceRx { x with base := x.base + 1, map := x.map >>> 1 } n else x

/-- The packets below the base go to their die, lowest first, each as its kind's step in this cycle. -/
def handOver (s : State) (x : Rx) (n : Nat) : State :=
  match n with
  | 0 => s
  | n + 1 =>
    let q := x.base - BitVec.ofNat 24 (n + 1)
    let fs := (x.held.filter fun h => decide (h.1 = q.toNat)).map Prod.snd
    let s := match fs with
      | [] => s
      | f :: r =>
        match openRow f.kind.toNat with
        | some row => post s s.tick row
            { Ev.none with die := x.die, flag2 := true, flit := some f, bytes := r.flatMap fun g => bytesOf g.payload.toNat 128 }
        | none => s
    handOver s x n

/-- An acknowledgement falls due within 512 cycles. -/
def ackLater (s : State) (f : Flit) : State :=
  post s (s.tick + 1 + Config.delay s.tick (4 * f.spkg.toNat + f.sdie.toNat) % 511) .e2eAckSend
    { Ev.none with die := f.ddie.toNat, n := 4 * f.spkg.toNat + f.sdie.toNat }

/-- A numbered flit reaches its endpoint. -/
def acceptFlit (s : State) (f : Flit) : State :=
  let x := rxOf s f
  let off := (f.seq - x.base).toNat
  if 2 ^ 23 ≤ off ∨ (off < 256 ∧ x.map.getLsbD off = true) then ackLater s f
  else if 256 ≤ off then s
  else
    let n := f.seq.toNat
    let mine := (x.held.filter fun h => decide (h.1 = n)).map Prod.snd
    if mine.any fun g => decide (g.oslot = f.oslot) then s
    else
      -- a resend begins again with the packet's first flit
      let again := match mine with
        | g :: _ => decide (g.payload = f.payload)
        | [] => false
      let mine := if again then [f] else addFlit mine f
      let rest := x.held.filter fun h => decide (h.1 ≠ n)
      let x := { x with held := rest ++ mine.map fun g => (n, g) }
      match mine with
      | [] => s
      | g :: _ =>
        if mine.length < packetLen g then rxPut s x
        else
          let y := advanceRx { x with map := x.map ||| (1#256 <<< off) } 256
          let s := handOver (rxPut s y) y 256
          let gone (h : Nat × Flit) : Bool := decide ((y.base - BitVec.ofNat 24 (h.1 + 1)).toNat < 2 ^ 23)
          ackLater (rxPut s { y with held := y.held.filter fun h => !(gone h) }) f

/-- The next hop of an open flit that is not for this package. -/
def transitPort (s : State) (f : Flit) : Option Nat :=
  let a := s.pkg.toNat
  let b := f.dpkg.toNat
  if a / 32 = b / 32 then some (rackPort (a % 32) (b % 32) + f.seq.toNat % 2)
  else (pathPorts a b).find? fun l => decide (l ≥ 62) || decide (a % 32 ≠ b % 32)

/-- The open-rotation source whose credit a flit that arrives on a port has spent, as its sender counts (R453): transit for one that the
sender forwards, the link die for its acknowledgements and markers, else the die that sends it. -/
def flitSource (s : State) (l : Nat) (f : Flit) : Nat :=
  if f.spkg.toNat ≠ portPeer s.pkg.toNat l then 4 else if f.kind = 9 ∨ f.kind = 10 then 5 else f.sdie.toNat

/-- An open flit arrives (R454): a flit for another package goes on to its port and holds its buffer until it leaves there; the buffer
of one for this package is free at once, and it reaches its die's units 24 cycles later (flag). act: what a flit that is not numbered, or a packet handed over
(flag2), does there. -/
def openArrival (s : State) (numbered : Bool) (act : State → Flit → State) : State :=
  if s.ev.flag2 then
    match s.ev.flit with
    | some f => act s f
    | none => s
  else if s.ev.flag then
    match s.ev.flit with
    | some f => if numbered then acceptFlit s f else act s f
    | none => s
  else
    let p := s.ev.port
    let x := linkIn s
    match x.2 with
    | none => x.1
    | some f =>
      let s := x.1
      match logOf s p with
      | none => rxErr s p
      | some l =>
        if f.cls ≠ 2 then rxErr s p
        else
          let sl := s.ev.slot % 2048
          let src := flitSource s l f
          let free (s : State) := updPort s p fun x => { x with owe := tblSet 0 x.owe src (tblGet 0 x.owe src + 1) }
          match openRow f.kind.toNat with
          | none => rxErr (free s) p
          | some row =>
            if f.dpkg = s.pkg then post (free s) (s.tick + 24) row { Ev.none with port := p, slot := sl, flag := true, flit := some f }
            else
              match transitPort s f with
              | some m => updPort s (physOf s m) fun x => { x with outq := x.outq ++ [(4, { f with rp := false }, some (p, src))] }
              | none => rxErr (free s) p

/-! ## What a packet asks (R393, R454) -/

/-- A request that a packet carries: kind, words, entry, the endpoint that its answer goes to, the die that serves it. -/
structure Wire where
  kind : Nat
  ws : List Word
  ent : List Word
  pkg : Nat
  sdie : Nat
  die : Nat
  deriving DecidableEq, Repr

/-- A packet's request; a forwarded one names its kind, its requester where that is not the sender, and its entry. -/
def wireOf (f : Flit) : Wire :=
  let w (i : Nat) := payloadWord f.payload i
  if f.kind = 8 then
    let who := (w 7).toNat
    { kind := (w 6).toNat % 16, ws := (List.range 6).map w, ent := (List.range 8).map fun i => w (8 + i),
      pkg := if who = 0 then f.spkg.toNat else who % 4096, sdie := if who = 0 then f.sdie.toNat else who / 4096 % 4, die := f.ddie.toNat }
  else
    { kind := f.kind.toNat, ws := (List.range 6).map w, ent := [], pkg := f.spkg.toNat, sdie := f.sdie.toNat, die := f.ddie.toNat }

/-- The object key that a request names. -/
def wKey (w : Wire) : Nat := wN w.ws 0 / 2 ^ 28

/-- An answer: a packet to the requester, or, where a forwarded request came back to the requester's own package, a packet
handed over here (no path leads to it). -/
def answer (s : State) (w : Wire) (kind : Nat) (p : BitVec 1024) : State :=
  if w.pkg = s.pkg.toNat then
    match openRow kind with
    | some row => post s (s.tick + 1) row
        { Ev.none with die := w.sdie, flag2 := true, flit := some (openFlit s w.die w.pkg w.sdie kind 0 p) }
    | none => s
  else sendPacket s w.die w.pkg w.sdie kind [p] none

/-- The generation of the handle that a request names. -/
def wGen (w : Wire) : Nat := wN w.ws 0 / 2 ^ 12 % 2 ^ 16
/-- The core that a request comes from. -/
def wCore (w : Wire) : Nat := wN w.ws 5 / 2 ^ 33 % 2 ^ 7
/-- The right that a request needs. -/
def wRight (w : Wire) : Nat := wN w.ws 5 / 2 ^ 40 % 4
/-- Whether an engine makes a request. -/
def wEng (w : Wire) : Bool := decide (wN w.ws 5 / 2 ^ 42 % 2 = 1)
/-- The domain that a request comes from. -/
def wDom (w : Wire) : Nat := wN w.ws 5 / 2 ^ 48

/-- The answer to a request that is over without data: status 0, or why it is not done: 1 not resident, 2 poison, or for a
halo step a wait, 3 a step that is not current, 4 that it is, 5 a package that cannot be reached, else the cause of the late fault that
its requester takes (R393); the byte offset or that package, and the request's own place. -/
def answerStatus (s : State) (w : Wire) (status off : Nat) : State :=
  answer s w 4 (payloadOf [0, w.ws.getD 5 0, BitVec.ofNat 64 status, BitVec.ofNat 64 off, w.ws.getD 1 0, w.ws.getD 3 0])

/-- What the serving die finds: the object, or the status and byte offset of its answer. -/
inductive Served where
  | ok (o : Obj)
  | over (status off : Nat)
  | moving
  | peer (pkg : Nat) (ent : List Word)
  deriving DecidableEq, Repr

/-- The byte offset of the first element that a request reaches. -/
def wireFirst (w : Wire) : Nat :=
  match w.kind with
  | 0 => wN w.ws 1 + wN w.ws 3 / 2 ^ 32 / 8
  | 2 => wN w.ws 1
  | 3 => if wN w.ws 4 < 512 then wN w.ws 1 else 0
  | _ => 0

/-- Resolves a request that came from another package (R264, R393): the home package makes every check of the entry, one that was
given the entry those of the root block. -/
def serveObj (s : State) (w : Wire) : Served :=
  let at_ := wireFirst w
  if !w.ent.isEmpty then
    match objWith s (wKey w) w.ent with
    | some o => .ok o
    | none => .over 24 at_
  else
    match entryOf s w.die (wKey w % 2 ^ 24) with
    | none => .over 24 at_
    | some e =>
      match rsvOf s (wKey w) (wGen w) (wDom w) (wRight w) e with
      | .fault c => .over c at_
      | .deferred => .over 1 at_
      | .remote p ent => .peer p ent
      | .ok o _ => .ok o

/-- Elements of n bits of an object under the checks of R390, R394, R401 and R405. -/
def serveEls (s : State) (w : Wire) (o : Obj) (write : Bool) (n : Nat) (els : List Int) : Served :=
  match els.find? fun e => (elemBit o n e).isNone with
  | some e => .over 25 (e.toNat * n / 8)
  | none =>
    match extChk s w.die (wDom w) o write n els with
    | .rights b => .over 23 b
    | .deferred b => .over 1 b
    | .moving => .moving
    | .ok => .ok o

/-- Sends a request on to the package that holds the object's data, with its entry and its requester; where that package cannot be
reached the requester is told (R393). -/
def sendOn (s : State) (w : Wire) (pkg : Nat) (ent : List Word) (rest : List Byte) : State :=
  if unreachable s pkg then answerStatus s w 5 pkg
  else
    let head := payloadOf (w.ws ++ [BitVec.ofNat 64 w.kind, BitVec.ofNat 64 (2 ^ 14 + w.sdie * 4096 + w.pkg)] ++ ent)
    sendPacket s w.die pkg (wKey w % 4) 8 (if rest.isEmpty then [head] else [head, BitVec.ofNat 1024 (natOfBytes rest)]) none

/-- The atomic that a kind-3 request names; none for a wait. -/
def wireAtom (w : Wire) : Option Atom :=
  let fn := wN w.ws 4
  let op (n : Nat) : AmoOp :=
    match n with
    | 0 => .add | 1 => .fadd | 2 => .min | 3 => .max | 4 => .minn | 5 => .maxn | 6 => .xchg | 7 => .cas | 8 => .and | _ => .or
  if fn < 64 then some (.amo (op (fn % 16)) (if fn / 16 % 2 = 1 then 8 else 4) (wN w.ws 1) (wN w.ws 2) (wN w.ws 3))
  else if fn < 128 then some (.bari (wN w.ws 1 / 32) (wN w.ws 2) (wN w.ws 3))
  else if fn < 256 then some (.bara (wN w.ws 1 / 32) (decide (fn % 2 = 1)) (decide (fn / 2 % 2 = 1)) (wN w.ws 2))
  else none

/-- The bytes that a store or an atomic of another package writes; none for any other request. -/
def wireWrites (w : Wire) : List (Int × Int) :=
  if w.kind = 2 then
    let n := wN w.ws 3 / 2 ^ 32 % 8 + wN w.ws 3 % 2 ^ 32
    [((wN w.ws 1 : Int), ((wN w.ws 1 + (n + 7) / 8 : Nat) : Int))]
  else if w.kind = 3 then
    match wireAtom w with
    | some x => [((atomSpan x).1, ((atomSpan x).1 + (atomSpan x).2 : Nat))]
    | none => []
  else []

/-- Whether an earlier write of the same core to a byte that a write reaches still waits here: each location keeps the order of its
context's requests (R359, R381). -/
def servesEarlier (s : State) (f : Flit) (w : Wire) : Bool :=
  let b := wireWrites w
  !b.isEmpty && !(wEng w) && s.agenda.any fun e => e.ev.flag2 && decide (s.tick < e.due) &&
    (match e.ev.flit with
      | some g =>
        let v := wireOf g
        decide (g.spkg = f.spkg) && decide (g.sdie = f.sdie) && decide (g.ddie = f.ddie) && decide (wCore v = wCore w) && !(wEng v) &&
          decide (wKey v = wKey w) && spansMeet (wireWrites v) b
      | none => false)

/-- The element width that byte offsets count in: a byte where the layout is the identity. -/
def wireWidth (o : Obj) : Nat := if eIdentity o.e then 8 else eWidth o.e

/-- A code of an element as its home die holds it; free where it is out of bounds or cannot be read. -/
def serveCode (s : State) (o : Obj) (n : Nat) (el : Int) : Nat :=
  let free := (Config.word s.tick (o.key + el.toNat)).toNat % 2 ^ n
  match elemBit o n el with
  | none => free
  | some b =>
    let a := blockOf o b
    match (readBlock s (homeDie o a.1) o [] a.1 a.2).2 with
    | .data v => v.toNat / 2 ^ bitIn o b % 2 ^ n
    | _ => free

/-- Whether a block of one of these elements is poisoned. -/
def servePoison (s : State) (o : Obj) (n : Nat) (els : List Int) : Bool :=
  ((els.filterMap fun e => elemBit o n e).map (blockOf o)).eraseDups.any fun a =>
    match (readBlock s (homeDie o a.1) o [] a.1 a.2).2 with
    | .poison => true
    | _ => false

/-- The data of a read: 64-byte units from a byte offset on, 128 bytes an answer; mp gives the element that is read for one. -/
def readAnswers (s : State) (w : Wire) (o : Obj) (n : Nat) (mp : Int → Int) : State :=
  let units := wN w.ws 0 % 256
  let e0 := 8 * wN w.ws 1 / n
  let m := 1024 / n
  (List.range ((units + 1) / 2)).foldl (fun t i =>
    answer t w 1 (packCodes n ((List.range m).map fun j => BitVec.ofNat 32 (serveCode s o n (mp ((e0 + i * m + j : Nat) : Int)))))) s

/-- The elements that a read wants: the bits it names from its byte offset on but for those to pass over, or, where it names none,
its units. -/
def wantedEls (w : Wire) (n : Nat) : List Int :=
  let v := wN w.ws 3
  let lo := (8 * wN w.ws 1 + v / 2 ^ 32) / n
  let hi := (8 * wN w.ws 1 + (if v = 0 then wN w.ws 0 % 256 * 512 else v % 2 ^ 32) + n - 1) / n
  (List.range (hi - lo)).map fun i => ((lo + i : Nat) : Int)

/-- Kind 0 (R390, R393): the checks, then the data. -/
def serveRead (s : State) (w : Wire) (o : Obj) : State :=
  let n := wireWidth o
  let els := wantedEls w n
  match serveEls s w o false n els with
  | .over c off => answerStatus s w c off
  | _ => if servePoison s o n els then answerStatus s w 2 0 else readAnswers s w o n id

/-- Kind 0 of a load that names a step (R483): the test for the elements of this request, then the data. -/
def serveStepRead (s : State) (w : Wire) (o : Obj) : State :=
  let n := wN w.ws 4
  let els := wantedEls w n
  let at_ := wireFirst w
  if !(eHas o.e 2) ∨ n = 0 then answerStatus s w 24 at_
  else
    match serveEls s w o false n els with
    | .over c off => answerStatus s w c off
    | _ =>
      match stepTest s o els (wN w.ws 2 % 2 ^ 32) with
      | .bad => answerStatus s w 24 at_
      | .bound => answerStatus s w 25 at_
      | .stale => answerStatus s w 26 at_
      | .wait _ _ => if wN w.ws 2 / 2 ^ 32 % 2 = 1 then answerStatus s w 26 at_ else answerStatus s w 3 0
      | .read _ b g _ =>
        if servePoison s o n (els.map (stepElem g b)) then answerStatus s w 2 0 else readAnswers s w o n (stepElem g b)

/-- Kind 2: the bits of a pair's second flit, in the cache of each location's home die (R588); an engine's once the copies on the other
dies are gone (R380). poll and mv: what is done to wait for the next cycle, or for the move of an extent. -/
def serveWrite (s : State) (w : Wire) (o : Obj) (bytes : List Byte) (poll mv : State → State) : State :=
  let b0 := 8 * wN w.ws 1 + wN w.ws 3 / 2 ^ 32 % 8
  let n := wN w.ws 3 % 2 ^ 32
  let p := if !(eIdentity o.e) then eWidth o.e else if b0 % 8 = 0 ∧ n % 8 = 0 then 8 else 1
  let v := natOfBytes bytes
  let els : List Int := (List.range (n / p)).map fun i => ((b0 / p + i : Nat) : Int)
  match serveEls s w o true p els with
  | .over c off => answerStatus s w c off
  | .moving => mv s
  | _ =>
    let bl := elemBlocks o p els
    let s := if wEng w then flushBlocks s o bl else s
    if wEng w && blocksHeld s o bl then poll s
    else
      let l := (List.range (n / p)).filterMap fun i =>
        (elemBit o p ((b0 / p + i : Nat) : Int)).map fun b => (b, v / 2 ^ (p * i) % 2 ^ p)
      answerStatus (l.foldl (fun s x => homeWrite s o w.ent x.1 p x.2) s) w 0 0

/-- A block of a peer move (R401) stands at its address, encrypted under the owner's key where this package holds it; behind an
indirection entry it waits for free sectors. -/
def landMove (s : State) (w : Wire) (bytes : List Byte) (poll : State → State) : State :=
  let v := wN w.ws 3
  let b := if v / 2 ^ 33 % 2 = 1 then none else some (BitVec.ofNat 4096 (natOfBytes bytes))
  match putMoved s (v % 2 ^ 16) (v / 2 ^ 16 % 2 ^ 16) (decide (v / 2 ^ 32 % 2 = 1)) (wN w.ws 1) b with
  | some t => t
  | none => poll s

/-- A kind-4 answer: the value, and the number of the request. -/
def answerWord (s : State) (w : Wire) (v : Nat) : State := answer s w 4 (payloadOf [BitVec.ofNat 64 v, w.ws.getD 5 0])

/-- Kind 3, a wait (R586, R587): word 0 of the element once it is over. -/
def serveWait (s : State) (w : Wire) (o : Obj) (poll : State → State) : State :=
  let el := wN w.ws 1 / 32
  if !(eIdentity o.e) || decide (32 * el + 32 > eSize o.e) then answerStatus s w 25 (32 * el)
  else
    match extChk s w.die (wDom w) o false 8 [((32 * el : Nat) : Int)] with
    | .rights b => answerStatus s w 23 b
    | .deferred b => answerStatus s w 1 b
    | _ =>
      match elemWords s o el with
      | none => poll s
      | some e =>
        let v := e.getD 0 0
        if v / 2 ^ 63 = 1 ∨ v / 2 ^ 32 % 2 ≠ wN w.ws 2 then answerWord s w v else poll s

/-- Kind 3, a step of a halo delivery (R480): step 2 at the record, status 2 where it must wait for pstep; that wait; the bit of
step 4. -/
def serveHalo (s : State) (w : Wire) (o : Obj) (poll : State → State) : State :=
  match gridOf s o with
  | none => answerStatus s w 24 0
  | some g =>
    let slot := wN w.ws 1
    let st := wN w.ws 2
    if slot ≥ gdNslot g then answerStatus s w 24 0
    else
      let a := recAddr g slot
      let b := bankOf g st
      let tag := recTag s a b
      match wN w.ws 4 % 256 with
      | 0 =>
        if !(mayDeliver s g a st) then answerStatus s w 2 0
        else if tag ≠ 0xFFFFFFFF ∧ tag > st then answerStatus s w 26 0
        else if tag = st then answerStatus s w 0 0
        else if recRd s a b ≠ 0 then poll s
        else answerStatus (recordChanged (setMap (setTag s a b st) a b 0)) w 0 0
      | 1 => if mayDeliver s g a st then answerStatus s w 0 0 else poll s
      | _ => answerStatus (recordChanged (setMap s a b (Nat.lor (recMap s a b) (2 ^ (wN w.ws 3 % 128))))) w 0 0

/-- Kind 3, a wait-form load's wait (R483): it is answered once its test no longer waits. -/
def serveStepWait (s : State) (w : Wire) (o : Obj) (poll : State → State) : State :=
  let n := wN w.ws 2 / 2 ^ 40 % 256
  match stepTest s o (wantedEls w (max 1 n)) (wN w.ws 2 % 2 ^ 32) with
  | .wait _ _ => poll s
  | _ => answerStatus s w 4 0

/-- Kind 3 (R371): an atomic answers with the old value. -/
def serveAtomic (s : State) (w : Wire) (o : Obj) (poll mv : State → State) : State :=
  match wireAtom w with
  | some x =>
    if !(atomInside o x) then answerStatus s w 25 (atomSpan x).1
    else
      match extChk s w.die (wDom w) o true 8 [((atomSpan x).1 : Int)] with
      | .rights b => answerStatus s w 23 b
      | .deferred b => answerStatus s w 1 b
      | .moving => mv s
      | .ok =>
        let y := applyAtom s o w.ent x
        answerWord y.1 w y.2
  | none =>
    if wN w.ws 4 = 768 then serveStepWait s w o poll
    else if wN w.ws 4 ≥ 512 then serveHalo s w o poll
    else serveWait s w o poll

/-- Kind 5 (R365): the system view, once it holds the version; the dies that hold dirty lines write back first. -/
def serveAcquire (s : State) (w : Wire) (poll : State → State) : State :=
  let key := wKey w
  let v := sysView s key
  if v.ver.toNat < wN w.ws 1 then poll s
  else
    let ds := (List.range 4).filter fun e => v.hold.getLsbD e
    let t := ds.foldl (fun s e => writeBackObj s e key) s
    if ds.any fun e => dirtyIn t e key then poll t
    else
      let m : BitVec 4 := BitVec.ofNat 4 (ds.foldl (fun a e => a + 2 ^ e) 0)
      let t := updDie t (pkgViewDie t key) fun y => { y with sysViews := viewLeave y.sysViews key m }
      answer t w 6 (payloadOf (w.ws.take 3 ++ [0, 0, w.ws.getD 5 0]))

/-- Kind 7 (R363, R364): the system view rises, and the answer says so. -/
def serveView (s : State) (w : Wire) : State := answerStatus (wakeAcquires (raiseSys s (wKey w) (w.ws.getD 1 0) 0) (wKey w)) w 0 0

/-- The entry that another package asks for (R160): as its die's resolution reads it. -/
def serveEntry (s : State) (w : Wire) : State :=
  let e := (entryOf s w.die (wKey w % 2 ^ 24)).getD []
  answer s w 4 (payloadOf ([0, w.ws.getD 5 0, 0, 0, 0, 0, 0, 0] ++ (List.range 8).map fun i => e.getD i 0))

/-- Serves a packet's request at its die (R393, R588); one that must wait is looked at again in the next cycle, or when the extent has
moved. The views of a version stand at the home package. -/
def serve (s : State) (f : Flit) : State :=
  let w := wireOf f
  let e := s.ev
  let row : Instr := (openRow f.kind.toNat).getD .readRequest
  let poll (s : State) : State := post s (s.tick + 1) row e
  let mv (s : State) : State := postMv s row e (wKey w)
  if w.kind = 2 && decide (w.ws.getD 2 0 = 1) then landMove s w e.bytes poll
  else if w.kind = 3 && decide (wN w.ws 4 = 1024) then serveEntry s w
  else if servesEarlier s f w then poll s
  else
    match serveObj s w with
    | .over c off => answerStatus s w c off
    | .moving => mv s
    | .peer p ent =>
      if w.kind = 5 then serveAcquire s w poll else if w.kind = 7 then serveView s w else sendOn s w p ent e.bytes
    | .ok o =>
      match w.kind with
      | 0 => if w.ws.getD 2 0 = 0 then serveRead s w o else serveStepRead s w o
      | 2 => serveWrite s w o e.bytes poll mv
      | 3 => serveAtomic s w o poll mv
      | 5 => serveAcquire s w poll
      | 7 => serveView s w
      | _ => s

/-! ## Answers -/

/-- The package that a request went to. -/
def reqTarget (s : State) (r : Req) : Nat :=
  if hHome r.handle ≠ s.pkg.toNat then hHome r.handle else ePeer (homeEntry s (r.handle.toNat / 2 ^ 28))

/-- The read of a die whose data a flit brings: the one that is out. -/
def awaiting (s : State) (f : Flit) : Option Req :=
  s.reqs.find? fun r => decide (r.st = .remote) && decide (r.die = f.ddie.toNat) && !r.want.isEmpty

/-- The request of a die that an answer's number names. -/
def askedBy (s : State) (f : Flit) (v : Word) : Option Req :=
  s.reqs.find? fun r => decide (r.die = f.ddie.toNat) && decide (wireId r.id = wireId v.toNat)

/-- Of two reports on parts of a load the one that decides: a fault, then a missing residency, then a step not current. -/
def worse (a : Option (Nat × Nat)) (b : Nat × Nat) : Option (Nat × Nat) :=
  match a with
  | none => some b
  | some x => some (if x.1 ≥ 23 then x else if b.1 ≥ 23 then b else if x.1 = 1 then x else if b.1 = 1 then b else x)

/-- The byte offset of the element of a request that a byte belongs to. -/
def elemByte (r : Req) (off : Nat) : Nat := if r.w = 0 then off else 8 * off / r.w * r.w / 8

/-- A request that another package could not do: its core's late fault, its job's failure, a trap at the next look of its wait, a
status in the frame; or it parks, or ends because a package cannot be reached (R264, R342, R393). -/
def endRemote (s : State) (r : Req) (status off : Nat) : State :=
  if status = 5 then endUnreachable s r off
  else
    match r.op with
    | .ldt spec .. =>
      if !(reqLive s r) then endLoad s r
      else if status = 1 then
        if spec then poisonAll s r (max r.ready (s.tick + 1) + Config.delay s.tick r.id) else parkReq s r 0 off
      else loadFault s r spec status (BitVec.ofNat 64 off)
    | .waitb .. => if status = 1 then parkReq s r 0 off else reqSet s { r with st := .failed status }
    | .mwaitb .. => if status = 1 then parkReq s r 0 off else reqSet s { r with st := .failed status }
    | .ctxsave .. => if status = 1 then parkReq s r 0 off else ctxDone s r 4
    | .fetch => fetchFails s r status off
    | .entry => reqDel s r.id
    | .depb .. => reqDel s r.id
    | _ => if status = 1 then parkReq s r 0 off else lateFault s r status (BitVec.ofNat 64 off)

/-- A wait-form load whose bank is not current asks to be told when it is (R483), and parks while its core's stop is set (R485). -/
def stepAsk (s : State) (r : Req) : State :=
  let s := reqSet s { r with st := .farWait }
  let o := firstByte r
  let lo := r.elems.foldl (fun m x => min m (x.2.toNat * r.w)) ((r.elems.headD (0, 0)).2.toNat * r.w) - 8 * o
  let bits := r.elems.foldl (fun m x => max m (x.2.toNat * r.w + r.w)) 0 - 8 * o
  let s := sendPacket s r.die (reqTarget s r) (hIndex r.handle % 4) (if hHome r.handle = s.pkg.toNat then 8 else 3)
    [requestBody 3 [BitVec.ofNat 64 (r.handle.toNat / 2 ^ 12 * 2 ^ 12), BitVec.ofNat 64 o, stepWord r + BitVec.ofNat 64 (r.w * 2 ^ 40),
      BitVec.ofNat 64 (bits + lo * 2 ^ 32), 768, reqTag r]
      (if hHome r.handle = s.pkg.toNat then homeEntry s (r.handle.toNat / 2 ^ 28) else [])] (some r.id)
  if (coreOf s r.core).stopS then parkReq s { r with st := .farWait } 26 o else s

/-- Every packet of a read has been answered: the load is whole, faults, parks or waits; a job goes on, the next part of an image is
read. -/
def readOver (s : State) (r : Req) : State :=
  match r.bad with
  | some (3, _) => stepAsk s { r with elems := r.miss, miss := [], bad := none }
  | some (c, off) => endRemote s { r with elems := if c = 1 then r.miss else r.elems, miss := [], bad := none } c off
  | none =>
    match r.op with
    | .jobRead => jobAnswer s r r.data r.bads
    | .fetch => fetchOver s r
    | _ => reqSet s r

/-- Elements of a load have an answer: their codes, or, where poison, free ones; each chunk they fill lands. -/
def answerCodes (s : State) (r : Req) (codes : List (Nat × Word32)) (poison : Bool) : State :=
  let r' := { r with data := r.data ++ codes }
  match r.op with
  | .ldt _ _ t =>
    let ctl := (tileOf (coreOf s r.core) t.toNat).ctl
    let ks := (codes.map fun x => chunkAt ctl x.1).eraseDups
    let r' := { r' with left := r.left ++ ks }
    let r' := { r' with bads := if poison then r'.bads ++ ks else r'.bads }
    let s := reqSet (if poison then countPoison s r.die 1 else s) r'
    let s := ks.foldl (fun s k => post s (max r.ready (s.tick + 1)) .tileChunkLands
      { Ev.none with core := r.core, id := r.id, tile := t, n := k }) s
    if r'.want.isEmpty then readOver s r' else s
  | _ =>
    let r' := if poison then { r' with bads := r.bads ++ codes.map Prod.fst } else r'
    if r'.want.isEmpty then readOver s r' else reqSet s r'

/-- The elements of a read that begin in a range of bits. -/
def elemsIn (r : Req) (lo hi : Nat) : List (Nat × Int) :=
  r.elems.filter fun x => decide (lo ≤ x.2.toNat * r.w) && decide (x.2.toNat * r.w < hi)

/-- A request without some of its elements. -/
def dropElems (r : Req) (lo hi : Nat) : Req :=
  { r with elems := r.elems.filter fun x => !(decide (lo ≤ x.2.toNat * r.w) && decide (x.2.toNat * r.w < hi)) }

/-- A line of a read's data has come: the first that is still to come. -/
def answerLoad (s : State) (r : Req) (p : BitVec 1024) : State :=
  match r.want with
  | [] => s
  | (k, a, b) :: t =>
    let lo := max a (1024 * k)
    let hi := min b (1024 * k + 1024)
    let codes := (elemsIn r lo hi).map fun x => (x.1, BitVec.ofNat 32 (p.toNat / 2 ^ (x.2.toNat * r.w - 1024 * k) % 2 ^ r.w))
    answerCodes s { dropElems r lo hi with want := t } codes false

/-- A request of a read has no data: its elements are poison, or it is kept for the end of the read. -/
def answerNoData (s : State) (r : Req) (f : Flit) (status off : Nat) : State :=
  let o := 8 * (payloadWord f.payload 4).toNat
  let v := (payloadWord f.payload 5).toNat
  let lo := o + v / 2 ^ 32
  let hi := o + v % 2 ^ 32
  let run := elemsIn r lo hi
  let r := { dropElems r lo hi with want := r.want.filter fun x => !(decide (x.2 = (lo, hi))) }
  if status = 2 then
    answerCodes s r (run.map fun x => (x.1, BitVec.ofNat 32 ((Config.word s.tick (r.id + x.1)).toNat % 2 ^ r.w))) true
  else
    let r := { r with miss := r.miss ++ run, bad := worse r.bad (status, if status = 5 then off else elemByte r off) }
    if r.want.isEmpty then readOver s r else reqSet s r

/-- The bytes that a job has written at another package are counted (R290, R291); those of a chain's word 0 and of a collective are
no part of its count, and a halo step counts a delivery when it is whole. -/
def countDone (s : State) (r : Req) (f : Job → Nat) : State :=
  match r.eng with
  | some e =>
    if e.poison then s
    else jobUpd s e.die e.job fun j => if j.kind = 3 ∨ (j.kind = 5 ∧ j.phase ≠ 0) then j else { j with done := f j }
  | none => s

/-- A write, a release or an image written is over. -/
def writeOver (s : State) (r : Req) : State :=
  match r.op with
  | .ctxsave sx _ => ctxDone (detach s r.core (r.handle.toNat / 2 ^ 28, sx.toNat)) r 0
  | .jobWrite =>
    let s := countDone s r fun j => if j.kind = 4 then j.done + (r.elems.length * r.w + 7) / 8 else cardBytes (jobCard j)
    match r.eng with
    | none => reqDel s r.id
    | some e =>
      match jobFind s e.die e.job with
      | some j => if j.kind = 4 ∧ !e.poison then haloRemote (reqDel s r.id) e.die j 2 else engOver s r e none 0
      | none => engOver s r e none 0
  | _ => reqDel s r.id

/-- A packet of a store is answered: with the last one the store is over, faults, or parks with the elements that were not
resident. -/
def answerWrite (s : State) (r : Req) (f : Flit) (status off : Nat) : State :=
  let b0 := 8 * (payloadWord f.payload 4).toNat + (payloadWord f.payload 5).toNat / 2 ^ 32 % 8
  let n := (payloadWord f.payload 5).toNat % 2 ^ 32
  let r := { r with asks := r.asks - 1 }
  let s := if status = 0 ∧ r.op = .jobWrite then countDone s r fun j => if j.kind = 4 then j.done else j.done + n / 8 else s
  let r :=
    if status = 0 then r
    else
      { r with bad := worse r.bad (status, if status = 5 then off else elemByte r off), miss := r.miss ++ elemsIn r b0 (b0 + n) }
  if r.asks > 0 then reqSet s r
  else
    match r.bad with
    | none => writeOver s r
    | some (c, o) => endRemote s { r with bad := none } c o

/-- A step of a halo delivery is answered (R480): 0 goes on, 2 leaves the engine's room and waits for the receiver's pstep. -/
def answerHalo (s : State) (r : Req) (phase status : Nat) : State :=
  match r.eng with
  | none => reqDel s r.id
  | some e =>
    let s := reqDel s r.id
    match jobFind s e.die e.job with
    | none => s
    | some j =>
      match phase, status with
      | 0, 2 => haloRemote (jobUpd s e.die j.id fun j => { j with st := .waiting, chan := 0 }) e.die j 1
      | 0, _ => haloRemote s e.die j 3
      | 1, _ => s
      | _, _ => nextDelivery s e.die j.id (j.step + 1)

/-- The entry of an object of another package has come: the die's unit keeps it. -/
def keepEntry (s : State) (r : Req) (f : Flit) : State :=
  let i := 2 ^ 36 + r.handle.toNat / 2 ^ 28
  let e := (List.range 8).map fun n => payloadWord f.payload (8 + n)
  updDie (reqDel s r.id) r.die fun y => { y with rescache := y.rescache.filter (fun x => decide (x.1 ≠ i)) ++ [(i, e)] }

/-- An answer of kind 4 has come for the request of a number: an old value, a barrier word, or a status. -/
def answerAtomic (s : State) (f : Flit) : State :=
  let status := (payloadWord f.payload 2).toNat
  let off := (payloadWord f.payload 3).toNat
  match askedBy s f (payloadWord f.payload 1) with
  | none => s
  | some r =>
    if status = 4 then
      match r.st with
      | .farWait => resolveAt (reqSet s { r with st := .issued }) (s.tick + 1) r.id
      | .parked tok => post s (s.tick + 1) .fqresume { Ev.none with w := tok }
      | _ => s
    else if r.st ≠ .remote then s
    else if (remoteForm r).1 = 0 then (if status = 0 ∨ r.want.isEmpty then s else answerNoData s r f status off)
    else if (remoteForm r).1 = 2 then answerWrite s r f status off
    else
      let v := payloadWord f.payload 0
      let far (s : State) : State := reqSet s { r with st := .answered v, ready := s.tick + 2 }
      match r.op with
      | .halo p .. => if status = 0 ∨ status = 2 then answerHalo s r p status else endRemote s r status off
      | _ =>
        if status ≠ 0 then endRemote s r status off
        else
          match r.op with
          | .amo _ _ nr _ _ _ t w =>
            let s := dropClean s r.die (r.handle.toNat / 2 ^ 28)
            if nr then reqDel s r.id
            else
              let b := tBase (tileOf (coreOf s r.core) t.toNat).ctl + 8 * w
              post (reqDel s r.id) (s.tick + 1) .reportLands
                { Ev.none with core := r.core, id := r.id, tile := t, n := w / 64, w := BitVec.ofNat 64 b, bytes := bytesOf v.toNat 8 }
          | .waitb .. => far s
          | .mwaitb .. => far s
          | .depb .. => far s
          | .entry => keepEntry s r f
          | _ =>
            match r.eng with
            | some e => engOver s r e none 0
            | none => reqDel s r.id

/-- A remote acquire is answered: the clean copies go, the report bit is set (R365, R588). -/
def answerAcquire (s : State) (f : Flit) : State :=
  match askedBy s f (payloadWord f.payload 5) with
  | none => s
  | some r =>
    match r.op, r.st with
    | .acqv _ _ t k, .remote => reqDel (reportDone (dropClean s r.die (r.handle.toNat / 2 ^ 28)) r.core t k false) r.id
    | _, _ => s

/-- READ_REQUEST (R454). -/
def execReadRequest (s : State) : Host.Outcome State Fault Refusal := .next (openArrival s true serve)

/-- READ_RESPONSE (R454). -/
def execReadResponse (s : State) : Host.Outcome State Fault Refusal :=
  .next (openArrival s true fun s f =>
    match awaiting s f with
    | some r => answerLoad s r f.payload
    | none => s)

/-- WRITE_BACK_DATA (R454, R588). -/
def execWriteBackData (s : State) : Host.Outcome State Fault Refusal := .next (openArrival s true serve)

/-- ATOMIC_REQUEST (R454, R587). -/
def execAtomicRequest (s : State) : Host.Outcome State Fault Refusal := .next (openArrival s true serve)

/-- ATOMIC_RESPONSE (R454, R587). -/
def execAtomicResponse (s : State) : Host.Outcome State Fault Refusal := .next (openArrival s true answerAtomic)

/-- ACQUIRE_REQUEST (R454, R365). -/
def execAcquireRequest (s : State) : Host.Outcome State Fault Refusal := .next (openArrival s true serve)

/-- ACQUIRE_RESPONSE (R454). -/
def execAcquireResponse (s : State) : Host.Outcome State Fault Refusal := .next (openArrival s true answerAcquire)

/-- VIEW_UPDATE (R454, R363). -/
def execViewUpdate (s : State) : Host.Outcome State Fault Refusal := .next (openArrival s true serve)

/-- FORWARDED_RESOLUTION (R393): the request is resolved with the entry it was given. -/
def execForwardedResolution (s : State) : Host.Outcome State Fault Refusal := .next (openArrival s true serve)

/-! ## Acknowledgements and timers (R459, R460) -/

/-- E2E_ACK_SEND (R459): base and map go to the source endpoint on the first live path. -/
def execE2eAckSend (s : State) : Host.Outcome State Fault Refusal :=
  let pkg := s.ev.n / 4
  match livePaths s pkg with
  | [] => .next s
  | l :: _ =>
    let x := rxOf s (openFlit s 0 0 s.ev.die 0 0 0)
    let x := match s.rxs.find? fun x => decide (x.die = s.ev.die) && decide (x.spkg.toNat = pkg) && decide (x.sdie.toNat = s.ev.n % 4) with
      | some y => y
      | none => x
    .next (sendLink s l pkg (s.ev.n % 4) 9 s.ev.die
      (payloadOf (x.base.zeroExtend 64 :: (List.range 4).map fun i => x.map.extractLsb' (64 * i) 64)))

/-- Whether an acknowledgement's base and map cover a number. -/
def covers (base : BitVec 24) (map : BitVec 256) (n : BitVec 24) : Bool :=
  let off := (n - base).toNat
  decide (2 ^ 23 ≤ off) || (decide (off < 256) && map.getLsbD off)

/-- END_TO_END_ACKNOWLEDGEMENT (R460): every packet of the pair that it covers is retired. -/
def execEndToEndAcknowledgement (s : State) : Host.Outcome State Fault Refusal :=
  .next (openArrival s false fun s f =>
    let base := (payloadWord f.payload 0).extractLsb' 0 24
    let map : BitVec 256 := f.payload.extractLsb' 64 256
    let hit (q : Pkt) : Bool :=
      decide (q.die = f.ddie.toNat) && decide (q.dpkg = f.spkg) && decide (q.ddie = f.sdie) && covers base map q.seq
    { s with pkts := s.pkts.filter fun q => !(hit q) })

/-- E2E_TIMER_EXPIRY (R460): the packet goes out again on the next path; its eighth expiry ends what it carried, and the requester of a
forwarded request is told (R393). -/
def execE2eTimerExpiry (s : State) : Host.Outcome State Fault Refusal :=
  let e := s.ev
  match s.pkts.find? fun q => decide (q.die = e.die) && decide (4 * q.dpkg.toNat + q.ddie.toNat = e.id) && decide (q.seq.toNat = e.n) &&
      decide (q.sent = e.slot) && decide (q.next > 0) with
  | none => .next s
  | some q =>
    if q.expiries < 7 then
      let n := (pathPorts s.pkg.toNat q.dpkg.toNat).length
      .next (updPkt s q fun r => { r with expiries := r.expiries + 1, path := (r.path + 1) % max 1 n, next := 0 })
    else
      let drop (f : Pkt → Bool) := { s with pkts := s.pkts.filter fun r => !(f r) }
      match q.req.bind (reqFind s) with
      | some r => .next (endUnreachable (drop fun x => samePkt q x || decide (x.req = q.req)) r q.dpkg.toNat)
      | none =>
        let s := raise51 (drop (samePkt q)) (noticeCore s q.die) 0 2 q.dpkg.toNat
        .next (match q.flits.head? with
          | some f => if f.kind = 8 then answerStatus s (wireOf f) 5 q.dpkg.toNat else s
          | none => s)

/-! ## Markers (R309, R462, R463) -/

/-- What an operation that core k issued toward a package before a number has still to do there (R309): anything, or, with sent, to be
sent there first. A release comes before the marker whatever its object (R364). -/
def markAhead (s : State) (k pkg upto : Nat) (sent : Bool) : Bool :=
  s.reqs.any fun q => decide (q.core = k) && q.eng.isNone && decide (q.id < upto) && decide ((coreOf s k).born ≤ q.id) &&
    ((match q.op with | .relv .. => true | _ => false) || decide (reqTarget s q = pkg)) && (!sent || unsent q)

/-- The markers of an FMARK leave: one down each minimal path to every die of the package. -/
def sendMarkers (s : State) (k : Nat) (t : BitVec 6) (chunk pkg upto : Nat) : State :=
  let d := coreDie k
  let s := { s with marks := s.marks ++ [{ core := k, tile := t, chunk := chunk, pkg := BitVec.ofNat 12 pkg, upto := upto, acks := 0 }] }
  (minimalPaths s pkg).foldl (fun s l =>
    (List.range 4).foldl (fun s e =>
      let n := (nextSeq s d pkg e + 2 ^ 24 - 1) % 2 ^ 24
      sendLink s l pkg e 10 d (payloadOf [BitVec.ofNat 64 (n + coreNum k % 128 * 2 ^ 24)])) s) s

/-- A marker copy reaches a die; with the last one its acknowledgement can fall due. -/
def markerIn (s : State) (f : Flit) : State :=
  let w := payloadWord f.payload 0
  let same (m : MarkRx) : Bool :=
    decide (m.die = f.ddie.toNat) && decide (m.spkg = f.spkg) && decide (m.sdie = f.sdie) &&
      decide (m.n = w.extractLsb' 0 24) && decide (m.score = w.extractLsb' 24 7)
  let n := match s.markRxs.find? same with
    | some m => m.copies + 1
    | none => 1
  let m : MarkRx := { die := f.ddie.toNat, spkg := f.spkg, sdie := f.sdie, score := w.extractLsb' 24 7, n := w.extractLsb' 0 24, copies := n }
  let s := { s with markRxs := s.markRxs.filter (fun x => !(same x)) ++ [m] }
  if n = (minimalPaths s f.spkg.toNat).length then
    post s (s.tick + 1) .markerAckSend { Ev.none with die := m.die, id := 4 * m.spkg.toNat + m.sdie.toNat, n := m.n.toNat, slot := m.score.toNat }
  else s

/-- MARKER (R462): copies leave this package (flag with a core) once every earlier operation toward the package has been sent, or one
arrives; flag2: a report that waits for an earlier operation that is still to perform there (R309). -/
def execMarker (s : State) : Host.Outcome State Fault Refusal :=
  let e := s.ev
  match e.flit with
  | none =>
    .next (if !e.flag then s
      else if markAhead s e.core e.id e.w.toNat (!e.flag2) then post s (s.tick + 1) .marker e
      else if e.flag2 then reportDone s e.core e.tile e.n false
      else sendMarkers s e.core e.tile e.n e.id e.w.toNat)
  | some _ => .next (openArrival s false markerIn)

/-- Whether every packet of a pair up to a number has performed: the base is past it, and none that was handed over waits. -/
def performedTo (s : State) (d pkg sdie n : Nat) : Bool :=
  (match s.rxs.find? fun x => decide (x.die = d) && decide (x.spkg.toNat = pkg) && decide (x.sdie.toNat = sdie) with
    | some x => decide ((x.base - BitVec.ofNat 24 (n + 1)).toNat < 2 ^ 23)
    | none => decide (n = 2 ^ 24 - 1)) &&
  !(s.agenda.any fun e => e.ev.flag2 &&
    (match e.ev.flit with
      | some g => decide (g.spkg.toNat = pkg) && decide (g.sdie.toNat = sdie) && decide (g.ddie.toNat = d)
      | none => false))

/-- MARKER_ACK_SEND (R463): the acknowledgement goes once every packet up to n has performed. -/
def execMarkerAckSend (s : State) : Host.Outcome State Fault Refusal :=
  let e := s.ev
  let pkg := e.id / 4
  if performedTo s e.die pkg (e.id % 4) e.n then
    let s := { s with markRxs := s.markRxs.filter fun m =>
      !(decide (m.die = e.die) && decide (4 * m.spkg.toNat + m.sdie.toNat = e.id) && decide (m.n.toNat = e.n) && decide (m.score.toNat = e.slot)) }
    .next (sendCtl s pkg (4 * 2 ^ 60 + e.slot % 128 + e.id % 4 * 2 ^ 7 + s.pkg.toNat * 2 ^ 9 + e.die * 2 ^ 21))
  else .next (post s (s.tick + 1) .markerAckSend e)

/-- MARKER_ACKNOWLEDGEMENT (R463, R465): with those of all four dies the oldest FMARK toward the package reports. -/
def execMarkerAcknowledgement (s : State) : Host.Outcome State Fault Refusal :=
  let w := s.ev.w.toNat
  let mine (m : Mark) : Bool :=
    decide (coreNum m.core = w % 128) && decide (coreDie m.core = w / 2 ^ 7 % 4) && decide (m.pkg.toNat = w / 2 ^ 9 % 4096) &&
      !(m.acks.getLsbD (w / 2 ^ 21 % 4))
  match s.marks.find? mine with
  | none => .next s
  | some m =>
    let m' := { m with acks := m.acks ||| BitVec.ofNat 4 (2 ^ (w / 2 ^ 21 % 4)) }
    let rest := s.marks.erase m
    if m'.acks = BitVec.allOnes 4 then
      .next (post { s with marks := rest } s.tick .marker
        { Ev.none with core := m.core, tile := m.tile, n := m.chunk, id := m.pkg.toNat, w := BitVec.ofNat 64 m.upto, flag := true, flag2 := true })
    else .next { s with marks := s.marks.map fun x => if x = m then m' else x }

end Sys2Proof.Machine
end

