-- ==== Sys2Proof/Machine/Gang.lean ====
section
/-! DEFINITION. Gangs and rendezvous holds (R437 to R440, R466, R504, R505): the holds that members send, what each moves, and the
end of a gang that waits too long. -/

namespace Sys2Proof.Machine

/-- The queued records of a die: address and words, those already withdrawn aside. -/
def queuedOf (s : State) (d : Nat) : List (Nat × List Word) :=
  let y := dieOf s d
  (List.range 8).flatMap fun p =>
    (List.range (csProd y p - csCons y p)).filterMap fun i =>
      let a := csRecord y p (csCons y p + i)
      match recordOf s a with
      | some l => if wBits l 0 60 4 = 7 then none else some (a, l)
      | none => none

/-- The records of a die that belong to a gang, queued or admitted. -/
def gangRecs (s : State) (d g : Nat) : List (List Word) :=
  (((queuedOf s d).map Prod.snd ++ (dieOf s d).launches.map Launch.words).filter fun l => decide (lGang l = g) && decide (g ≠ 0))

/-- The gangs of a die. -/
def gangsOf (s : State) (d : Nat) : List Nat :=
  (((queuedOf s d).map Prod.snd ++ (dieOf s d).launches.map Launch.words).map lGang).eraseDups.filter fun g => decide (g ≠ 0)

/-- The members of a gang by its table: package and die of each. -/
def membersOf (s : State) (l : List Word) : List (Nat × Nat) :=
  let a := wBits l 8 0 48
  (List.range (min 9216 (physWord s a).toNat)).map fun i =>
    let w := (physWord s (a + 8 + 8 * i)).toNat
    (w / 2 ^ 52, w / 2 ^ 50 % 4)

/-- The member index of a die of this package. -/
def memberIx (s : State) (l : List Word) (d : Nat) : Nat := (membersOf s l).findIdx fun m => decide (m = (s.pkg.toNat, d))

/-- The account of a gang; one that is not kept has no holds. -/
def gangOf (y : Die) (g : Nat) : Gang :=
  match y.gangs.find? fun x => decide (x.gang = g) with
  | some x => x
  | none => { gang := g, total := 0, count := 0, heard := [], chain := [], abort := false }

/-- Replaces the account of a gang. -/
def gangPut (s : State) (d : Nat) (x : Gang) : State :=
  updDie s d fun y => { y with gangs := y.gangs.filter (fun z => decide (z.gang ≠ x.gang)) ++ [x] }

/-- A hold moves every pending rendezvous of a core 4,096 cycles later (R505). -/
def shiftCore (s : State) (k : Nat) : State :=
  updCore s k fun c => { c with holdShift := c.holdShift + 4096, nrv := c.nrv.map fun t => t + 4096 }

/-- The cores on which launches of a gang run. -/
def gangCores (s : State) (d g : Nat) : List Nat :=
  ((dieOf s d).launches.filter fun x => decide (lGang x.words = g)).flatMap fun x => (leftOf s d x).map fun c => 96 * d + c.1

/-- A member counts one hold per sender and frame (R466), moves its rendezvous, and reaches its limit (R440). A hold is too late where it
finds some but not all first rendezvous issued, or all of them and comes from a member that has held in every frame since t: that one
has not started (R438, see the log). -/
def applyHold (s : State) (d g sender : Nat) : State :=
  let x := gangOf (dieOf s d) g
  let f := frameNow s
  if x.heard.contains (sender, f) then s
  else
    let ks := gangCores s d g
    let l := (gangRecs s d g).headD []
    let gto := if l.isEmpty then 0 else lGto l
    let first := decide (f = (l.getD 3 0).toNat / 4096) || x.chain.contains (sender, f - 1)
    let late := (ks.any fun k => !(coreOf s k).gangWait) && (first || ks.any fun k => (coreOf s k).gangWait)
    let s := ks.foldl shiftCore s
    let s := if late then (ks.filter fun k => !(coreOf s k).gangWait).foldl (fun s k => raise51 s k 0 3 s.pkg.toNat) s else s
    gangPut s d { x with total := x.total + 1, count := x.count + 1, abort := x.abort || late || decide (x.count + 1 ≥ gto),
                         heard := (x.heard.filter fun h => decide (f ≤ h.2 + 1)) ++ [(sender, f)],
                         chain := x.chain.filter (fun h => decide (h.1 ≠ sender)) ++ (if first then [(sender, f)] else []) }

/-- The packages other than this one that a gang has members on. -/
def farMembers (s : State) (l : List Word) : List Nat := ((membersOf s l).map Prod.fst).eraseDups.filter fun p => decide (p ≠ s.pkg.toNat)

/-- A member sends a hold to every other member, and counts it itself (R438). -/
def sendHold (s : State) (d : Nat) (l : List Word) : State :=
  let i := memberIx s l d
  if (gangOf (dieOf s d) (lGang l)).heard.contains (i, frameNow s) then s
  else
    let s := (farMembers s l).foldl (fun s p => sendCtl s p (1 * 2 ^ 60 + lGang l + i % 2 ^ 14 * 2 ^ 32)) s
    (List.range 4).foldl (fun s e => if (gangRecs s e (lGang l)).isEmpty then s else applyHold s e (lGang l) i) s

/-- A record's words if it makes its member hold in this frame: it is not admitted, or starts later (R438). -/
def holdsNow (s : State) (d g : Nat) : Option (List Word) :=
  let now := s.gcyc.toNat / 4096 * 4096
  let due (l : List Word) := decide ((l.getD 3 0).toNat ≤ now + 4095) && decide (lGang l = g)
  match (queuedOf s d).find? fun x => due x.2 with
  | some x => some x.2
  | none => ((dieOf s d).launches.find? fun x => due x.words && (!x.loaded || decide (x.start.toNat > now))).map Launch.words

/-- GANG_HOLD_SEND (R438): in a frame's control slot. -/
def execGangHoldSend (s : State) : Host.Outcome State Fault Refusal :=
  let d := s.ev.die
  .next ((gangsOf s d).foldl (fun s g =>
    match holdsNow s d g with
    | some l => sendHold s d l
    | none => s) s)

/-- HOLD (R465, R505): it reaches every member of the gang on this package. -/
def execHold (s : State) : Host.Outcome State Fault Refusal :=
  let g := s.ev.w.toNat % 2 ^ 32
  .next ((List.range 4).foldl (fun s d =>
    if (gangRecs s d g).isEmpty then s else applyHold s d g (s.ev.w.toNat / 2 ^ 32 % 2 ^ 14)) s)

/-- A member aborts (R440): started cores are freed, loads abandoned, every record takes status 7, cbar is left as it is. -/
def abortMember (s : State) (d g : Nat) : State :=
  let s := ((dieOf s d).launches.filter fun x => decide (lGang x.words = g)).foldl (fun s x => putStatus (dropLaunch s d x) x.recPa 7 0) s
  let s := ((queuedOf s d).filter fun x => decide (lGang x.2 = g)).foldl (fun s x => putStatus s x.1 7 0) s
  updDie s d fun y => { y with gangs := y.gangs.filter fun x => decide (x.gang ≠ g) }

/-- GANG_ABORT (R440): at the start of the next frame the member sends an abort in place of a hold, and aborts. -/
def execGangAbort (s : State) : Host.Outcome State Fault Refusal :=
  let d := s.ev.die
  let g := s.ev.n
  match gangRecs s d g with
  | [] => .next (abortMember s d g)
  | l :: _ =>
    let s := (farMembers s l).foldl (fun s p => sendCtl s p (2 * 2 ^ 60 + g + memberIx s l d % 2 ^ 14 * 2 ^ 32)) s
    .next ((List.range 4).foldl (fun s e => if e = d ∨ !(gangRecs s e g).isEmpty then abortMember s e g else s) s)

/-- GANG_ABORT_MESSAGE (R440): a member that receives an abort aborts at once. -/
def execGangAbortMessage (s : State) : Host.Outcome State Fault Refusal :=
  let g := s.ev.w.toNat % 2 ^ 32
  .next ((List.range 4).foldl (fun s d => if (gangRecs s d g).isEmpty then s else abortMember s d g) s)

/-- The field of slot FAB of a bundle is an FRDV. -/
def isRdv (d : Disp) : Bool := match slotInstr d.bits 7 with | some (.frdv _ _) => true | _ => false

/-- Whether some slot of a core has not issued every bundle before its rendezvous. -/
def slotsBehind (c : Core) : Bool :=
  let i := nextIdx c 7
  match c.queue[i]? with
  | some d => !(isRdv d) || (List.range 9).any fun k => decide (nextIdx c k < i)
  | none => true

/-- Whether a core is behind at the frame that begins now (R504). -/
def coreBehind (s : State) (k : Nat) : Bool :=
  let c := coreOf s k
  match c.nrv with
  | some t => decide (t.toNat / 4096 = frameNow s + 1) && c.rewound && slotsBehind c
  | none => false

/-- RENDEZVOUS_HOLD (R504): a behind core's member sends a hold, or every core of its launch is held. -/
def execRendezvousHold (s : State) : Host.Outcome State Fault Refusal :=
  let d := s.ev.die
  .next ((dieOf s d).launches.foldl (fun s x =>
    let ks := (leftOf s d x).map fun c => 96 * d + c.1
    if ks.any (coreBehind s) then (if lGang x.words = 0 then ks.foldl shiftCore s else sendHold s d x.words) else s) s)

end Sys2Proof.Machine
end

