-- ==== Sys2Proof/Machine/Fab.lean ====
section
/-! DEFINITION. The fabric slot's instructions (R98, R99, R304 to R311): timed sends and receives on the slots of the core's share
of the frame table, markers, the rendezvous, and the link's reports. -/

namespace Sys2Proof.Machine

/-! ## The share (R305, R449) -/

/-- An entry as it will stand in a later frame, or in this one. -/
def entryIn (s : State) (later : Bool) (key : Nat) : Nat := if later then (tblGet (0 : Word) s.frame key).toNat else frameEff s key

/-- The ports on which a slot of a direction belongs to a core, with their entries. -/
def shareAt (s : State) (k dir : Nat) (later : Bool) (sl : Nat) : List (Nat × Nat) :=
  (List.range 133).filterMap fun l =>
    let e := entryIn s later (frameKey l dir sl)
    if ownsEntry s k (frameKey l dir sl) e then some (l, e) else none

/-- The next n slots of a core's share at or after cycle t: cycles from t on, port and entry. -/
def shareFrom (s : State) (k dir t : Nat) (fuel j n : Nat) : List (Nat × Nat × Nat) :=
  match fuel with
  | 0 => []
  | f + 1 =>
    if n = 0 then []
    else
      let at_ := t + 2 * j
      let here := shareAt s k dir (decide (at_ / 4096 ≠ s.gcyc.toNat / 4096)) (at_ % 4096 / 2)
      let l := (here.take n).map fun x => (2 * j, x.1, x.2)
      l ++ shareFrom s k dir t f (j + 1) (n - l.length)

/-- The slots of a timed instruction of n flits. -/
def flitSlots (s : State) (dir t n : Nat) : List (Nat × Nat × Nat) := shareFrom s s.cur.core dir t (2048 * n + 2048) 0 n

/-- A cycle that does not begin a slot of the share is a schedule fault when FAB reaches the instruction (R305). -/
def slotChk (s : State) (dir t : Nat) : Chk :=
  faultIf (decide (t % 2 = 1) || (shareAt s s.cur.core dir (decide (t / 4096 ≠ s.gcyc.toNat / 4096)) (t % 4096 / 2)).isEmpty) 6
    (BitVec.ofNat 64 t) 0

/-- The sub-blocks that the slots name. -/
def slotSubs (l : List (Nat × Nat × Nat)) : List Nat := l.map fun x => fSub x.2.2

/-- Every sub-block lies in the tile. -/
def subsChk (s : State) (td : BitVec 6) (l : List (Nat × Nat × Nat)) : Chk :=
  descIf ((slotSubs l).any fun j => decide (128 * j + 128 > tSize (ctlOf s td))) td

/-- The chunks that hold the sub-blocks. -/
def subsMask (l : List (Nat × Nat × Nat)) : BitVec 128 :=
  (slotSubs l).foldl (fun m j => m ||| chunkMask (128 * j) (128 * j + 128)) 0

/-- A FAB instruction's outcome. t: the cycle that a timed one names. -/
def performFab (s : State) (t : Option Nat) (k : Chk) (f : State → State) : Host.Outcome State Fault Refusal :=
  match t with
  | some t => performTimed s t k f
  | none => perform s k f

/-- T of a timed instruction of FAB. -/
def fabT (s : State) (sc : BitVec 6) (off : BitVec 12) : Nat := namedCycle s (readS s sc + off.zeroExtend 64)

/-! ## FSEND, FRECV, FRECVA -/

/-- The checks of FSEND (R305, R306, R439). -/
def chkFsend (sc : BitVec 6) (off : BitVec 12) (td : BitVec 6) (n1 : BitVec 4) (s : State) : Chk :=
  let t := fabT s sc off
  (gangChk s).and <| (slotChk s 0 t).and <|
    let l := flitSlots s 0 t (n1.toNat + 1)
    (subsChk s td l).and ((timedChk s t).and ((readyChk s td (subsMask l)).and (poisonChk s td (subsMask l))))

/-- FSEND (R306): each flit's sub-block is sampled in the cycle its slot begins. -/
def execFsend (sc : BitVec 6) (off : BitVec 12) (td : BitVec 6) (n1 : BitVec 4) (s : State) : Host.Outcome State Fault Refusal :=
  let t := fabT s sc off
  performFab s (some t) (chkFsend sc off td n1 s) fun s =>
    let l := flitSlots s 0 t (n1.toNat + 1)
    let ctl := ctlOf s td
    l.foldl (fun s x =>
      let id := s.nextId
      let s := addSample s x.1 x.1 (.fsend x.2.1 id (tBase ctl + 128 * fSub x.2.2) (BitVec.ofNat 12 (tSeq ctl)) (BitVec.ofNat 64 x.2.2))
      updCur { s with nextId := id + 1 } fun c => { c with sends := c.sends ++ [id] }) (markRead s td)

/-- The flits that a receive expects. -/
def expected (s : State) (l : List (Nat × Nat × Nat)) : List RecvSlot :=
  l.map fun x => { port := x.2.1, at_ := s.tick + x.1, sub := fSub x.2.2 }

/-- Whether the fabric path of this core is the tile's unfinished producer. -/
def fabricOwns (x : Tile) : Bool := tBusy x && decide (x.prod = .fabric)

/-- The checks of FRECV (R305, R307). -/
def chkFrecv (sc : BitVec 6) (off : BitVec 12) (td : BitVec 6) (n1 : BitVec 4) (s : State) : Chk :=
  let t := fabT s sc off
  (gangChk s).and <| (slotChk s 1 t).and <|
    (subsChk s td (flitSlots s 1 t (n1.toNat + 1))).and ((timedChk s t).and
      (if fabricOwns (tileOf (cc s) td.toNat) then .ok else busyChk s td))

/-- FRECV (R307): it arms the tile, or adds to one that the fabric is filling. -/
def execFrecv (sc : BitVec 6) (off : BitVec 12) (td : BitVec 6) (n1 : BitVec 4) (s : State) : Host.Outcome State Fault Refusal :=
  let t := fabT s sc off
  performFab s (some t) (chkFrecv sc off td n1 s) fun s =>
    let l := flitSlots s 1 t (n1.toNat + 1)
    let adds := fabricOwns (tileOf (cc s) td.toNat)
    let s := if adds then s else land s 1 (.arm td.toNat .fabric none true)
    updCur s fun c => { c with recvs := c.recvs ++ [{ tile := td, slots := expected s l, arms := !adds, comb := none }] }

/-- The formats that FRECVA combines (R308). -/
def combFmt (f : Fmt) : Bool := match f with | .fp32 => true | .bf16 => true | .fp16 => true | .i32 => true | .n32 => true | _ => false

/-- The checks of FRECVA (R305, R308); only a float sum rounds. -/
def chkFrecva (op : CombOp) (sc : BitVec 6) (off : BitVec 12) (td : BitVec 6) (n1 : BitVec 2) (s : State) : Chk :=
  let t := fabT s sc off
  let f := tFmt (ctlOf s td)
  (gangChk s).and <| (slotChk s 1 t).and <|
    let l := flitSlots s 1 t (n1.toNat + 1)
    (subsChk s td l).and ((timedChk s t).and ((faultIf (!(combFmt f)) 7 0 0).and
      ((if op = .add ∧ f ≠ .i32 ∧ f ≠ .n32 then rmChk .rm (readFmt s) else .ok).and (readyChk s td (subsMask l)))))

/-- FRECVA (R308): the chunks' bits are cleared; each flit combines when it lands. -/
def execFrecva (op : CombOp) (sc : BitVec 6) (off : BitVec 12) (td : BitVec 6) (n1 : BitVec 2) (s : State) :
    Host.Outcome State Fault Refusal :=
  let t := fabT s sc off
  performFab s (some t) (chkFrecva op sc off td n1 s) fun s =>
    let l := flitSlots s 1 t (n1.toNat + 1)
    let s := land (markRead s td) 1 (.clearBits td.toNat (subsMask l))
    updCur s fun c => { c with recvs := c.recvs ++ [{ tile := td, slots := expected s l, arms := false, comb := some (op, .rm, readFmt s) }] }

/-! ## FMARK, FRDV, FCTL -/

/-- The checks of FMARK (R309, R439). -/
def chkFmark (sc : BitVec 6) (k : BitVec 7) (td : BitVec 6) (s : State) : Chk :=
  (gangChk s).and ((faultIf (decide ((readS s sc).toNat > 2303)) 30 (readS s sc) 0).and (reportChk s td k.toNat))

/-- FMARK (R309, R268): its markers leave when its segment commits; one to the core's own package completes in the next cycle. -/
def execFmark (sc : BitVec 6) (k : BitVec 7) (td : BitVec 6) (s : State) : Host.Outcome State Fault Refusal :=
  performFab s none (chkFmark sc k td s) fun s =>
    let pkg := (readS s sc).toNat
    let s := reportStart s td k.toNat
    if pkg = s.pkg.toNat then
      post s (s.tick + 1) .reportLands { Ev.none with core := s.cur.core, id := s.nextId, tile := td, n := k.toNat }
    else
      let id := s.nextId
      updCur { s with nextId := id + 1 } fun c => { c with leaving := c.leaving ++ [.marker id td k.toNat (BitVec.ofNat 12 pkg)] }

/-- T of a rendezvous: nrv once FAB has reached it (R504); each hold has moved it (R505). -/
def rdvT (s : State) (sc : BitVec 6) (off : BitVec 12) : Nat :=
  match (cc s).nrv with
  | some t => t.toNat
  | none => (readS s sc).toNat + off.toNat + (cc s).holdShift

/-- The check of FRDV (R99): a rendezvous bundle that reissues after a rewind of its own segment does not wait again. -/
def chkFrdv (sc : BitVec 6) (off : BitVec 12) (s : State) : Chk :=
  if (cc s).rvDone && decide ((cc s).segAge = s.cur.age) then .ok else timedChk s (rdvT s sc off)

/-- FRDV (R310, R439, R504, R505): the gang's first rendezvous has issued, and its hold count returns to 0. -/
def execFrdv (sc : BitVec 6) (off : BitVec 12) (s : State) : Host.Outcome State Fault Refusal :=
  performFab s none (chkFrdv sc off s) fun s =>
    let s := updCur s fun c => { c with nrv := none, gangWait := false, rewound := false }
    match launchOf s s.cur.core with
    | some x =>
      if lGang x.words = 0 then s
      else updDie s (coreDie s.cur.core) fun y =>
        { y with gangs := y.gangs.map fun g => if g.gang = lGang x.words then { g with count := 0 } else g }
    | none => s

/-- FCTL.sync (R311): it reports once every flit that this core's FSENDs still have under way is acknowledged. -/
def execFctlSync (k : BitVec 7) (td : BitVec 6) (s : State) : Host.Outcome State Fault Refusal :=
  performFab s none ((gangChk s).and (reportChk s td k.toNat)) fun s =>
    let s := reportStart s td k.toNat
    if (cc s).sends.isEmpty then
      post s (s.tick + 1) .reportLands { Ev.none with core := s.cur.core, id := s.nextId, tile := td, n := k.toNat }
    else updCur s fun c => { c with syncs := c.syncs ++ [(td, k.toNat, s.nextId)] }

/-- The eight words of FCTL.stat. -/
def statWords (c : Core) : List Word := [c.statLate, c.statReplay, c.statSched, c.statLast, 0, 0, 0, 0]

/-- FCTL.stat (R311): 64 bytes at the start of the chunk, and its bit, in c + 4. -/
def execFctlStat (k : BitVec 7) (td : BitVec 6) (s : State) : Host.Outcome State Fault Refusal :=
  performFab s none ((gangChk s).and (reportChk s td k.toNat)) fun s =>
    let a := tBase (ctlOf s td) + 512 * k.toNat
    post (reportStart s td k.toNat) (s.tick + 4) .reportLands
      { Ev.none with core := s.cur.core, id := s.nextId, tile := td, n := k.toNat, w := BitVec.ofNat 64 a,
                     bytes := (statWords (cc s)).flatMap fun w => bytesOf w.toNat 8 }

end Sys2Proof.Machine
end

