-- ==== Sys2Proof/Machine/Coolant.lean ====
section
/-! DEFINITION. The coolant zones (R510 to R523): samples, thresholds, clamps and trips, commands, filling, drain-down, the
allocation of flow and the zones' regulators. -/

namespace Sys2Proof.Machine

/-- Every zone. -/
def allZones : List Nat := List.range 80

/-- The compute and system cores over a zone (R510). -/
def zoneCores (z : Nat) : List Nat :=
  if z ≥ 64 then []
  else if z % 16 < 12 then (List.range 8).map fun i => 96 * (z / 16) + 8 * (z % 16) + i
  else (List.range 4).map fun i => 384 + 16 * (z / 16) + 4 * (z % 16 - 12) + i

/-- The ports over a link zone: a quarter of its link die (DESIGN CHOICE, see the log). -/
def zonePorts (z : Nat) : List Nat := if 64 ≤ z ∧ z < 72 then (List.range 18).map fun i => 18 * (z - 64) + i else []

/-- The thresholds that the latest sample of a zone crosses, by sensor code (R518, R519). -/
def crossings (x : Zone) : List Nat :=
  (if x.tout > x.tolim then [0] else []) ++ (if x.tj > x.tjlim then [1] else []) ++
    (if x.tout - x.tin > x.dtlim then [2] else []) ++
    (if x.flow < x.flolo ∧ (x.state = 2 ∨ x.state = 3) then [3] else [])

/-- The reading that a sensor code reports; where the manual names none, a free one. -/
def readingOf (s : State) (z : Nat) (x : Zone) (code : Nat) : Nat :=
  match code with
  | 0 => x.tout
  | 1 => x.tj
  | 2 => x.tout - x.tin
  | 3 => x.flow
  | 4 => x.tj
  | _ => (Config.word s.tick (128 * z + code)).toNat % 65536

/-- Cause 50 (R519): it sets its tst bit and is delivered where en is 1; none while the bit is set. -/
def raise50 (s : State) (z code reading : Nat) (g : Word) : State :=
  if (zoneOf s z).tst.getLsbD code then s
  else
    let s := updZone s z fun x => { x with tst := x.tst ||| BitVec.ofNat 8 (2 ^ code) }
    let c := s.ccore.toNat
    if s.ccore.getLsbD 6 then
      raiseAsync s (384 + 16 * (c / 16 % 4) + c % 16)
        { cause := 50, info0 := 50, info2 := BitVec.ofNat 64 (z + code * 256 + reading % 65536 * 65536), info3 := g }
    else s

/-- A sensor trap n cycles on. -/
def raiseLater (s : State) (n z code : Nat) : State :=
  post s (s.tick + n) .sensorSample
    { Ev.none with flag := true, n := z, slot := code, w := BitVec.ofNat 64 (readingOf s z (zoneOf s z) code), w2 := s.gcyc }

/-- A command or write that is rejected. -/
def coolErr (s : State) : State := { s with cerr := true }

/-- The cores over a zone lose their power before they were freed (R520, R521), and its ports fail. -/
def gateCores (s : State) (z : Nat) : State :=
  let s := (zoneCores z).foldl (fun s k =>
    let r := (coreOf s k).run
    if r = .free ∨ r = .machineChecked ∨ r = .stopped then s else machineStop s k 9 0) s
  (zonePorts z).foldl (fun s p => if (portOf s p).state = 2 then failPort s p else s) s

/-- The zone's power goes (R516); memory that loses it reads, once powered again, as memory that nothing has written. -/
def gatePower (s : State) (z : Nat) : State :=
  let s := gateCores (updZone s z fun x => { x with power := false }) z
  if z < 72 then s
  else { s with mem := s.mem.filter fun c => !(decide (memMapped c.1 = true) && decide (memZone c.1 = z)),
                uncorr := s.uncorr.filter fun a => decide (memZone a ≠ z) }

/-! ## Drain-down (R521) -/

/-- A step's limit; step 6 has none. -/
def stepLimit (k : Nat) (lk : Bool) : Option Nat :=
  match k with
  | 1 => some (if lk then 30000 else 300000)
  | 2 => some 15000
  | 3 => some 75000000
  | 4 => some 15000000
  | 5 => some 750000000
  | 7 => some 30000000
  | _ => none

/-- The step that a zone is in is over: the next one begins n cycles on. -/
def stepOver (s : State) (n z : Nat) : State :=
  let x := zoneOf s z
  post s (s.tick + n) .drainStepComplete { Ev.none with n := z, slot := x.dstep, id := x.stepTick }

/-- Whether step 1 has no core to wait for. -/
def parked (s : State) (z : Nat) : Bool := decide (zoneOwner z ≠ 1) && (zoneCores z).all fun k => decide ((coreOf s k).run = .free)

/-- stop.s with why 0xC0 on a compute core, as a write of stopreq sets it (R425). -/
def parkCoreOf (s : State) (k : Nat) : State :=
  post s s.tick .stopreq
    { Ev.none with core := 449, id := 0xFF0000003110 + coreDie k * 0x1000000, w := BitVec.ofNat 64 (coreNum k + 128 + 0xC0 * 256) }

/-- Step k begins: its action, and when it may complete or must have. A mechanical part answers after a free time. -/
def beginStep (s : State) (z k : Nat) : State :=
  let s := updZone s z fun x =>
    { x with state := 4, dstep := k, dflt := false, dcyc := s.gcyc.extractLsb' 0 48, stepTick := s.tick, lkStep := x.lk }
  let s := match k with
    | 1 => if zoneOwner z = 0 then ((zoneCores z).filter fun c => decide ((coreOf s c).run ≠ .free)).foldl parkCoreOf s else s
    | 2 => gatePower s z
    | _ => s
  let free := 1 + Config.delay s.tick (16 * z + k)
  let s := match k with
    | 1 => if parked s z then stepOver s 1 z else s
    | 5 => s
    | 6 => stepOver s 3000000001 z
    | _ => stepOver s free z
  match stepLimit k (zoneOf s z).lkStep with
  | some n => post s (s.tick + n + 1) .drainStepTimeout { Ev.none with n := z, slot := k, id := s.tick }
  | none => s

/-- Drain-down begins. -/
def startDrain (s : State) (z : Nat) (lk : Bool) : State :=
  beginStep (updZone s z fun x => { x with lk := lk, runTicks := 0, clamp := 0, crossRun := 0 }) z 1

/-- What a completed step leaves. -/
def endStep (s : State) (z k : Nat) : State :=
  updZone s z fun x =>
    match k with
    | 3 => { x with vpos := 0 }
    | 4 => { x with purge := true }
    | 7 => { x with outlet := false, purge := false }
    | _ => x

/-- The step after step k, or the end of drain-down: dry, with code 7. -/
def nextStep (s : State) (z k : Nat) : State :=
  let s := endStep s z k
  if k = 7 then raiseLater (updZone s z fun x => { x with state := 5, dstep := 8 }) 1 z 7 else beginStep s z (k + 1)

/-- DRAIN_STEP_COMPLETE (R521): a step completed in the cycle before; the next one begins. Step 1 is over once every core of the
zone is free. -/
def execDrainStepComplete (s : State) : Host.Outcome State Fault Refusal :=
  let z := s.ev.n
  let x := zoneOf s z
  if x.state ≠ 4 ∨ x.dflt = true then .next s
  else if x.dstep = 1 ∧ s.ev.slot ≤ 1 then .next (if parked s z then nextStep s z 1 else s)
  else if s.ev.slot = x.dstep ∧ s.ev.id = x.stepTick then .next (nextStep s z x.dstep)
  else .next s

/-- DRAIN_STEP_TIMEOUT (R521): step 1 ends by force; any other step is a fault, and the zone stays in draining. -/
def execDrainStepTimeout (s : State) : Host.Outcome State Fault Refusal :=
  let z := s.ev.n
  let x := zoneOf s z
  if x.state ≠ 4 ∨ x.dflt = true ∨ x.dstep ≠ s.ev.slot ∨ x.stepTick ≠ s.ev.id then .next s
  else if x.dstep = 1 then .next (nextStep (gateCores s z) z 1)
  else
    .next (raiseLater (updZone s z fun x =>
      { x with dflt := true, power := false, vpos := if x.dstep ≥ 3 then 0 else x.vpos }) 1 z 6)

/-! ## Samples (R511, R514, R518 to R520, R522) -/

/-- One sample of a zone: what the event brings, else free readings. -/
def sampleOf (s : State) (z : Nat) : ZoneSample :=
  match s.ev.samples[z]? with
  | some x => x
  | none =>
    let a := Config.word s.tick (1000 + 2 * z)
    let b := Config.word s.tick (1001 + 2 * z)
    { tin := a.extractLsb' 0 16, tout := a.extractLsb' 16 16, flow := a.extractLsb' 32 16, tj := a.extractLsb' 48 16,
      press := b.extractLsb' 0 16, leak := b.getLsbD 16 }

/-- tflow moves toward alloc by at most ramp (R514). -/
def rampFlow (x : Zone) : Nat :=
  let r := max 1 x.ramp
  if x.tflow < x.alloc then min x.alloc (x.tflow + r) else max x.alloc (x.tflow - r)

/-- A voltage that the regulators hold (R523). -/
def railOf (v : Nat) : Nat := min 550 (max 450 v)

/-- The readings, the flow controller and the runs of good samples. -/
def takeSample (s : State) (z : Nat) (m : ZoneSample) : State :=
  updZone s z fun x =>
    let x := { x with tin := m.tin.toNat, tout := m.tout.toNat, flow := m.flow.toNat, tj := m.tj.toNat, press := m.press.toNat,
                      leak := x.leak || m.leak, lk := x.lk || (decide (x.state = 4) && m.leak) }
    let good := if x.state = 1 then decide (x.flow ≥ x.minf) else decide (x.press < x.pdry) && decide (x.flow = 0)
    { x with tflow := rampFlow x,
             vpos := if 1 ≤ x.state ∧ x.state ≤ 3 then (Config.word s.tick (3000 + z)).extractLsb' 0 8 else x.vpos,
             runTicks := if good then x.runTicks + 1 else 0 }

/-- A filling zone whose flow has held for 1,000 samples becomes live; a dry channel ends step 5. -/
def sampleRuns (s : State) (z : Nat) : State :=
  let x := zoneOf s z
  if x.state = 1 ∧ x.runTicks ≥ 1000 then
    updZone s z fun x => { x with state := 2, power := true, volt := railOf x.vset.toNat, clamp := 0, crossRun := 0 }
  else if x.state = 4 ∧ x.dstep = 5 ∧ x.dflt = false ∧ x.runTicks ≥ 1000 then stepOver s 1 z
  else s

/-- Clamps (R518), and the trap of each crossing in the next cycle. -/
def sampleClamp (s : State) (z : Nat) : State :=
  let cs := crossings (zoneOf s z)
  let s := updZone s z fun x =>
    if x.state = 2 ∧ cs ≠ [] then { x with state := 3, clamp := 1, crossRun := 0 }
    else if x.state = 3 then
      if cs = [] then { x with crossRun := 0 }
      else if x.crossRun + 1 ≥ 64 then { x with crossRun := 0, clamp := min 3 (x.clamp + 1) }
      else { x with crossRun := x.crossRun + 1 }
    else x
  cs.foldl (fun s k => raiseLater s 1 z k) s

/-- A trip or a leak acts in the next cycle (R520, R522). -/
def sampleAlarm (s : State) (z : Nat) (m : ZoneSample) : State :=
  let x := zoneOf s z
  let s := if x.tj > x.tjcrit then
      post s (s.tick + 1) .sensorSample { Ev.none with flag := true, flag2 := true, n := z, slot := 4, w2 := s.gcyc }
    else s
  if m.leak && decide (x.state ≠ 4) && decide (x.state ≠ 5) then
    post s (s.tick + 1) .sensorSample { Ev.none with flag := true, flag2 := true, n := z, slot := 5, w2 := s.gcyc }
  else s

/-- The trip of a zone (R520): one that drains completes step 1 at once. -/
def tripZone (s : State) (z : Nat) : State :=
  let x := zoneOf s z
  if 1 ≤ x.state ∧ x.state ≤ 3 then raiseLater (gatePower (updZone s z fun x => { x with state := 0, clamp := 0 }) z) 1 z 4
  else if x.state = 4 ∧ x.dstep = 1 ∧ x.dflt = false then raiseLater (nextStep (gateCores s z) z 1) 1 z 4
  else s

/-- The drain that a leak starts (R522). -/
def leakZone (s : State) (z : Nat) : State :=
  let x := zoneOf s z
  if x.state = 5 then s
  else
    let s := if x.state = 4 then updZone s z fun x => { x with lk := true } else startDrain s z true
    raiseLater s 1 z 5

/-- SENSOR_SAMPLE (R511): every sensor of every zone; then (flag) the trap of a code, or (flag2) the trip or the drain that the
sample has called for. -/
def execSensorSample (s : State) : Host.Outcome State Fault Refusal :=
  let e := s.ev
  if e.flag then
    if e.flag2 then .next (if e.slot = 4 then tripZone s e.n else leakZone s e.n)
    else .next (raise50 s e.n e.slot e.w.toNat e.w2)
  else
    .next (allZones.foldl (fun s z =>
      let m := sampleOf s z
      sampleAlarm (sampleClamp (sampleRuns (takeSample s z m) z) z) z m) s)

/-! ## Commands (R513, R515, R516) -/

/-- The zone of a command; one above 79 sets cerr. -/
def command (s : State) (f : Nat → State) : Host.Outcome State Fault Refusal :=
  let z := s.ev.w.toNat % 128
  .next (if z > 79 then coolErr s else f z)

/-- ZONE_FILL (R515). -/
def execZoneFill (s : State) : Host.Outcome State Fault Refusal :=
  command s fun z =>
    let x := zoneOf s z
    if (x.state = 0 ∨ (x.state = 5 ∧ x.dstep = 8)) ∧ x.alloc ≥ x.minf ∧ x.minf > 0 then
      let s := updZone s z fun x =>
        { x with state := 1, outlet := true, dstep := 0, dflt := false, fromDry := decide (x.state = 5),
                 leak := if x.state = 5 then false else x.leak, lk := false, runTicks := 0, stepTick := s.tick }
      post s (s.tick + 3000000000) .fillTimeout { Ev.none with n := z, id := s.tick }
    else coolErr s

/-- FILL_TIMEOUT (R515): the inlet valve closes and the zone returns to where it was filled from, with code 6. -/
def execFillTimeout (s : State) : Host.Outcome State Fault Refusal :=
  let z := s.ev.n
  let x := zoneOf s z
  if x.state = 1 ∧ x.stepTick = s.ev.id then
    .next (raiseLater (updZone s z fun x =>
      { x with dflt := true, vpos := 0, state := if x.fromDry then 5 else 0, dstep := if x.fromDry then 8 else 0 }) 1 z 6)
  else .next s

/-- ZONE_DRAIN (R515): from draining with dflt set, drain-down resumes at the step that faulted. -/
def execZoneDrain (s : State) : Host.Outcome State Fault Refusal :=
  command s fun z =>
    let x := zoneOf s z
    if x.state ≤ 3 then startDrain s z false
    else if x.state = 4 ∧ x.dflt = true then beginStep s z x.dstep
    else coolErr s

/-- ZONE_OFF (R515, R516): its power is gated; a core still there loses it as in a trip (see the log). -/
def execZoneOff (s : State) : Host.Outcome State Fault Refusal :=
  command s fun z =>
    let x := zoneOf s z
    if (x.state = 2 ∨ x.state = 3) ∧ x.granted = 0 then gatePower (updZone s z fun x => { x with state := 0, clamp := 0 }) z
    else coolErr s

/-- ZONE_CLEAR (R515): limited to live where the latest sample crosses nothing. -/
def execZoneClear (s : State) : Host.Outcome State Fault Refusal :=
  command s fun z =>
    let x := zoneOf s z
    if x.state = 3 ∧ crossings x = [] then updZone s z fun x => { x with state := 2, clamp := 0, crossRun := 0 } else coolErr s

/-! ## Allocation (R512, R514) -/

/-- The zone of a sluice-table address. -/
def sluiceZone (a : Nat) : Nat := (a - 0xFF0400010000) / 64

/-- The sum of alloc over all zones but one. -/
def allocOthers (s : State) (z : Nat) : Nat := (allZones.filter fun y => decide (y ≠ z)).foldl (fun a y => a + (zoneOf s y).alloc) 0

/-- ALLOC_WRITE (R514). -/
def execAllocWrite (s : State) : Host.Outcome State Fault Refusal :=
  let z := sluiceZone s.ev.id
  let x := zoneOf s z
  let v := s.ev.w.toNat / 2 ^ 48
  if v < x.granted ∨ (1 ≤ x.state ∧ x.state ≤ 3 ∧ v < x.minf) ∨ allocOthers s z + v > 16000 then .next (coolErr s)
  else .next (updZone s z fun x => { x with alloc := v })

/-- MINF_WRITE (R514). -/
def execMinfWrite (s : State) : Host.Outcome State Fault Refusal :=
  let z := sluiceZone s.ev.id
  let x := zoneOf s z
  let v := s.ev.w.toNat / 2 ^ 32 % 65536
  if 1 ≤ x.state ∧ x.state ≤ 3 ∧ v > x.alloc then .next (coolErr s) else .next (updZone s z fun x => { x with minf := v })

/-! ## Rails (R523) -/

/-- A voltage moves by at most 5 mV. -/
def moveRail (v goal : Nat) : Nat := if v < goal then min goal (v + 5) else max goal (v - 5)

/-- REGULATOR_STEP (R523): every powered zone of owner 0 or 1. -/
def execRegulatorStep (s : State) : Host.Outcome State Fault Refusal :=
  .next ((allZones.filter fun z => decide (zoneOwner z ≤ 1) && (zoneOf s z).power).foldl (fun s z =>
    updZone s z fun x => { x with volt := moveRail x.volt (railOf x.vset.toNat) }) s)

/-- RAIL_FAULT (R523, R525): a rail out of tolerance for more than 1,500 cycles stops the package. -/
def execRailFault (s : State) : Host.Outcome State Fault Refusal := .next (packageStop s)

end Sys2Proof.Machine
end

