-- ==== Sys2Proof/Machine/Security.lean ====
section
/-! DEFINITION. The crypto engine (R526 to R528, R572, R573, R575), the measurement registers (R529 to R532), and the fuses and
lifecycle (R533, R543). -/

namespace Sys2Proof.Machine

/-- Changes the security state. -/
def updSec (s : State) (f : Secure → Secure) : State := { s with secure := f s.secure }

/-! ## Operands (R526, R527, R572) -/

/-- Whether n bytes from an address map memory of the package, the root scratchpad's window included. -/
def operandOk (a n : Nat) : Bool :=
  decide (n = 0) || (memMapped a && memMapped (a + n - 1) && decide (a / 2 ^ 39 = (a + n - 1) / 2 ^ 39)) ||
    (decide (0xFF0400100000 ≤ a) && decide (a + n ≤ 0xFF0400200000))

/-- n bytes of an operand; what memory cannot be read gives is free. -/
def operandBytes (s : State) (a n : Nat) : List Byte :=
  if 0xFF0400100000 ≤ a then memBytes (coreOf s 448).arch.scratch (a - 0xFF0400100000) n
  else if n = 0 ∨ memReadable s a n then memBytes s.mem a n
  else (List.range n).map fun i => (Config.word s.tick (a + i)).extractLsb' 0 8

/-- Memory as the engine reads it: object lines over it are written back first (R370). -/
def operandSettle (s : State) (a n : Nat) : State := if 0xFF0400100000 ≤ a then s else flushPhys s (a / 2 ^ 40) a n

/-- A list cut or filled to n bytes. -/
def fitBytes (n : Nat) (l : List Byte) : List Byte := (l ++ List.replicate n 0).take n

/-- The bytes of a digest register, first byte first. -/
def digestBytes (v : BitVec 384) : List Byte := beBytes v.toNat 48

/-- A digest as a register keeps it. -/
def digestOf (l : List Byte) : BitVec 384 := BitVec.ofNat 384 (natOfBytes l.reverse)

/-- Extends a measurement register (R530). -/
def extendReg (s : State) (i : Nat) (d : List Byte) : State :=
  updSec s fun x =>
    { x with meas := tblSet (0 : BitVec 384) x.meas i (digestOf (sha384 (digestBytes (tblGet (0 : BitVec 384) x.meas i) ++ d))) }

/-- Entropy bytes. -/
def entropyBytes (s : State) (n : Nat) : List Byte := (List.range n).map (Config.entropy s.tick)

/-! ## Commands (R526, R527) -/

/-- src. -/
def cSrc (s : State) : Nat := s.secure.src.toNat % 2 ^ 48
/-- len. -/
def cLen (s : State) : Nat := s.secure.len.toNat % 2 ^ 32
/-- pk. -/
def cPk (s : State) : Nat := s.secure.pk.toNat % 2 ^ 48
/-- sig. -/
def cSig (s : State) : Nat := s.secure.sig.toNat % 2 ^ 48
/-- dst. -/
def cDst (s : State) : Nat := s.secure.dst.toNat % 2 ^ 48
/-- sel. -/
def cSel (s : State) : Nat := s.ev.w.toNat / 256 % 256

/-- The address of dnonce (R575). -/
def dnonceAt : Nat := 0xFF0400022110

/-- A command runs: busy until it completes, with its result, its destination, and for an extend (flag) its register in n. The
engine's other registers are sampled now. -/
def cryptoRun (s : State) (res : Nat) (out : List Byte) (ext : Option Nat) : State :=
  post (updSec s fun x => { x with busy := true }) (later s 1 0x40) .cryptoCommandComplete
    { Ev.none with code := BitVec.ofNat 16 res, id := cDst s, bytes := out, flag := ext.isSome, n := ext.getD 0 }

/-- Starts a command, unless one runs (R526). -/
def cryptoStart (s : State) (f : State → State) : Host.Outcome State Fault Refusal := .next (if s.secure.busy then s else f s)

/-- A command on a message of len bytes at src. -/
def onMessage (s : State) (f : State → List Byte → State) : State :=
  if operandOk (cSrc s) (cLen s) then
    let s := operandSettle s (cSrc s) (cLen s)
    f s (operandBytes s (cSrc s) (cLen s))
  else cryptoRun s 2 [] none

/-- A result of n bytes at dst. -/
def withDst (s : State) (out : List Byte) : State := if operandOk (cDst s) out.length then cryptoRun s 0 out none else cryptoRun s 2 [] none

/-- SHA_384 (R527). -/
def execSha384 (s : State) : Host.Outcome State Fault Refusal := cryptoStart s fun s => onMessage s fun s m => withDst s (sha384 m)

/-- A verification: key and signature of given lengths. -/
def verifyWith (s : State) (nk ns : Nat) (f : List Byte → List Byte → List Byte → Bool) : State :=
  onMessage s fun s m =>
    if operandOk (cPk s) nk && operandOk (cSig s) ns then
      let s := operandSettle (operandSettle s (cPk s) nk) (cSig s) ns
      cryptoRun s (if f m (operandBytes s (cPk s) nk) (operandBytes s (cSig s) ns) then 0 else 1) [] none
    else cryptoRun s 2 [] none

/-- ED25519_VERIFY (R527). -/
def execEd25519Verify (s : State) : Host.Outcome State Fault Refusal := cryptoStart s fun s => verifyWith s 32 64 Config.ed25519Verify

/-- ML_DSA_65_VERIFY (R527). -/
def execMlDsa65Verify (s : State) : Host.Outcome State Fault Refusal := cryptoStart s fun s => verifyWith s 1952 3309 Config.mlDsa65Verify

/-- Lifecycle state returned denies the device keys. -/
def keysDenied (s : State) : Bool := decide (s.secure.lc = 4)

/-- SIGN_WITH_DEVICE_KEY (R527). -/
def execSignWithDeviceKey (s : State) : Host.Outcome State Fault Refusal :=
  cryptoStart s fun s =>
    if keysDenied s then cryptoRun s 3 [] none
    else if cSel s > 1 then cryptoRun s 2 [] none
    else
      onMessage s fun s m =>
        withDst s (if cSel s = 0 then fitBytes 64 (Config.ed25519Sign s.secure.seedEd m)
          else fitBytes 3309 (Config.mlDsa65Sign s.secure.seedMl (entropyBytes s 32) m))

/-- DEVICE_PUBLIC_KEY (R527). -/
def execDevicePublicKey (s : State) : Host.Outcome State Fault Refusal :=
  cryptoStart s fun s =>
    if keysDenied s then cryptoRun s 3 [] none
    else if cSel s > 1 then cryptoRun s 2 [] none
    else withDst s (if cSel s = 0 then fitBytes 32 (Config.ed25519Public s.secure.seedEd)
      else fitBytes 1952 (Config.mlDsa65Public s.secure.seedMl))

/-- EXTEND_MEASUREMENT_REGISTER (R530). -/
def execExtendMeasurementRegister (s : State) : Host.Outcome State Fault Refusal :=
  cryptoStart s fun s =>
    if cLen s ≠ 48 ∨ cSel s > 15 then cryptoRun s 2 [] none
    else onMessage s fun s m => cryptoRun s 0 m (some (cSel s))

/-- RANDOM_BYTES (R527, R575). -/
def execRandomBytes (s : State) : Host.Outcome State Fault Refusal :=
  cryptoStart s fun s =>
    if cLen s = 0 ∨ cLen s > 4096 then cryptoRun s 2 [] none
    else if cDst s = dnonceAt then cryptoRun s 0 (entropyBytes s (cLen s)) none
    else withDst s (entropyBytes s (cLen s))

/-- The result of a command at its destination: dnonce takes only the first (R575). -/
def cryptoPut (s : State) (dst : Nat) (out : List Byte) : State :=
  if out.isEmpty then s
  else if dst = dnonceAt then
    if s.secure.dnonceSet then s
    else updSec s fun x => { x with dnonceSet := true, dnonce := BitVec.ofNat 256 (natOfBytes (out.take 32)) }
  else physStore s 449 3 dst out

/-- CRYPTO_COMMAND_COMPLETE (R526, R530, R573): the result performs, busy clears, res and seq follow. -/
def execCryptoCommandComplete (s : State) : Host.Outcome State Fault Refusal :=
  let e := s.ev
  let locked := e.flag && decide (e.n < 4) && s.secure.mlock.getLsbD e.n
  let res := if locked then 3 else e.code.toNat
  let s := if e.flag && !locked then extendReg s e.n e.bytes
    else if e.flag || decide (res ≠ 0) then s
    else cryptoPut s e.id e.bytes
  .next (updSec s fun x => { x with busy := false, res := BitVec.ofNat 3 res, seq := x.seq + 1 })

/-! ## The measurement block's own unit (R531) -/

/-- KEXT (R531): a write while busy is ignored; else the extend starts with the digest at dpa. -/
def execKext (s : State) : Host.Outcome State Fault Refusal :=
  if s.secure.kbusy then .next s
  else
    let a := s.ev.w.toNat % 2 ^ 48 / 64 * 64
    let ok := operandOk a 48
    let s := if ok then operandSettle s a 48 else s
    .next (post (updSec s fun x => { x with kbusy := true }) (later s 1 0x41) .kextComplete
      { Ev.none with n := s.ev.w.toNat % 16, flag := ok, bytes := if ok then operandBytes s a 48 else [] })

/-- KEXT_COMPLETE (R531). -/
def execKextComplete (s : State) : Host.Outcome State Fault Refusal :=
  let e := s.ev
  let denied := decide (e.n = 0 ∨ e.n = 1 ∨ e.n = 2 ∨ e.n = 4) || (decide (e.n = 3) && s.secure.mlock.getLsbD 3)
  let res := if denied then 3 else if e.flag then 0 else 2
  let s := if res = 0 then extendReg s e.n e.bytes else s
  .next (updSec s fun x => { x with kbusy := false, kres := BitVec.ofNat 3 res, kcnt := x.kcnt + 1 })

/-- MLOCK_WRITE (R530). -/
def execMlockWrite (s : State) : Host.Outcome State Fault Refusal :=
  .next (updSec s fun x => { x with mlock := x.mlock ||| s.ev.w.extractLsb' 0 4 })

/-! ## Fuses and lifecycle (R533, R543) -/

/-- LCADV (R533): the fuse is blown to a higher value at the next reset. -/
def execLcadv (s : State) : Host.Outcome State Fault Refusal :=
  let v : BitVec 3 := s.ev.w.extractLsb' 0 3
  .next (if v.toNat > s.secure.lc.toNat then updSec s fun x => { x with lcNext := v } else s)

/-- SVNADV (R533). -/
def execSvnadv (s : State) : Host.Outcome State Fault Refusal := .next (updSec s fun x => { x with thermo := x.thermo ||| s.ev.w })

/-- LCS_WRITE (R543): only a write of 3 with lc 1 or 2 takes effect. -/
def execLcsWrite (s : State) : Host.Outcome State Fault Refusal :=
  .next (if s.ev.w.extractLsb' 0 3 = 3#3 ∧ (s.secure.lc = 1 ∨ s.secure.lc = 2) then updSec s fun x => { x with lcs := 3 } else s)

/-- DBGEN_WRITE (R543). -/
def execDbgenWrite (s : State) : Host.Outcome State Fault Refusal :=
  let x := s.secure
  let may := s.keys.isEmpty && decide (tblGet (0 : BitVec 384) x.meas 4 ≠ 0) && decide (x.lcs = 3 ∨ x.lc = 0 ∨ x.lc = 4)
  .next (if s.ev.w.getLsbD 0 then (if may then updSec s fun x => { x with dbgen := true } else s)
    else updSec s fun x => { x with dbgen := false })

end Sys2Proof.Machine
end

