-- ==== Sys2Proof/Machine/Package.lean ====
section
/-! DEFINITION. Reset and bring-up (R532, R534 to R537, R571, R71), and the host link (R538, R574). What the host does comes as an
event of its own. -/

namespace Sys2Proof.Machine

/-- Changes the host port. -/
def updHost (s : State) (f : HostPort → HostPort) : State := { s with host := f s.host }

/-! ## Boot images (R534, R535) -/

/-- A number of n bytes at an offset of an image. -/
def imgNum (m : Mem) (a o n : Nat) : Nat := memRead m (a + o) n

/-- The header's first 128 bytes. -/
def imgHead (m : Mem) (a : Nat) : List Byte := memBytes m a 128

/-- blen. -/
def imgBlen (m : Mem) (a : Nat) : Nat := imgNum m a 0x010 8

/-- The tests of R535 on the image at an address, for a stage and a target. -/
def imageOk (x : Secure) (m : Mem) (a stage target : Nat) : Bool :=
  let h := imgHead m a
  let ed := memBytes m (a + 0x080) 32
  let ml := memBytes m (a + 0x0E0) 1952
  let n := imgBlen m a
  decide (imgNum m a 0 4 = 0x4E5A4249) && decide (imgNum m a 4 2 = 1) && decide (imgNum m a 6 1 = stage) &&
    decide (imgNum m a 7 1 = target) && decide (1 ≤ n) && decide (n ≤ 2 ^ 30) &&
    decide (digestOf (sha384 ed) = x.bked) && decide (digestOf (sha384 ml) = x.bkml) &&
    Config.ed25519Verify h ed (memBytes m (a + 0x0A0) 64) && Config.mlDsa65Verify h ml (memBytes m (a + 0x880) 3309) &&
    decide (popc x.thermo 64 ≤ imgNum m a 8 8) &&
    decide (sha384 (memBytes m (a + 0x2000) n) = memBytes m (a + 0x030) 48)

/-- The dictionary of a body: byte offset and entries. -/
def bodyDict (m : Mem) (a : Nat) : Nat × List Bundle :=
  let o := imgNum m a 0x2000 8
  let n := imgNum m a 0x2008 8
  (o, bundles (memBytes m (a + 0x2000 + o) (48 * n)) n)

/-- Whether a body's dictionary can be installed on a core: 1 to 4,096 entries that all pass R72, in the body. -/
def bodyOk (k : Nat) (m : Mem) (a : Nat) : Bool :=
  let n := imgNum m a 0x2008 8
  let o := imgNum m a 0x2000 8
  decide (1 ≤ n) && decide (n ≤ 4096) && decide (16 ≤ o) && decide (o + 48 * n ≤ imgBlen m a) &&
    (bodyDict m a).2.all fun b => decide (validate k b = none)

/-- The dictionary as entries 0 to n − 1. -/
def dictTable (l : List Bundle) : Tbl Bundle := l.zipIdx.map fun b => (b.2, b.1)

/-- A scalar-profile core that begins a code stream at a physical address, of n halfwords, at an entry offset; it runs protected (R24). -/
def startAt (s : State) (k : Nat) (dict : Tbl Bundle) (pa n entry : Nat) (ie : Bool) (ktvb : Word) (scratch : Mem) : State :=
  setCore s k
    { Core.reset with
      run := .running, mode := true, ie := ie, ktvb := ktvb, dict := dict, phys := [(pa, n)], issueFrom := s.tick + 2, born := s.nextId,
      arch := { Arch.reset with
        scratch := scratch,
        pri := { Strm.reset with live := true, pcbase := entry, segbase := entry, next := entry, hold := .until (s.tick + 1) } } }

/-! ## Reset (R528, R533, R536) -/

/-- A device key seed (R528). -/
def keySeed (x : Secure) (label : String) : List Byte :=
  hkdf384 (bytesOf x.devid.toNat 16) (bytesOf x.uds.toNat 32) (label.toList.map fun c => BitVec.ofNat 8 c.toNat) 32

/-- The fuses as a reset reads them: lc has been blown forward; the keys are derived. -/
def fused (x : Secure) : Secure :=
  let lc := if x.lcNext.toNat > x.lc.toNat then x.lcNext else x.lc
  { Secure.reset with
    devid := x.devid, lc := lc, lcs := lc, lcNext := lc, thermo := x.thermo, uds := x.uds, bked := x.bked, bkml := x.bkml,
    dked := x.dked, dkml := x.dkml, seedEd := keySeed x "NZ960 ed25519", seedMl := keySeed x "NZ960 mldsa65" }

/-- The package right after the release of its reset pin: every register at its reset value, the fuses and the boot flash as they
were. bstat is 1. -/
def resetAll (s : State) : State :=
  { State.reset with
    tick := s.tick, pkg := s.pkg, flash := s.flash, token := s.token, nextId := s.nextId, secure := fused s.secure,
    host := { HostPort.reset with bstat := 1 } }

/-- Where the ROM's vector table stands: an address that maps nothing, so that every trap before the kernel sets ktvb stops the
package as its handlers do (R571). -/
def romVectors : Word := 0xFFFFFFFFFE00#64

/-- The transfer to an accepted first-stage image (R571): its bytes from scratchpad offset 0, its dictionary, its entry. -/
def enterStage (s : State) (a : Nat) : State :=
  let n := 0x2000 + imgBlen s.flash a
  let b := bodyDict s.flash a
  startAt s 448 (dictTable b.2) 0xFF0400102010 ((b.1 - 16) / 2) (imgNum s.flash a 0x018 4) false romVectors
    (memWrite [] 0 (memBytes s.flash a n))

/-- Whether the first-stage image at a flash offset passes the check of step 3. -/
def firstOk (s : State) (a : Nat) : Bool :=
  imageOk s.secure s.flash a 1 3 && decide (imgBlen s.flash a ≤ 0xFE000) && bodyOk 448 s.flash a

/-- The next step of the ROM, a free time later. -/
def romNext (s : State) (step a : Nat) : State := post s (later s 1 (0x50 + step)) .packageReset { Ev.none with slot := step, n := a }

/-- PACKAGE_RESET (R536): step 1, and the ROM's steps 2 to 4 and the entry of step 5,
each by its number in slot. -/
def execPackageReset (s : State) : Host.Outcome State Fault Refusal :=
  let e := s.ev
  match e.slot with
  | 2 =>
    let x := s.secure
    let d := sha384 (bytesOf x.devid.toNat 16 ++ bytesOf x.lc.toNat 1 ++ bytesOf x.thermo.toNat 8 ++ List.replicate 7 0)
    .next (romNext (updHost (extendReg s 0 d) fun h => { h with bstat := 2 }) 3 0)
  | 3 =>
    let s := updHost s fun h => { h with bstat := 3 }
    .next (if firstOk s e.n then romNext s 4 e.n
      else if e.n = 0 then romNext s 3 0x2000000
      else updHost s fun h => { h with bstat := 0xE })
  | 4 =>
    let s := extendReg (updHost s fun h => { h with bstat := 4 }) 1 (sha384 (imgHead s.flash e.n))
    .next (romNext (updSec s fun x => { x with mlock := 3 }) 5 e.n)
  | 5 => .next (enterStage (updHost s fun h => { h with bstat := 5 }) e.n)
  | _ => .next (romNext (resetAll s) 2 0)

/-- RSTREQ (R538): a write of 1 resets the package. -/
def execRstreq (s : State) : Host.Outcome State Fault Refusal :=
  .next (if s.ev.w.getLsbD 0 then romNext (resetAll s) 2 0 else s)

/-- The report of a kernel image whose dictionary fails R72 (R71, R73). -/
def bodyReport (m : Mem) (a : Nat) : Option LoadReport :=
  (bodyDict m a).2.zipIdx.findSome? fun x =>
    (validate 384 x.1).map fun v => { core := 384, table := 0, entry := x.2, slot := v.2, check := v.1 }

/-- SYSTEM_CORE_START (R71, R536): in step 5, once, from a kernel image at a physical address that R535 accepts for the system cores; a
dictionary entry that fails leaves every system core unstarted. -/
def execSystemCoreStart (s : State) : Host.Outcome State Fault Refusal :=
  let a := s.ev.w.toNat % 2 ^ 48
  if s.host.bstat ≠ 5 ∨ !(imageOk s.secure s.mem a 2 1) then .next s
  else if !(bodyOk 384 s.mem a) then .next (putReport s 0 (bodyReport s.mem a))
  else
    let b := bodyDict s.mem a
    let d := dictTable b.2
    let s := (List.range 64).foldl (fun s i =>
      startAt s (384 + i) d (a + 0x2010) ((b.1 - 16) / 2) (imgNum s.mem a 0x018 4) true 0 []) s
    .next (updHost s fun h => { h with bstat := 6 })

/-- GARM_WRITE (R537). -/
def execGarmWrite (s : State) : Host.Outcome State Fault Refusal := .next (updHost s fun h => { h with garm := true })

/-- GSYNC_EDGE (R537): the first rising edge after arming. -/
def execGsyncEdge (s : State) : Host.Outcome State Fault Refusal :=
  .next (if s.host.garm then updHost { s with gcyc := 0 } fun h => { h with garm := false } else s)

/-! ## Rings and windows (R538) -/

/-- HPROD_WRITE (R538): not backward, and not past the 256 messages that the ring holds. -/
def execHprodWrite (s : State) : Host.Outcome State Fault Refusal :=
  let v := s.ev.w.toNat
  .next (if s.host.hprod.toNat ≤ v ∧ v ≤ s.host.hcons.toNat + 256 then updHost s fun h => { h with hprod := s.ev.w } else s)

/-- DCONS_WRITE (R538): not backward, and not past dprod. -/
def execDconsWrite (s : State) : Host.Outcome State Fault Refusal :=
  let v := s.ev.w.toNat
  .next (if s.host.dcons.toNat ≤ v ∧ v ≤ s.host.dprod.toNat then updHost s fun h => { h with dcons := s.ev.w } else s)

/-- The physical address of a byte of the bulk window, where its page is valid. -/
def bulkAt (s : State) (a : Nat) : Option Nat :=
  let w := tblGet (0 : Word) s.host.bmap (a / 2 ^ 26)
  if w.getLsbD 0 then some (w.toNat % 2 ^ 48 / 2 ^ 26 * 2 ^ 26 + a % 2 ^ 26) else none

/-- BULK_ACCESS (R538): at a byte of the window, a write of bytes (flag) or a read of n bytes; through an invalid page, or where
nothing is mapped, a write is dropped and counted and a read gives ones. -/
def execBulkAccess (s : State) : Host.Outcome State Fault Refusal :=
  let e := s.ev
  match (bulkAt s (e.id % 2 ^ 36)).filter mapped with
  | some a =>
    if e.flag then .next (physStore s 449 3 a e.bytes)
    else
      let x := physLoad s 3 a e.n
      .next (updHost x.1 fun h => { h with readOut := x.2 })
  | none =>
    if e.flag then .next (updHost s fun h => { h with berr := h.berr + 1 })
    else .next (updHost s fun h => { h with readOut := List.replicate e.n 0xFF })

/-! ## SPDM exchange (R574) -/

/-- A request is placed. -/
def placeRequest (s : State) (tp : Bool) (bs : List Byte) : State :=
  updHost s fun h => { h with rqseq := h.rqseq + 1, tp := tp, rqlen := bs.length, rqbuf := memWrite [] 0 bs }

/-- SPDM_REQUEST (R574): at most one is held; later ones wait in their transport. -/
def execSpdmRequest (s : State) : Host.Outcome State Fault Refusal :=
  let bs := s.ev.bytes.take 8191
  if bs.isEmpty then .next s
  else if s.host.rqlen = 0 then .next (placeRequest s s.ev.flag bs)
  else .next (updHost s fun h => { h with waiting := h.waiting ++ [(s.ev.flag, bs)] })

/-- The next request that waits is placed. -/
def nextRequest (s : State) : State :=
  match s.host.waiting with
  | [] => s
  | x :: r => placeRequest (updHost s fun h => { h with waiting := r }) x.1 x.2

/-- RSPLEN_WRITE (R574): the response goes out on the request's transport, and the request is freed. -/
def execRsplenWrite (s : State) : Host.Outcome State Fault Refusal :=
  let n := s.ev.w.toNat % 8192
  if s.host.rqlen = 0 then .next s
  else
    let s := updHost s fun h => { h with rqlen := 0, rqbuf := [] }
    let s := if n = 0 then s
      else updHost s fun h => { h with sent := h.sent ++ [(h.tp, memBytes h.rspbuf 0 n)], rspseq := h.rspseq + 1 }
    .next (nextRequest s)

end Sys2Proof.Machine
end

