-- ==== Sys2Proof/Machine/RegWrite.lean ====
section
/-! DEFINITION. The write of a plain device register (R9): each field marked RW takes the value, W1C fields clear the bits
written 1, RO and reserved fields keep what they hold. -/

namespace Sys2Proof.Machine

/-- The fault queue (R343, R344): a write of any of its registers may let posting resume. -/
def writeFaultQ (s : State) (d o : Nat) (v : Word) : State :=
  let s := updDie s d fun y =>
    match o with
    | 0x00 => { y with fqbase := v }
    | 0x08 => { y with fqctl := v }
    | 0x18 => if y.fqcons.toNat ≤ v.toNat ∧ v.toNat ≤ y.fqprod.toNat then { y with fqcons := v } else y
    | _ => y
  if (dieOf s d).recs.isEmpty then s else post s (later s 1 d) .faultRecordPost { Ev.none with die := d }

/-- The object manager (R402): mobj, mext and mdst ignore writes while a move runs. -/
def writeObjMgr (y : Die) (o : Nat) (v : Word) : Die :=
  if y.mstat.getLsbD 63 ∧ o ≤ 0x10 then y
  else
    match o with
    | 0x00 => { y with mobj := v }
    | 0x08 => { y with mext := v }
    | 0x10 => { y with mdst := v }
    | 0x28 => { y with motb := v }
    | 0x30 => { y with msstk := v }
    | 0x48 => { y with mpstk := v }
    | 0x60 => { y with mpidx := v }
    | 0x68 => { y with mdidx := v }
    | _ => y

/-- The command stream (R415). -/
def writeCmdStream (y : Die) (o : Nat) (v : Word) : Die :=
  if o < 0x100 ∧ o % 0x20 = 0 then { y with csbase := tblSet (0 : Word) y.csbase (o / 0x20) v }
  else if o = 0x120 then { y with kdpa := v }
  else if o = 0x128 then { y with kdn := v }
  else y

/-- The jack registers (R506). -/
def writeJack (s : State) (o : Nat) (v : Word) : State :=
  if o = 8 then { s with jearm := v.getLsbD 2, jdone := s.jdone && !(v.getLsbD 1) } else s

/-- An entry of the sluice table (R512), but for alloc and minf, which rows of their own write. -/
def writeZone (z o : Nat) (v : Word) (x : Zone) : Zone :=
  let f (k : Nat) : Nat := v.toNat / 2 ^ (16 * k) % 65536
  match o with
  | 0x08 => { x with ramp := f 1 }
  | 0x10 => { x with tolim := f 3, tjlim := f 2, tjcrit := f 1, dtlim := f 0 }
  | 0x18 => { x with flolo := f 3, pdry := f 2 }
  | 0x30 => { x with tst := x.tst &&& ~~~(BitVec.ofNat 8 v.toNat) }
  | 0x38 => if zoneOwner z ≤ 1 then { x with vset := BitVec.ofNat 16 v.toNat } else x
  | _ => x

/-- The coolant controller (R513): a command of no listed kind is ignored and sets cerr (R515). -/
def writeCoolCtl (s : State) (o : Nat) (v : Word) : State :=
  if 0x200 ≤ o then { s with ctab := tblSet (0 : Word) s.ctab ((o - 0x200) / 8) v }
  else
    match o with
    | 0x08 => { s with ccore := BitVec.ofNat 64 (v.toNat % 128) }
    | 0x10 => { s with cerr := true }
    | 0x18 => if v.getLsbD 0 then { s with cerr := false } else s
    | _ => s

/-- The crypto engine's operands (R526); an operation that no row names ends in an operand error (R527). -/
def writeCrypto (s : State) (o : Nat) (v : Word) : State :=
  let lo (n : Nat) : Word := BitVec.ofNat 64 (v.toNat % 2 ^ n)
  match o with
  | 0x00 => updSec s fun x => { x with src := lo 48 }
  | 0x08 => updSec s fun x => { x with len := lo 32 }
  | 0x10 => updSec s fun x => { x with pk := lo 48 }
  | 0x18 => updSec s fun x => { x with sig := lo 48 }
  | 0x20 => updSec s fun x => { x with dst := lo 48 }
  | 0x28 => if s.secure.busy then s else cryptoRun s 2 [] none
  | _ => s

/-- The host port (R538, R574): the device side writes the ring numbers that the serving core advances. -/
def writeHost (h : HostPort) (o : Nat) (v : Word) : HostPort :=
  if 0x1000 ≤ o ∧ o < 0x3000 then { h with bmap := tblSet (0 : Word) h.bmap ((o - 0x1000) / 8) v }
  else if 0x6000 ≤ o then { h with rspbuf := memWrite h.rspbuf (o - 0x6000) (bytesOf v.toNat 8) }
  else
    match o with
    | 0x08 => { h with hbase := v }
    | 0x18 => { h with hcons := v }
    | 0x20 => { h with dbase := v }
    | 0x28 => { h with dprod := v }
    | _ => h

/-- A 64-bit write at an aligned offset of a block. -/
def writeReg (s : State) (b : Block) (o : Nat) (v : Word) : State :=
  match b with
  | .faultQ d => writeFaultQ s d o v
  | .objMgr d => updDie s d fun y => writeObjMgr y o v
  | .cmdStream d => updDie s d fun y => writeCmdStream y o v
  | .eto => if o = 0 then { s with eto := BitVec.ofNat 32 v.toNat } else s
  | .jack => writeJack s o v
  | .sluice => updZone s (o / 64) (writeZone (o / 64) (o % 64) v)
  | .coolCtl => writeCoolCtl s o v
  | .crypto => writeCrypto s o v
  | .hostCtl => updHost s fun h => writeHost h o v
  | .snapshot _ => s
  | .errLog _ => s
  | .port _ => s
  | .portMap => s
  | .portSnap => s
  | .meas => s
  | .fuses => s
  | .rootScratch => s
  | .frame => s

/-- REGISTER_WRITE (R9): the event's id is the address, its word the value. -/
def execRegisterWrite (s : State) : Host.Outcome State Fault Refusal :=
  match blockAt s.ev.id with
  | some (b, o) => .next (writeReg s b o s.ev.w)
  | none => .next s

end Sys2Proof.Machine
end

