-- ==== Sys2Proof/Machine/Waits.lean ====
section
/-! DEFINITION. The wait condition of each slot instruction (R92, R93), for the state at the start of a cycle: the very checks that
its meaning makes. -/

namespace Sys2Proof.Machine

/-- What an instruction of a slot finds at issue, as far as it can wait; one that never waits is answered ok. -/
def chkOf (i : Instr) (s : State) : Chk :=
  match i with
  | .hbind _ _ _ => waitIf (reloading s)
  | .hqry q _ ha => chkHqry q (readH s ha) s
  | .vld o => chkVld o s
  | .xexp ta nb codec => chkXexp ta nb codec s
  | .xtrn td ta => chkXtrn td ta s
  | .xcvt td ta dst r => chkXcvt td ta dst r s
  | .xpack td ta dst r => chkXpack td ta dst r s
  | .ldt st fl o => chkLdt st fl o s
  | .ldts st fl o => chkLdts st fl o s
  | .stt o => chkStt o s
  | .chkpT td sx sy => chkChkpT td sx sy s
  | .chkpQ td sx sy off8 => chkChkpQ td sx sy off8 s
  | .pft o => chkPft o s
  | .tmovIn td sx sy gg => chkTmovIn td sx sy gg s
  | .tmovOut td sx sy gg => chkTmovOut td sx sy gg s
  | .amo op w64 nr hh sx sy tile word => chkAmo op w64 nr hh sx sy tile word s
  | .relv sc hh sy => chkRelv sc hh sy s
  | .acqv sc hh sy tile k => chkAcqv sc hh sy tile k s
  | .bari hh sx sy n => chkBari hh sx sy n s
  | .bara b p hh sx sy => chkBara b p hh sx sy s
  | .xcopy td => chkJob 1 td s
  | .xchain td => chkJob 5 td s
  | .xgath td => chkJob 2 td s
  | .xcoll td => chkJob 3 td s
  | .gstep td => chkJob 4 td s
  | .qput sx sy q => chkQput sx sy q s
  | .qget q sx imm => chkQget q sx imm s
  | .rput ccw lane tap td sx j => chkRput ccw lane tap td sx j s
  | .rtap ccw lane tap td sx j => chkRtap ccw lane tap td sx j s
  | .pfxlook sh n1 td hh sx sy => chkPfxlook sh n1 td hh sx sy s
  | .ctxsave hh sx sy => chkCtxsave hh sx sy s
  | .ctxrest hh sx sy => chkCtxrest hh sx sy s
  | .mcall _ => chkMcall s
  | .mcallw _ => chkMcall s
  | .mldstore _ td n1 => chkMldstore td n1 s
  | .fsend sc off td n1 => chkFsend sc off td n1 s
  | .frecv sc off td n1 => chkFrecv sc off td n1 s
  | .frecva op sc off td n1 => chkFrecva op sc off td n1 s
  | .fmark sc k td => chkFmark sc k td s
  | .frdv sc off => chkFrdv sc off s
  | .fctlSync k td => (gangChk s).and (reportChk s td k.toNat)
  | .fctlStat k td => (gangChk s).and (reportChk s td k.toNat)
  | .waitb hh sx ph => chkWaitb hh sx ph s
  | .waitc sc imm => chkWaitc sc imm s
  | .kret => chkKret s
  | .wfi => chkWfi s
  | .ipi sc _ => chkIpi sc s
  | _ => .ok

/-- The cycle that a timed instruction names (R98, R300). -/
def namedOf (i : Instr) (s : State) : Option Nat :=
  match i with
  | .fsend sc off _ _ => some (fabT s sc off)
  | .frecv sc off _ _ => some (fabT s sc off)
  | .frecva _ sc off _ _ => some (fabT s sc off)
  | .frdv sc off => some (rdvT s sc off)
  | .rput _ _ tap _ sx _ => some (ringT s tap sx)
  | .rtap _ _ tap _ sx _ => some (ringT s tap sx)
  | _ => none

/-- Whether an instruction is a rendezvous. -/
def isFrdv (i : Instr) : Bool := match i with | .frdv _ _ => true | _ => false

/-- Whether an instruction is a WAITC. -/
def isWaitc (i : Instr) : Bool := match i with | .waitc _ _ => true | _ => false

/-- Whether a waiting WAITB asks the handle unit in this cycle. -/
def asksUnit (i : Instr) (s : State) : Bool :=
  match i with
  | .waitb hh sx ph => asksWaitb hh sx ph s
  | _ => false

/-- Whether an instruction reads an object of which the open segment holds a store that it overlaps, and nothing else keeps it
waiting (R361). -/
def readsHeld (i : Instr) (s : State) : Bool :=
  match i with
  | .ldt st _ o => overlapsHeld s ((readH s o.hh).toNat / 2 ^ 28) (spansOf (tWidth (ctlOf s o.td)) ((opElems s o st).map Prod.snd))
  | .ldts st _ o => overlapsHeld s ((readH s o.hh).toNat / 2 ^ 28) (spansOf (tWidth (ctlOf s o.td)) ((opElems s o st).map Prod.snd))
  | .pfxlook _ n1 _ hh _ sy => overlapsHeld s ((readH s hh).toNat / 2 ^ 28) (pageSpan (readS s sy).toNat (n1.toNat + 1))
  | _ => false

end Sys2Proof.Machine
end

