-- ==== Sys2Proof/Machine/Finish.lean ====
section
/-! DEFINITION. The end of a cycle at a core: the samples due in it, what the matrix unit completes in it, and the scratchpad
writes due in it in the groups of R351. -/

namespace Sys2Proof.Machine

/-! ## Samples -/

/-- The codes of a store's elements whose bits lie in a range of bytes of its tile (R273). -/
def sampleStt (s : State) (k id lo hi : Nat) : State :=
  match reqFind s id with
  | none => s
  | some r =>
    let m := (coreOf s k).arch.scratch
    let new := (r.elems.filter fun e => decide (8 * lo ≤ e.1) && decide (e.1 < 8 * hi)).map fun e =>
      (e.1, BitVec.ofNat 32 (memRead m (e.1 / 8) ((e.1 % 8 + r.w + 7) / 8) / 2 ^ (e.1 % 8) % 2 ^ r.w))
    reqSet s { r with data := r.data ++ new }

/-- Bytes lo to hi − 1 of a tile moved by a TMOV: for each its tile address and its row's address. -/
def tmovPairs (ctl : Word) (lo hi : Nat) (rows : List Nat) : List (Nat × Nat) :=
  (List.range (hi - lo)).map fun i =>
    let b := lo + i
    (tBase ctl + b, rows.getD (b / tRowBytes ctl) 0 + b % tRowBytes ctl)

/-- The chunks of a tile whose last byte lies in bytes lo to hi − 1. -/
def endedChunks (ctl : Word) (lo hi : Nat) : BitVec 128 :=
  BitVec.ofNat 128 (((List.range 128).filter fun k =>
    decide (512 * k < tSize ctl) && decide (lo < min (tSize ctl) (512 * k + 512)) && decide (min (tSize ctl) (512 * k + 512) ≤ hi)).foldl
      (fun a k => a + 2 ^ k) 0)

/-- The writes of one cycle of a TMOV (R275): TMOV.in sets the bits of the chunks that it finishes, while the tile is still its own. -/
def sampleTmov (s : State) (k : Nat) (x : PendSample) (out : Bool) (t : Nat) (ctl : Word) (lo hi : Nat) (rows : List Nat) : State :=
  updCore s k fun c =>
    let m := c.arch.scratch
    let o := x.age * 16 + x.slot
    let cells := (tmovPairs ctl lo hi rows).map fun p => if out then (p.2, [memGet m p.1]) else (p.1, [memGet m p.2])
    let bits : List Store := if out then []
      else [{ due := x.due, group := slotGroup, order := o, sec := x.sec, k := .tileBits (BitVec.ofNat 6 t) (endedChunks ctl lo hi) }]
    { c with stores := c.stores ++ { due := x.due, group := slotGroup, order := o, sec := x.sec, k := .cells cells } :: bits }

/-- A flit that an RPUT places on a lane in this cycle (R299, R301). A flit leaves the ring after 16 cycles. -/
def sampleRput (s : State) (k lane : Nat) (ccw : Bool) (a : Nat) : State :=
  let v : BitVec 1024 := BitVec.ofNat 1024 (memRead (coreOf s k).arch.scratch a 128)
  updDie s (coreDie k) fun y =>
    { y with ring := (y.ring.filter fun x => decide (s.tick < x.2.2.1 + 16)) ++
        [(ringKey k ccw lane, ringPos k, s.tick, v)] }

/-- A sample that is due: register results are delivered, the rest goes to its unit. -/
def runSample (s : State) (k : Nat) (x : PendSample) : State :=
  match sampleReg (coreOf s k).arch.scratch x.k with
  | some w => updCore s k fun c => deliver c x w
  | none =>
    match x.k with
    | .sttRow id lo hi => sampleStt s k id lo hi
    | .tmov out t ctl lo hi rows => sampleTmov s k x out t ctl lo hi rows
    | .card id => sampleCard s k id
    | .otw a ident => sampleOtw s k a ident
    | .stp a nb id => sampleStp s k a nb id
    | .keyw a slot tag => sampleKeyw s k a slot tag
    | .rput lane ccw a => sampleRput s k lane ccw a
    | .pfxlook id a n => samplePfx s k id a n
    | .fsend port id a tag e =>
      fsendFlit s k port id tag e (memBytes (coreOf s k).arch.scratch a 128)
    | _ => s

/-- The samples of a core that are due. -/
def runSamples (s : State) (k : Nat) : State :=
  let now := (coreOf s k).samples.filter fun x => decide (x.due ≤ s.tick)
  let s := updCore s k fun c => { c with samples := c.samples.filter fun x => decide (s.tick < x.due) }
  now.foldl (fun s x => runSample s k x) s

/-! ## Stores -/

/-- Sub-blocks of a chunk that lie in a tile. -/
def chunkSubs (ctl : Word) (k : Nat) : List Nat := (List.range 4).map (fun i => 4 * k + i) |>.filter fun j => decide (128 * j + 128 ≤ tSize ctl)

/-- A sub-block written by the ring or the fabric (R302, R307): the first flit of an arming FRECV gives seq, and the chunk's bit
follows its last sub-block. A tile that has another producer by now keeps its bits. -/
def putSubBlock (c : Core) (now group : Nat) (t : BitVec 6) (j a : Nat) (tag : Option Nat) (bs : List Byte) : Core :=
  let c := scratchPut c now group a bs
  let x := tileOf c t.toNat
  if x.prod ≠ .ring ∧ x.prod ≠ .fabric then c
  else
    outTile c t.toNat fun x =>
      let x := { x with sub := x.sub ||| BitVec.ofNat 512 (2 ^ j) }
      let x := match tag with
        | some g => if x.seqNext then { x with ctl := setField x.ctl 52 12 g, seqNext := false } else x
        | none => x
      if (chunkSubs x.ctl (j / 4)).all fun i => x.sub.getLsbD i then { x with map := x.map ||| BitVec.ofNat 128 (2 ^ (j / 4)) } else x

/-- Elements of a flit of a width combined with the local ones (R308), subnormals flushed under ftz (R124): the bytes of the results. -/
def combBytes (op : CombOp) (f : Fmt) (m : RM) (fmt : Word32) (ds : List Word) (old : List Byte) (bs : List Byte) : List Byte :=
  let w := fmtWidth f
  let a := natOfBytes old
  let b := natOfBytes bs
  bytesOf (build w (1024 / w) fun i => 
    combine op f (rndOf m fmt (rngAt ds i)) (flushCode f (fmtFtz fmt) (elemAt w a i)) (flushCode f (fmtFtz fmt) (elemAt w b i))) 128

/-- A flit that an FRECVA combines (R308): in mode rst it draws from seedfab. -/
def putComb (c : Core) (now group : Nat) (t : BitVec 6) (sub a : Nat) (op : CombOp) (mode : RSel) (fmt : Word32) (last : Bool)
    (bs : List Byte) : Core :=
  let f := tFmt (tileOf c t.toNat).ctl
  let m := (resolveRm mode fmt).getD .rne
  let rounds := decide (m = .rst)
  let d := draws (if rounds then (1024 / fmtWidth f + 3) / 4 else 0) (tblGet (1 : Word) c.arch.seeds 6)
  let c := if rounds then { c with arch := { c.arch with seeds := tblSet (1 : Word) c.arch.seeds 6 d.2 } } else c
  let c := scratchPut c now group a (combBytes op f m fmt d.1 (memBytes c.arch.scratch a 128) bs)
  if last then outBits c t.toNat (BitVec.ofNat 128 (2 ^ (sub / 4))) 0 else c

/-- One store performs. -/
def runStore (c : Core) (now : Nat) (x : Store) : Core :=
  match x.k with
  | .bytes a bs => scratchPut c now x.group a bs
  | .cells l => putCells c now x.group l
  | .amos sec rd a nb op b cmp ld held => performAmos c now (x.order / 16) (x.order % 16) sec rd a nb op b cmp ld held
  | .comb t sub a op mode fmt last bs => putComb c now x.group t sub a op mode fmt last bs
  | .tileBits t bits => setBits c t.toNat bits
  | .subBlock t j a tag bs => putSubBlock c now x.group t j a tag bs
  | .bits l => putBits c now x.group l

/-- Whether store a performs before store b in one cycle (R351): by group, slot writes of one stream in program order. -/
def storeBefore (a b : Store) : Bool := decide (a.group < b.group) || (decide (a.group = b.group) && decide (a.order ≤ b.order))

/-- Which of two streams' slot writes in one cycle performs first: left to right by slot (R107), of one slot in its own order. -/
def storeLeft (a b : Store) : Bool :=
  decide (a.order % 16 < b.order % 16) || (decide (a.order % 16 = b.order % 16) && decide (a.order ≤ b.order))

/-- The stores due, in order. -/
def dueStores (l : List Store) (now : Nat) : List Store :=
  let d := l.filter fun x => decide (x.due ≤ now)
  sortBy storeBefore (d.filter fun x => decide (x.group < slotGroup)) ++
    inTurn Store.sec storeBefore storeLeft (d.filter fun x => decide (x.group = slotGroup)) ++
    sortBy storeBefore (d.filter fun x => decide (slotGroup < x.group))

/-- The stores of a core that are due perform. -/
def runStores (c : Core) (now : Nat) : Core :=
  (dueStores c.stores now).foldl (fun c x => runStore c now x) { c with stores := c.stores.filter fun x => decide (now < x.due) }

/-- What the matrix unit completes: the micro-operations in their last occupied cycle, and an MLDSTORE's last sampling cycle. -/
def runMatrix (c : Core) (now : Nat) : Core :=
  let c := applyFlies c now c.arch.seq.fly
  let c := updSeq c fun q => { q with fly := q.fly.filter fun f => decide (now < f.done) }
  match c.arch.seq.load with
  | some l => if l.last ≤ now then finishLoad c now l else c
  | none => c

/-- The end of a cycle at core k. -/
def finishCore (s : State) (k : Nat) : State :=
  let s := runSamples s k
  updCore s k fun c => runStores (runMatrix c s.tick) s.tick

/-- The end of a cycle at every core. -/
def finishCores (s : State) : State := (s.cores.map Prod.fst).foldl finishCore s

end Sys2Proof.Machine
end

