-- ==== Sys2Proof/Machine/Issue.lean ====
section
/-! DEFINITION. Which slots issue in a cycle (R92, R93, R97, R102, R495), decided from the state at the cycle's start; when an
entry bundle commits the segment before it, when a stop is taken, when a timed instruction is late. -/

namespace Sys2Proof.Machine

/-! ## A slot at a bundle -/

/-- The context of slot k of a core at the bundle of queue index i. -/
def ctxAt (k slot i : Nat) (d : Disp) : Ctx :=
  let sec := d.secMask.getLsbD slot
  { core := k, sec := sec, slot := slot, off := offIn sec d, age := d.age, idx := i, lit := if sec then d.secLit else d.lit }

/-- The state as slot k acts on a bundle. -/
def actAt (s : State) (k slot i : Nat) (d : Disp) : State := { s with cur := ctxAt k slot i d }

/-- Whether a bundle issues in all slots at once (R97, R495). -/
def isGroup (d : Disp) : Bool := hdrAL d.bits || d.entry

/-- The state as slot k finds it before it issues a bundle: what an align bundle reads is what stands at its issue (R97), not what
stood since the align bundle before it (R100). -/
def lookAt (s : State) (k slot i : Nat) (d : Disp) : State :=
  actAt (if isGroup d then updCore s k fun c => { c with alignHist := [] } else s) k slot i d

/-- The next bundle of a slot, where it has been dispatched before this cycle. -/
def nextDisp (s : State) (c : Core) (slot : Nat) : Option (Nat × Disp) :=
  let i := nextIdx c slot
  match c.queue[i]? with
  | some d => if d.tick < s.tick ∧ c.issueFrom ≤ s.tick then some (i, d) else none
  | none => none

/-- What slot k's field of a bundle finds at issue; an inactive field finds nothing. -/
def slotChkAt (s : State) (k slot i : Nat) (d : Disp) : Chk :=
  match slotInstr d.bits slot with
  | some ins => if slotOn d.bits slot then chkOf ins (lookAt s k slot i d) else .ok
  | none => .ok

/-- Whether an engine instruction of a core stands at MEM and is not accepted yet (R285). -/
def accepting (s : State) (k : Nat) : Bool :=
  match (coreOf s k).memReq with
  | some id => (dieOf s (coreDie k)).jobs.any fun j => decide (j.id = id) && decide (j.st = .accepting)
  | none => false

/-- Whether a context save or restore holds the whole core (R330). -/
def coreHeld (s : State) (k : Nat) : Bool :=
  match (coreOf s k).memReq.bind (reqFind s) with
  | some r => (match r.op with | .ctxsave _ _ => true | .ctxrest _ _ => true | _ => false)
  | none => false

/-- Whether a slot is held: by a reload of the handle store (R156), a privileged instruction (R330), an MCALLW (R229). -/
def slotHeld (s : State) (k slot : Nat) (sec : Bool) : Bool :=
  let c := coreOf s k
  coreHeld s k || (c.slotHold.any fun x => decide (x.1 = slot) && decide (s.tick < x.2)) ||
    (decide (slot = 5) && ((c.memReq.isSome && !(accepting s k)) || (match c.memHold with | some t => decide (s.tick ≤ t) | none => false))) ||
    (decide (slot = 6) && decide (c.arch.seq.state = 1) && decide (c.arch.seq.hold = some (levelOf k c)) &&
      decide (c.arch.seq.bySec = sec))

/-- The skew limit of a slot at a bundle (R92). -/
def inSkew (c : Core) (slot : Nat) (d : Disp) : Bool :=
  [false, true].all fun sec => !(inStrm sec d) || decide (resumeOff c sec slot < 16)

/-! ## Groups: align and entry bundles -/

/-- The oldest bundle that some slot has not issued. -/
def frontIdx (c : Core) : Nat := (List.range 9).foldl (fun m k => min m (nextIdx c k)) (nextIdx c 0)

/-- Whether an entry bundle has opened its segment. -/
def entered (c : Core) (d : Disp) : Bool := !d.entry || (c.segOpen && decide (c.segAge = d.age) && !c.segNew)

/-- The slots that have still to issue a bundle. -/
def slotsAt (c : Core) (i : Nat) : List Nat := (List.range 9).filter fun k => decide (nextIdx c k = i)

/-- Whether no slot at a bundle is held. -/
def noneHeld (s : State) (k i : Nat) (d : Disp) : Bool :=
  (slotsAt (coreOf s k) i).all fun j => !(slotHeld s k j (d.secMask.getLsbD j))

/-- The conditions of R97 but for the instructions' own waits. -/
def alignMet (s : State) (k i : Nat) (d : Disp) : Bool :=
  decide (d.tick < s.tick) && decide ((coreOf s k).issueFrom ≤ s.tick) && writesLanded s (coreOf s k) d.age && noneHeld s k i d

/-- Whether the segment before an entry bundle can end (R495): no micro-operation and no transform is under way, and the compares
of its last issue cycle have passed. -/
def segmentQuiet (s : State) (k : Nat) : Bool :=
  let c := coreOf s k
  c.segNew || !c.segOpen || (c.arch.seq.fly.isEmpty && c.xfJobs.isEmpty && c.expJobs.isEmpty &&
    (!(c.mode || !(isCompute k)) || decide (c.lastIssue + 3 ≤ s.tick)))

/-- Whether all own waits of a bundle's instructions are satisfied. -/
def waitsMet (s : State) (k i : Nat) (d : Disp) : Bool :=
  (slotsAt (coreOf s k) i).all fun j => decide (slotChkAt s k j i d ≠ .wait)

/-- Whether no instruction of an entry bundle waits for a cycle that it names: such waits alone keep the segment before it from
committing. Any other own wait may depend on what that segment holds (see the log). -/
def commitMet (s : State) (k i : Nat) (d : Disp) : Bool :=
  (slotsAt (coreOf s k) i).all fun j =>
    let a := lookAt s k j i d
    match slotInstr d.bits j with
    | some ins => !((namedOf ins a).isSome || isWaitc ins) || decide (slotChkAt s k j i d ≠ .wait)
    | none => true

/-- As waitsMet, as it will be once the commit has performed what the segment held. -/
def issueMet (s : State) (k i : Nat) (d : Disp) : Bool :=
  (slotsAt (coreOf s k) i).all fun j =>
    decide (slotChkAt s k j i d ≠ .wait) ||
      (match slotInstr d.bits j with
        | some ins => readsHeld ins (lookAt s k j i d)
        | none => false)

/-! ## Stops (R322) -/

/-- Whether a stop may be taken at a PS bundle (R253, R262, R269, R322, R424, R426). -/
def stopsHere (s : State) (k i : Nat) (d : Disp) : Bool :=
  let c := coreOf s k
  hdrPS d.bits && c.stopS && isCompute k && decide (levelOf k c = 0) && !c.intrap && decide (c.queue.length = i + 1) &&
    decide (d.done = 0) && decide ((slotsAt c i).length = 9) && unitsQuiet c && !(producersOut s k) && !(jobsHold s k)

/-! ## What a core does in a cycle -/

/-- An event of this cycle. -/
def eventNow (s : State) (i : Instr) (e : Ev) : Work := .event { due := s.tick, instr := i, ev := e }

/-- Whether a bundle is the entry bundle that a rewind has returned to: a rendezvous that has issued in its cycle once, and is
not timed again (R500). -/
def metAgain (c : Core) (d : Disp) : Bool := c.rvDone && (decide (c.segAge = d.age) || (c.segNew && d.entry))

/-- The lateness of a timed instruction that a slot has reached and not issued (R98, R99, R301): its named cycle is over. -/
def lateAt (s : State) (k slot i : Nat) (d : Disp) : Option Nat :=
  match slotInstr d.bits slot with
  | some ins =>
    let c := coreOf s k
    if !(slotOn d.bits slot) || (isFrdv ins && metAgain c d) then none
    else
      match namedOf ins (lookAt s k slot i d) with
      | some t => if t < s.gcyc.toNat then some t else none
      | none => none
  | none => none

/-- The late instructions of MEM and FAB, each with the age of its bundle and its slot. -/
def lateWork (s : State) (k : Nat) : List (Nat × Nat × Work) :=
  [5, 7].filterMap fun j =>
    match nextDisp s (coreOf s k) j with
    | some (i, d) => (lateAt s k j i d).map fun t =>
        (d.age, j, eventNow s .timedInstructionLate { Ev.none with core := k, slot := j, w := BitVec.ofNat 64 t })
    | none => none

/-- Whether a bundle from the front up to index i issues as a group and has not issued in every slot. -/
def groupBefore (s : State) (k lo i : Nat) : Bool :=
  let c := coreOf s k
  (List.range i).any fun m => decide (lo ≤ m) &&
    (match c.queue[m]? with
      | some d => isGroup d && (slotsAt c m).any fun j => !(decide (j = 5) && accepting s k)
      | none => false)

/-- Whether slot k issues its next bundle, one that is no group (R92). -/
def slotIssues (s : State) (k slot : Nat) : Option (Nat × Disp) :=
  let c := coreOf s k
  match nextDisp s c slot with
  | none => none
  | some (i, d) =>
    let own := decide (slot = 5) && accepting s k
    if (isGroup d && !own) || !(inSkew c slot d) || slotHeld s k slot (d.secMask.getLsbD slot) ||
        (groupBefore s k (frontIdx c) i && !own) || (lateAt s k slot i d).isSome then none
    else
      let a := lookAt s k slot i d
      let asks := match slotInstr d.bits slot with | some ins => slotOn d.bits slot && asksUnit ins a | none => false
      if decide (slotChkAt s k slot i d ≠ .wait) || asks then some (i, d) else none

/-- What the front bundle, where it is a group, does in this cycle. -/
inductive GroupDo where
  | wait
  | enter
  | enterIssue
  | issue
  | stop (off : Nat)
  | gangFault
  | asks (slot : Nat)
  deriving DecidableEq, Repr

/-- Whether an entry bundle begins its segment implicitly: no SEG asks for it, and it is neither a launch's first bundle nor the first one
after a KRET, with which a redispatched path begins (R495). -/
def implicitStart (c : Core) (d : Disp) : Bool :=
  c.segOpen && !(hdrSEG d.bits) && (!d.pre.isEmpty || c.appPath.any fun x => decide (x.age = d.age))

/-- Whether an entry bundle breaks R439: a SEG bundle or an implicit segment start before a gang core's first rendezvous. -/
def gangBreaks (k : Nat) (c : Core) (d : Disp) : Bool :=
  c.gangWait && decide (levelOf k c = 0) && !c.segNew && !(hdrRV d.bits) && (hdrSEG d.bits || implicitStart c d)

/-- Decides for the front bundle. -/
def groupDo (s : State) (k i : Nat) (d : Disp) : GroupDo :=
  let c := coreOf s k
  if !(alignMet s k i d) then .wait
  else if entered c d then
    if waitsMet s k i d then (if stopsHere s k i d then .stop (offIn (d.pri.isNone) d) else .issue)
    else
      match (slotsAt c i).find? fun j =>
          match slotInstr d.bits j with
          | some ins => slotOn d.bits j && asksUnit ins (lookAt s k j i d)
          | none => false with
      | some j => .asks j
      | none => .wait
  else if !(segmentQuiet s k && commitMet s k i d) then .wait
  else if gangBreaks k c d then .gangFault
  else if issueMet s k i d then (if stopsHere s k i d then .stop (offIn (d.pri.isNone) d) else .enterIssue)
  else .enter

/-- Whether a WFI is about to issue: a pending trap is then taken after it (R327). -/
def wfiIssues (s : State) (k : Nat) : Bool :=
  let c := coreOf s k
  let i := frontIdx c
  match c.queue[i]? with
  | some d => isGroup d && decide (slotInstr d.bits 8 = some .wfi) &&
      (match groupDo s k i d with | .issue => true | .enterIssue => true | _ => false)
  | none => false

/-! ## Segment ends that the device puts in (R361, R498) -/

/-- Whether a slot's next bundle, no entry yet, must begin a segment before the slot issues its part. -/
def mustSplit (s : State) (k slot : Nat) : Option Nat :=
  let c := coreOf s k
  match nextDisp s c slot with
  | none => none
  | some (i, d) =>
    let a := lookAt s k slot i d
    let ins := if slotOn d.bits slot then slotInstr d.bits slot else none
    let rd := match ins with | some x => readsHeld x a | none => false
    if c.segOpen && !d.entry && !(decide (slot = 5) && accepting s k) && (rd || splits a d ins) then some i else none

/-- Marks a bundle as an entry. -/
def markEntry (c : Core) (i : Nat) : Core := { c with queue := c.queue.modify i fun d => { d with entry := true } }

/-- The entries that R361 and R498 ask for in this cycle. -/
def addEntries (s : State) (k : Nat) : State :=
  let s := (List.range 9).foldl (fun s j =>
    match mustSplit s k j with
    | some i => updCore s k fun c => markEntry c i
    | none => s) s
  if (coreOf s k).endSeg then
    updCore s k fun c =>
      let c := { c with endSeg := false }
      match (List.range c.queue.length).find? fun i => decide ((slotsAt c i).length = 9) || ((List.range 9).all fun j => decide (nextIdx c j ≤ i)) with
      | some i => markEntry c i
      | none => updStrm (updStrm c false fun x => { x with segNext := true }) true fun x => { x with segNext := true }
  else s

/-! ## Named cycles (R98, R504) -/

/-- MEM and FAB note the cycle that a timed instruction names when they reach it; FAB's rendezvous enters nrv. -/
def noteNamed (s : State) (k : Nat) : State :=
  [5, 7].foldl (fun s j =>
    let c := coreOf s k
    match nextDisp s c j with
    | none => s
    | some (i, d) =>
      match (if slotOn d.bits j then slotInstr d.bits j else none) with
      | none => s
      | some ins =>
        match namedOf ins (lookAt s k j i d) with
        | none => s
        | some t =>
          if isFrdv ins then
            if c.nrv.isNone && !(metAgain c d) then
              updCore s k fun c => { c with nrv := some (BitVec.ofNat 64 t), rewound := false }
            else s
          else if c.named.any fun x => decide (x.1 = j) && decide (x.2.1 = d.age) then s
          else updCore s k fun c => { c with named := (c.named.filter fun x => decide (x.1 ≠ j)) ++ [(j, d.age, t)] }) s

/-! ## Traps that a cycle's start raises -/

/-- A trap charged to a slot's next bundle, as it would issue it (R231, R265): the slot and the bundle's age are its place. A
late fault keeps the stream that raised it. -/
def atNext (c : Core) (slot : Nat) (t : Trap) : Trap :=
  match c.queue[nextIdx c slot]? with
  | some d =>
    let sec := if t.late then t.sec else d.secMask.getLsbD slot
    { t with slot := slot, sec := sec, age := d.age }
  | none => { t with slot := slot, age := c.age + 1 }

/-- The trap of a decode fault, once its stream has nothing left to issue (R69, R73). -/
def decodeTrap (c : Core) (sec : Bool) : Option Trap :=
  match (strmOf c sec).fault with
  | some f =>
    if c.queue.any (inStrm sec) then none
    else some { cause := f.cause, slot := f.slot, sec := sec, off := f.off, info0 := BitVec.ofNat 64 f.cause,
                info1 := info1Of f.off sec, info2 := f.info, info3 := 0, late := false, rt := false, age := c.age + 1, wait := false }
  | none => none

/-- A routine fault that is due is held; one detected while csw.intrap is set waits for the return (R231). -/
def dueRoutine (c : Core) (now : Nat) : Core :=
  match c.rtDue with
  | some (t, tr) => if t ≤ now ∧ !(c.intrap && c.arch.seq.byHandler) then { c with rtDue := none, rtHeld := some { tr with wait := c.intrap } } else c
  | none => c

/-- Whether a routine that a handler started has faulted: a double fault (R21, R231). -/
def doubleRoutine (c : Core) (now : Nat) : Bool :=
  match c.rtDue with
  | some (t, _) => decide (t ≤ now) && c.intrap && c.arch.seq.byHandler
  | none => false

/-- The held fault that may be taken: a late fault before a routine fault (R321); one that waits for a KRET is passed over (R231,
R265, R320). -/
def heldTrap (c : Core) : Option Trap :=
  match c.lateHeld.find? fun t => !t.wait with
  | some t => some (atNext c 5 t)
  | none =>
    match c.rtHeld with
    | some t => if t.wait then none else some (atNext c 6 t)
    | none => none

/-- The precise trap that this cycle's start brings: a held late fault, a held routine fault, a fault of decode (R321, R342). -/
def startTrap (c : Core) : Option Trap :=
  if c.segNew then none
  else (if c.intrap then none else heldTrap c).or ((decodeTrap c false).or (decodeTrap c true))

end Sys2Proof.Machine
end

