-- ==== Sys2Proof/Machine/Cycle.lean ====
section
/-! DEFINITION. The clock: the end of a cycle and the start of the next, and the list of what that cycle does (R90 to R103). What
the world outside the package does in a cycle is a free value. -/

namespace Sys2Proof

/-- What the world outside the package does in a cycle: flits that reach a port, the host, the reset pin, the boards' sensors and
rails, errors that the checks detect. MODEL: nothing constrains it. -/
opaque Config.outside : Nat → List Machine.Event

end Sys2Proof

namespace Sys2Proof.Machine

/-! ## Registers land, heads leave -/

/-- The number and value of a register write in the commit signature (R490). -/
def sigWord (w : RegWrite) : Option (Nat × Word) :=
  match w with
  | .s _ i v => some (i, v)
  | .g _ g n v => some (64 + 8 * g + n, v)
  | .link _ v => some (0x104, v)
  | .fmt _ v => some (0x103, v.zeroExtend 64)
  | .xratio q => some (0x10A, q.zeroExtend 64)
  | .cr _ n v => some (0x100 + n, v)
  | _ => none

/-- The writes of a cycle land (R94, R96). -/
def landNow (c : Core) (now : Nat) : Core :=
  landAll { c with sigWords := (dueLandings c.landing now).filterMap fun x => sigWord x.w } now

/-- The copy of the primary stream's control state that the marionette reaches two cycles on (R58, R490). -/
def shadowOf (now k : Nat) (c : Core) : Shadow :=
  let x := c.arch.pri
  { due := now + 2, csw := cswOf k c false, pcbase := x.pcbase, segbase := x.segbase, loops := x.loops, link := x.link, s := x.s,
    g := x.g, queue := c.queue, pos := c.pos, issues := c.issues, sigWords := c.sigWords }

/-- The marionette's copies at the start of a cycle: the first is the state that it has reached, those behind it what it reaches in
the next two cycles. A core without an active marionette keeps none (R24, R57). -/
def keepShadows (now k : Nat) (c : Core) : List Shadow :=
  if c.run = .running ∧ c.mode then (c.shadows.filter fun x => decide (now ≤ x.due)) ++ [shadowOf now k c] else []

/-- A core at the start of a cycle: what lands, what leaves, what was noted of the cycle before. -/
def beginCore (now k : Nat) (c : Core) : Core :=
  let c := { c with shadows := keepShadows now k c }
  let c := landNow { c with issues := [] } now
  let c := if c.run = .running then popHeads c else c
  { c with slotHold := c.slotHold.filter (fun x => decide (now < x.2)), memHold := c.memHold.filter fun t => decide (now ≤ t),
           inq := c.inq.map fun q => (q.1, q.2.filter fun e => match e.taken with | some t => decide (now ≤ t) | none => true) }

/-! ## What a core does in the cycle -/

/-- Inserts work behind what comes before it: older bundles first, then left to right. -/
def insWork (x : Nat × Nat × Work) (l : List (Nat × Nat × Work)) : List (Nat × Nat × Work) :=
  match l with
  | [] => [x]
  | y :: r => if y.1 < x.1 ∨ (y.1 = x.1 ∧ y.2.1 ≤ x.2.1) then y :: insWork x r else x :: y :: r

/-- The issues of the slots of a bundle. -/
def groupWork (c : Core) (k i : Nat) (d : Disp) : List (Nat × Nat × Work) :=
  (slotsAt c i).map fun j => (d.age, j, Work.issue k j)

/-- The front bundle's work, where it is a group, and the core as the decision leaves it. -/
def frontWork (s : State) (k : Nat) : State × List (Nat × Nat × Work) :=
  let c := coreOf s k
  let i := frontIdx c
  match c.queue[i]? with
  | none => (s, [])
  | some d =>
    if !(isGroup d) || (accepting s k && (slotsAt c i).all fun j => decide (j = 5)) then (s, [])
    else
      let entry := (d.age, 0, eventNow s .segmentEntry { Ev.none with core := k, n := i })
      let fresh (s : State) := updCore s k fun c => { c with alignHist := [] }
      if !(lateWork s k).isEmpty && (lateWork s k).any (fun x => decide (x.1 = d.age)) then (s, [])
      else
        match groupDo s k i d with
        | .issue => (fresh s, groupWork c k i d)
        | .enterIssue => (fresh s, entry :: groupWork c k i d)
        | .enter => (s, [entry])
        | .stop off => (s, [(d.age, 0, eventNow s .stopTaken { Ev.none with core := k, n := off })])
        | .gangFault =>
          (updCore s k fun c =>
            { c with ptrap := some { cause := 6, slot := 7, sec := d.secMask.getLsbD 7, off := offIn d.pri.isNone d, info0 := 6,
                                     info1 := info1Of (offIn d.pri.isNone d) d.pri.isNone, info2 := s.gcyc, info3 := 0,
                                     late := false, rt := false, age := d.age, wait := false } }, [])
        | .asks j => (fresh s, [(d.age, j, Work.issue k j)])
        | .wait =>
          let paused := d.entry && !(entered c d) && !(heldMx (lookAt s k 6 i d)) && decide ((slotsAt c i).length + d.done.toNat ≥ 9)
          (if paused then updCore s k fun c => { c with segPause := true } else s, [])

/-- The slots that issue bundles which are no groups. -/
def slipWork (s : State) (k : Nat) : List (Nat × Nat × Work) :=
  (List.range 9).filterMap fun j => (slotIssues s k j).map fun x => (x.2.age, j, Work.issue k j)

/-- The wait bits of one stream's csw (R46, R59): the slots whose next dispatched bundle's field is the stream's, and which do not
issue it in this cycle. -/
def waitingBits (s : State) (k : Nat) (sec : Bool) (w : List (Nat × Nat × Work)) : BitVec 9 :=
  BitVec.ofNat 9 ((List.range 9).foldl (fun n j =>
    match nextDisp s (coreOf s k) j with
    | some (_, d) =>
      if d.secMask.getLsbD j == sec && !(w.any fun x => match x.2.2 with | .issue _ m => decide (m = j) | _ => false)
      then n + 2 ^ j else n
    | none => n) 0)

/-- Whether the sequencer starts its next micro-operation's turn in this cycle (R229, R251, R495). -/
def microRuns (s : State) (c : Core) : Bool :=
  let q := c.arch.seq
  decide (q.state = 1) && q.mend.isNone && q.load.isNone && decide (q.nextStart ≤ s.tick) && !c.segPause && c.rtHeld.isNone &&
    c.rtDue.isNone

/-- Decode, issue and micro-operations of a running core. -/
def coreWork (s : State) (k : Nat) : State × List Work :=
  let s := noteNamed s k
  let s := addEntries s k
  let f := frontWork s k
  let s := f.1
  let w := (f.2 ++ slipWork s k ++ lateWork s k).foldl (fun l x => insWork x l) []
  let s := updCore s k fun c => { c with waiting := waitingBits s k false w, waiting2 := waitingBits s k true w,
                                         secWait := if decodes s k true then c.secWait else 0 }
  let dec := if decodes s k false || ((coreOf s k).arch.secOn && decodes s k true) then
      [eventNow s .decodeBundle { Ev.none with core := k }] else []
  (s, dec ++ w.map fun x => x.2.2)

/-- The ends of streams: a halted one that has drained, a yielded core whose streams have (R179, R429). -/
def endWork (s : State) (k : Nat) : List Work :=
  ([false, true].filter (retireReady s k)).map (fun sec => eventNow s .streamRetire { Ev.none with core := k, flag := sec }) ++
    (if yieldReady s k then [eventNow s .yieldRelease { Ev.none with core := k }] else [])

/-- R54's count of the cycles since stop.s became 1. -/
def countStop (s : State) (k : Nat) : State × List Work :=
  let c := coreOf s k
  match c.stopCount with
  | none => (s, [])
  | some n =>
    if n + 1 ≥ c.pbound.toNat then (s, [eventNow s .preemptionOverrun { Ev.none with core := k }])
    else (updCore s k fun c => { c with stopCount := some (n + 1) }, [])

/-- What core k does in the cycle: the traps that its start brings, then decode and issue, the sequencer, the ends of streams. -/
def beginWork (s : State) (k : Nat) : State × List Work :=
  if (coreOf s k).run ≠ .running then (s, [])
  else
    let double := doubleRoutine (coreOf s k) s.tick
    let s := updCore s k fun c => dueRoutine c s.tick
    let s := if s.tick = (coreOf s k).hReload then loadStore s k else s
    let x := countStop s k
    let s := x.1
    let s := updCore s k fun c => { c with ptrap := c.ptrap.or (startTrap c) }
    let c := coreOf s k
    let micro := if microRuns s c then [Work.micro k] else []
    if double then
      (updCore s k fun c => { c with rtDue := none }, [eventNow s .machineCheck { Ev.none with core := k, n := 1 }])
    else if !c.pend.isEmpty && c.ie && !c.segNew && c.ptrap.isNone && !(wfiIssues s k) then
      (s, x.2 ++ eventNow s .trapEntry { Ev.none with core := k } :: micro)
    else
      let w := coreWork s k
      (w.1, x.2 ++ w.2 ++ micro ++ endWork w.1 k)

/-! ## What the units and the package do in the cycle -/

/-- At the start of a frame: aborts and holds of the gangs (R438, R440, R504). -/
def frameWork (s : State) : List Work :=
  if s.gcyc.toNat % 4096 ≠ 0 then []
  else
    (List.range 4).flatMap fun d =>
      let e := { Ev.none with die := d }
      (((dieOf s d).gangs.filter Gang.abort).map fun g => eventNow s .gangAbort { e with n := g.gang }) ++
        (if (gangsOf s d).isEmpty then [] else [eventNow s .gangHoldSend e]) ++
        (if (dieOf s d).launches.any (fun l => (leftOf s d l).any fun c => (coreOf s (96 * d + c.1)).nrv.isSome) then
          [eventNow s .rendezvousHold e] else [])

/-- Jobs that start, and the command stream's admission. -/
def dieWork (s : State) (d : Nat) : List Work :=
  ((startingJobs s d).map fun j => eventNow s .jobStart { Ev.none with die := d, id := j.id }) ++
    (if (admitPlan s d).isEmpty then [] else [eventNow s .admission { Ev.none with die := d, bytes := admitPlan s d }])

/-- The jack trigger in its cycle (R328). -/
def jackWork (s : State) : List Work := if s.jarmed && decide (s.gcyc = s.jcyc) then [eventNow s .jackTrigger Ev.none] else []

/-- Samples and regulators every 1,500 cycles (R511, R523), and the flit slot that begins (R445). -/
def clockWork (s : State) : List Work :=
  (if s.gcyc.toNat % 1500 = 0 then [eventNow s .sensorSample Ev.none, eventNow s .regulatorStep Ev.none] else []) ++
    (if decide (s.gcyc.toNat % 2 = 0) && s.ports.any (fun p => decide (p.2.state = 2) || (decide (p.2.state = 1) && p.2.en)) then [eventNow s .flitSlotSend Ev.none] else [])

/-- Rows that the world outside causes: what reaches a port, what the checks detect, the host's and the board's doings. A register
write of the host reaches the registers of its window that take a plain one. -/
def fromOutside (e : Event) : Bool :=
  match e.instr with
  | .scheduledFlitArrival | .idleFlitArrival | .controlFlit | .readRequest | .readResponse | .writeBackData | .atomicRequest
  | .atomicResponse | .acquireRequest | .acquireResponse | .viewUpdate | .forwardedResolution | .endToEndAcknowledgement | .marker
  | .markerAcknowledgement => !e.ev.flag && !e.ev.flag2
  | .portTraining | .compareMismatch | .residueMismatch | .arrayEccError | .railFault | .packageReset | .systemCoreStart
  | .gsyncEdge | .rstreq | .hprodWrite | .dconsWrite | .bulkAccess | .spdmRequest => true
  | .registerWrite =>
    match blockAt e.ev.id with
    | some (.hostCtl, o) => decide (o = 0x08) || decide (o = 0x20) || (decide (0x1000 ≤ o) && decide (o < 0x3000))
    | _ => false
  | _ => false

/-- What the world outside does in this cycle. -/
def outsideWork (s : State) : List Work :=
  ((Config.outside s.tick).filter fromOutside).map fun e => Work.event { e with due := s.tick }

/-- The work of the cores, in ascending order. DEDUCED (see the log): R3 counts in cycles of the
global clock, and a system or root core too works one cycle in each. -/
def coresWork (s : State) (ks : List Nat) : State × List Work :=
  match ks with
  | [] => (s, [])
  | k :: r =>
    let x := beginWork s k
    let y := coresWork x.1 r
    (y.1, x.2 ++ y.2)

/-- The cycle ends and the next begins: samples and stores perform, the clock advances, register writes land, heads leave, and
what the new cycle does is decided from the state that it begins with. A package that has stopped has no more cycles of cores. -/
def advance (s : State) : State :=
  let s := finishCores s
  let s := { s with tick := s.tick + 1, gcyc := s.gcyc + 1 }
  let s := { s with cores := s.cores.map (fun (x : Nat × Core) => (x.1, beginCore s.tick x.1 x.2)),
                    frameOld := if s.gcyc.toNat % 4096 = 0 then [] else s.frameOld }
  if s.stopped then { s with work := outsideWork s }
  else
    let s := (List.range 4).foldl tendDie s
    let x := coresWork s (s.cores.map Prod.fst)
    { x.1 with work := frameWork s ++ x.2 ++ jackWork s ++ (List.range 4).flatMap (dieWork s) ++ clockWork s ++ outsideWork s }

/-! ## Late instructions -/

/-- Whether a slot's issue of a bundle is skipped, by a fault of the same bundle to its left, or its own (R102). -/
def skips (c : Core) (d : Disp) (slot : Nat) : Bool :=
  match c.ptrap with
  | some t => decide (t.age = d.age) && decide (t.slot ≤ slot)
  | none => false

/-- TIMED_INSTRUCTION_LATE (R98, R301): the named cycle is over: a precise schedule fault, with no effect. -/
def execTimedInstructionLate (s : State) : Host.Outcome State Fault Refusal :=
  let k := s.ev.core
  let j := s.ev.slot
  let c := coreOf s k
  match c.queue[nextIdx c j]? with
  | none => .next s
  | some d =>
    if skips c d j then .next s
    else
      let s := actAt s k j (nextIdx c j) d
      .next (precise s 6 s.ev.w 0)

end Sys2Proof.Machine
end

