-- ==== Sys2Proof/Machine/Dispatch.lean ====
section
/-! DEFINITION. One arm for each constructor of Instr: the direct call of its meaning. -/

namespace Sys2Proof.Machine

/-- What a step of the machine does: an instruction of a slot or of the matrix sequencer, or an event of the device. -/
def exec (i : Instr) (s : State) : Host.Outcome State Fault Refusal :=
  match i with
  -- SA and SB: integer
  | .add rd ra rb => Sys2Proof.Machine.execAdd rd ra rb s
  | .sub rd ra rb => Sys2Proof.Machine.execSub rd ra rb s
  | .addi rd ra imm => Sys2Proof.Machine.execAddi rd ra imm s
  | .mul rd ra rb => Sys2Proof.Machine.execMul rd ra rb s
  | .mulh n rd ra rb => Sys2Proof.Machine.execMulh n rd ra rb s
  | .div n rd ra rb => Sys2Proof.Machine.execDiv n rd ra rb s
  | .rem n rd ra rb => Sys2Proof.Machine.execRem n rd ra rb s
  | .and rd ra rb => Sys2Proof.Machine.execAnd rd ra rb s
  | .or rd ra rb => Sys2Proof.Machine.execOr rd ra rb s
  | .xor rd ra rb => Sys2Proof.Machine.execXor rd ra rb s
  | .andn rd ra rb => Sys2Proof.Machine.execAndn rd ra rb s
  | .shl rd ra amt => Sys2Proof.Machine.execShl rd ra amt s
  | .shr rd ra amt => Sys2Proof.Machine.execShr rd ra amt s
  | .sar rd ra amt => Sys2Proof.Machine.execSar rd ra amt s
  | .rot rd ra amt => Sys2Proof.Machine.execRot rd ra amt s
  | .clz rd ra => Sys2Proof.Machine.execClz rd ra s
  | .ctz rd ra => Sys2Proof.Machine.execCtz rd ra s
  | .popc rd ra => Sys2Proof.Machine.execPopc rd ra s
  | .min n rd ra rb => Sys2Proof.Machine.execMin n rd ra rb s
  | .max n rd ra rb => Sys2Proof.Machine.execMax n rd ra rb s
  | .cmp c rd ra rb => Sys2Proof.Machine.execCmp c rd ra rb s
  | .sel rd ra rb rc => Sys2Proof.Machine.execSel rd ra rb rc s
  | .movi rd imm => Sys2Proof.Machine.execMovi rd imm s
  | .movhi rd imm => Sys2Proof.Machine.execMovhi rd imm s
  | .bfx signed rd ra pos len1 => Sys2Proof.Machine.execBfx signed rd ra pos len1 s
  | .bfi rd ra pos len1 => Sys2Proof.Machine.execBfi rd ra pos len1 s
  | .lds rd ra sz sx disp => Sys2Proof.Machine.execLds rd ra sz sx disp s
  | .sts rd ra sz disp => Sys2Proof.Machine.execSts rd ra sz disp s
  | .amos op w64 rd ra rb rc => Sys2Proof.Machine.execAmos op w64 rd ra rb rc s
  -- SA and SB: floating point
  | .fadd dbl r rd ra rb => Sys2Proof.Machine.execFadd dbl r rd ra rb s
  | .fsub dbl r rd ra rb => Sys2Proof.Machine.execFsub dbl r rd ra rb s
  | .fmul dbl r rd ra rb => Sys2Proof.Machine.execFmul dbl r rd ra rb s
  | .ffma dbl r rd ra rb rc => Sys2Proof.Machine.execFfma dbl r rd ra rb rc s
  | .fdiv dbl r rd ra rb => Sys2Proof.Machine.execFdiv dbl r rd ra rb s
  | .fsqrt dbl r rd ra => Sys2Proof.Machine.execFsqrt dbl r rd ra s
  | .fcmp c dbl rd ra rb => Sys2Proof.Machine.execFcmp c dbl rd ra rb s
  | .cvt dst src r rd ra => Sys2Proof.Machine.execCvt dst src r rd ra s
  -- SA and SB: control registers, handles, generators, tiles, matrix parameters
  | .mfc rd cr => Sys2Proof.Machine.execMfc rd cr s
  | .mtc cr rd => Sys2Proof.Machine.execMtc cr rd s
  | .hbind hd ra mask => Sys2Proof.Machine.execHbind hd ra mask s
  | .hmov hd ha => Sys2Proof.Machine.execHmov hd ha s
  | .hqry q rd ha => Sys2Proof.Machine.execHqry q rd ha s
  | .gset gg w ra => Sys2Proof.Machine.execGset gg w ra s
  | .tset td w ra => Sys2Proof.Machine.execTset td w ra s
  | .mpset mp ra => Sys2Proof.Machine.execMpset mp ra s
  -- VX and VY: arithmetic
  | .vadd f r o => Sys2Proof.Machine.execVadd f r o s
  | .vsub f r o => Sys2Proof.Machine.execVsub f r o s
  | .vmul f r o => Sys2Proof.Machine.execVmul f r o s
  | .vfma f r o => Sys2Proof.Machine.execVfma f r o s
  | .vmin f o => Sys2Proof.Machine.execVmin f o s
  | .vmax f o => Sys2Proof.Machine.execVmax f o s
  | .vabs f o => Sys2Proof.Machine.execVabs f o s
  | .vneg f o => Sys2Proof.Machine.execVneg f o s
  | .vmulh f o => Sys2Proof.Machine.execVmulh f o s
  | .vdot4 f o => Sys2Proof.Machine.execVdot4 f o s
  -- VX and VY: logic, shifts, compares, selects
  | .vand o => Sys2Proof.Machine.execVand o s
  | .vor o => Sys2Proof.Machine.execVor o s
  | .vxor o => Sys2Proof.Machine.execVxor o s
  | .vnot o => Sys2Proof.Machine.execVnot o s
  | .vshl f imm o => Sys2Proof.Machine.execVshl f imm o s
  | .vshr f imm o => Sys2Proof.Machine.execVshr f imm o s
  | .vsar f imm o => Sys2Proof.Machine.execVsar f imm o s
  | .vcmp f code o => Sys2Proof.Machine.execVcmp f code o s
  | .vcmpt f c o => Sys2Proof.Machine.execVcmpt f c o s
  | .vsel p o => Sys2Proof.Machine.execVsel p o s
  | .vcas f pd o => Sys2Proof.Machine.execVcas f pd o s
  -- VX and VY: moves and permutes
  | .vmov f o => Sys2Proof.Machine.execVmov f o s
  | .vbcast f o => Sys2Proof.Machine.execVbcast f o s
  | .vidx f o => Sys2Proof.Machine.execVidx f o s
  | .vperm o => Sys2Proof.Machine.execVperm o s
  | .vrot imm o => Sys2Proof.Machine.execVrot imm o s
  | .vshuf o => Sys2Proof.Machine.execVshuf o s
  -- VX and VY: reductions, scans, special functions
  | .vredadd f r o => Sys2Proof.Machine.execVredadd f r o s
  | .vredmax f o => Sys2Proof.Machine.execVredmax f o s
  | .vredmin f o => Sys2Proof.Machine.execVredmin f o s
  | .vscan op f r o => Sys2Proof.Machine.execVscan op f r o s
  | .vexp2 f r o => Sys2Proof.Machine.execVexp2 f r o s
  | .vlog2 f r o => Sys2Proof.Machine.execVlog2 f r o s
  | .vrcp f r o => Sys2Proof.Machine.execVrcp f r o s
  | .vrsq f r o => Sys2Proof.Machine.execVrsq f r o s
  -- VX and VY: conversions
  | .vcvt dst src r o => Sys2Proof.Machine.execVcvt dst src r o s
  | .vqnt f zp r o => Sys2Proof.Machine.execVqnt f zp r o s
  | .vdq f zp r o => Sys2Proof.Machine.execVdq f zp r o s
  | .vsat f o => Sys2Proof.Machine.execVsat f o s
  | .vpack f o => Sys2Proof.Machine.execVpack f o s
  | .vunpk f hi o => Sys2Proof.Machine.execVunpk f hi o s
  | .vlmul f o => Sys2Proof.Machine.execVlmul f o s
  | .vllin f o => Sys2Proof.Machine.execVllin f o s
  -- VX and VY: predicates, tiles, scratchpad, decoder FIFO
  | .vpand o => Sys2Proof.Machine.execVpand o s
  | .vpor o => Sys2Proof.Machine.execVpor o s
  | .vpnot o => Sys2Proof.Machine.execVpnot o s
  | .vpcnt o => Sys2Proof.Machine.execVpcnt o s
  | .vpfst o => Sys2Proof.Machine.execVpfst o s
  | .vld o => Sys2Proof.Machine.execVld o s
  | .vst o => Sys2Proof.Machine.execVst o s
  | .vgath f o => Sys2Proof.Machine.execVgath f o s
  | .vscat f o => Sys2Proof.Machine.execVscat f o s
  | .vpop o => Sys2Proof.Machine.execVpop o s
  -- XF
  | .xexp ta nb codec => Sys2Proof.Machine.execXexp ta nb codec s
  | .xratio q => Sys2Proof.Machine.execXratio q s
  | .xtrn td ta => Sys2Proof.Machine.execXtrn td ta s
  | .xcvt td ta dst r => Sys2Proof.Machine.execXcvt td ta dst r s
  | .xpack td ta dst r => Sys2Proof.Machine.execXpack td ta dst r s
  -- MEM
  | .ldt step flt o => Sys2Proof.Machine.execLdt step flt o s
  | .ldts step flt o => Sys2Proof.Machine.execLdts step flt o s
  | .stt o => Sys2Proof.Machine.execStt o s
  | .chkpT td sx sy => Sys2Proof.Machine.execChkpT td sx sy s
  | .chkpQ td sx sy off8 => Sys2Proof.Machine.execChkpQ td sx sy off8 s
  | .pft o => Sys2Proof.Machine.execPft o s
  | .tmovIn td sx sy gg => Sys2Proof.Machine.execTmovIn td sx sy gg s
  | .tmovOut td sx sy gg => Sys2Proof.Machine.execTmovOut td sx sy gg s
  | .amo op w64 nr hh sx sy tile word => Sys2Proof.Machine.execAmo op w64 nr hh sx sy tile word s
  | .relv sc hh sy => Sys2Proof.Machine.execRelv sc hh sy s
  | .acqv sc hh sy tile k => Sys2Proof.Machine.execAcqv sc hh sy tile k s
  | .bari hh sx sy n => Sys2Proof.Machine.execBari hh sx sy n s
  | .bara bytes poison hh sx sy => Sys2Proof.Machine.execBara bytes poison hh sx sy s
  | .xcopy td => Sys2Proof.Machine.execXcopy td s
  | .xchain td => Sys2Proof.Machine.execXchain td s
  | .xgath td => Sys2Proof.Machine.execXgath td s
  | .xcoll td => Sys2Proof.Machine.execXcoll td s
  | .gstep td => Sys2Proof.Machine.execGstep td s
  | .qput sx sy q => Sys2Proof.Machine.execQput sx sy q s
  | .qget q sx imm => Sys2Proof.Machine.execQget q sx imm s
  | .rput ccw lane tap td sx j => Sys2Proof.Machine.execRput ccw lane tap td sx j s
  | .rtap ccw lane tap td sx j => Sys2Proof.Machine.execRtap ccw lane tap td sx j s
  | .pfxlook sh n1 td hh sx sy => Sys2Proof.Machine.execPfxlook sh n1 td hh sx sy s
  | .tlbi kind pkg sx sy n1 => Sys2Proof.Machine.execTlbi kind pkg sx sy n1 s
  | .otw sx sy => Sys2Proof.Machine.execOtw sx sy s
  | .oti sy => Sys2Proof.Machine.execOti sy s
  | .ota compressed dedup sy => Sys2Proof.Machine.execOta compressed dedup sy s
  | .ctxsave hh sx sy => Sys2Proof.Machine.execCtxsave hh sx sy s
  | .ctxrest hh sx sy => Sys2Proof.Machine.execCtxrest hh sx sy s
  | .ldp size sx sy disp => Sys2Proof.Machine.execLdp size sx sy disp s
  | .stp size sx sy disp => Sys2Proof.Machine.execStp size sx sy disp s
  | .keyw sx sy tag => Sys2Proof.Machine.execKeyw sx sy tag s
  | .keyz all sx => Sys2Proof.Machine.execKeyz all sx s
  -- MX
  | .mcall ua => Sys2Proof.Machine.execMcall ua s
  | .mcallw ua => Sys2Proof.Machine.execMcallw ua s
  | .mldstore ua td n1 => Sys2Proof.Machine.execMldstore ua td n1 s
  -- FAB
  | .fsend sc off td n1 => Sys2Proof.Machine.execFsend sc off td n1 s
  | .frecv sc off td n1 => Sys2Proof.Machine.execFrecv sc off td n1 s
  | .frecva op sc off td n1 => Sys2Proof.Machine.execFrecva op sc off td n1 s
  | .fmark sc k td => Sys2Proof.Machine.execFmark sc k td s
  | .frdv sc off => Sys2Proof.Machine.execFrdv sc off s
  | .fctlSync k td => Sys2Proof.Machine.execFctlSync k td s
  | .fctlStat k td => Sys2Proof.Machine.execFctlStat k td s
  -- CTL
  | .br c sc disp => Sys2Proof.Machine.execBr c sc disp s
  | .brp p pol disp => Sys2Proof.Machine.execBrp p pol disp s
  | .jmp tgt disp => Sys2Proof.Machine.execJmp tgt disp s
  | .call tgt disp => Sys2Proof.Machine.execCall tgt disp s
  | .ret => Sys2Proof.Machine.execRet s
  | .loop sc disp => Sys2Proof.Machine.execLoop sc disp s
  | .loopi cnt disp => Sys2Proof.Machine.execLoopi cnt disp s
  | .lbrk c sc => Sys2Proof.Machine.execLbrk c sc s
  | .fmtset sc => Sys2Proof.Machine.execFmtset sc s
  | .fmtseti imm => Sys2Proof.Machine.execFmtseti imm s
  | .waitb hh sx ph => Sys2Proof.Machine.execWaitb hh sx ph s
  | .waitc sc imm => Sys2Proof.Machine.execWaitc sc imm s
  | .yield => Sys2Proof.Machine.execYield s
  | .halt => Sys2Proof.Machine.execHalt s
  | .trap code => Sys2Proof.Machine.execTrap code s
  | .kcall code => Sys2Proof.Machine.execKcall code s
  | .kret => Sys2Proof.Machine.execKret s
  | .wfi => Sys2Proof.Machine.execWfi s
  | .ipi sc code => Sys2Proof.Machine.execIpi sc code s
  | .jarm sc => Sys2Proof.Machine.execJarm sc s
  -- micro-operations
  | .mma x acc ta wg ka kb kn adv => Sys2Proof.Machine.execMma x acc ta wg ka kb kn adv s
  | .mmas x acc ta wg ka kb kn adv st sacc => Sys2Proof.Machine.execMmas x acc ta wg ka kb kn adv st sacc s
  | .mldw x ts wg form sc kn => Sys2Proof.Machine.execMldw x ts wg form sc kn s
  | .mzero x acc => Sys2Proof.Machine.execMzero x acc s
  | .mdrain x acc td c0 r ar tag q qs => Sys2Proof.Machine.execMdrain x acc td c0 r ar tag q qs s
  | .msumrow x b acc ta wg => Sys2Proof.Machine.execMsumrow x b acc ta wg s
  | .macc x mode acc ta acc2 => Sys2Proof.Machine.execMacc x mode acc ta acc2 s
  | .mloop x cnt last => Sys2Proof.Machine.execMloop x cnt last s
  | .mwaitt x ta first cm => Sys2Proof.Machine.execMwaitt x ta first cm s
  | .mwaitb x hh idx ph => Sys2Proof.Machine.execMwaitb x hh idx ph s
  | .msets x tsa tsb => Sys2Proof.Machine.execMsets x tsa tsb s
  | .mend => Sys2Proof.Machine.execMend s
  -- decode, traps and machine checks
  | .decodeBundle => Sys2Proof.Machine.execDecodeBundle s
  | .loopCountExpiry => Sys2Proof.Machine.execLoopCountExpiry s
  | .preemptionOverrun => Sys2Proof.Machine.execPreemptionOverrun s
  | .trapEntry => Sys2Proof.Machine.execTrapEntry s
  | .machineCheck => Sys2Proof.Machine.execMachineCheck s
  | .stopTaken => Sys2Proof.Machine.execStopTaken s
  | .timedInstructionLate => Sys2Proof.Machine.execTimedInstructionLate s
  | .signalLands => Sys2Proof.Machine.execSignalLands s
  -- the handle unit, tiles, reports and atomics
  | .handleResolution => Sys2Proof.Machine.execHandleResolution s
  | .tileChunkLands => Sys2Proof.Machine.execTileChunkLands s
  | .faultRecordPost => Sys2Proof.Machine.execFaultRecordPost s
  | .reportLands => Sys2Proof.Machine.execReportLands s
  | .atomicApply => Sys2Proof.Machine.execAtomicApply s
  | .acquireComplete => Sys2Proof.Machine.execAcquireComplete s
  | .writebackRetry => Sys2Proof.Machine.execWritebackRetry s
  -- segments and detected errors
  | .segmentEntry => Sys2Proof.Machine.execSegmentEntry s
  | .compareMismatch => Sys2Proof.Machine.execCompareMismatch s
  | .residueMismatch => Sys2Proof.Machine.execResidueMismatch s
  | .arrayEccError => Sys2Proof.Machine.execArrayEccError s
  | .queueEntryLands => Sys2Proof.Machine.execQueueEntryLands s
  -- the sequencer and the transform units
  | .routineEnd => Sys2Proof.Machine.execRoutineEnd s
  | .microLoopExit => Sys2Proof.Machine.execMicroLoopExit s
  | .transformBeat => Sys2Proof.Machine.execTransformBeat s
  | .xexpBlockLands => Sys2Proof.Machine.execXexpBlockLands s
  -- leaving a core
  | .yieldRelease => Sys2Proof.Machine.execYieldRelease s
  | .streamRetire => Sys2Proof.Machine.execStreamRetire s
  -- engines
  | .jobStart => Sys2Proof.Machine.execJobStart s
  | .jobComplete => Sys2Proof.Machine.execJobComplete s
  | .chainCardRead => Sys2Proof.Machine.execChainCardRead s
  | .collectiveStep => Sys2Proof.Machine.execCollectiveStep s
  | .haloDelivery => Sys2Proof.Machine.execHaloDelivery s
  | .stepLoadRetest => Sys2Proof.Machine.execStepLoadRetest s
  | .fqresume => Sys2Proof.Machine.execFqresume s
  | .fqabort => Sys2Proof.Machine.execFqabort s
  | .coreres => Sys2Proof.Machine.execCoreres s
  -- launches
  | .csprodWrite => Sys2Proof.Machine.execCsprodWrite s
  | .admission => Sys2Proof.Machine.execAdmission s
  | .launchLoad => Sys2Proof.Machine.execLaunchLoad s
  | .coreStart => Sys2Proof.Machine.execCoreStart s
  | .stopreq => Sys2Proof.Machine.execStopreq s
  | .releaseWrite => Sys2Proof.Machine.execReleaseWrite s
  | .gangHoldSend => Sys2Proof.Machine.execGangHoldSend s
  | .gangAbort => Sys2Proof.Machine.execGangAbort s
  | .rendezvousHold => Sys2Proof.Machine.execRendezvousHold s
  -- the fabric
  | .portTraining => Sys2Proof.Machine.execPortTraining s
  | .scheduledFlitArrival => Sys2Proof.Machine.execScheduledFlitArrival s
  | .flitForward => Sys2Proof.Machine.execFlitForward s
  | .readRequest => Sys2Proof.Machine.execReadRequest s
  | .readResponse => Sys2Proof.Machine.execReadResponse s
  | .writeBackData => Sys2Proof.Machine.execWriteBackData s
  | .atomicRequest => Sys2Proof.Machine.execAtomicRequest s
  | .atomicResponse => Sys2Proof.Machine.execAtomicResponse s
  | .acquireRequest => Sys2Proof.Machine.execAcquireRequest s
  | .acquireResponse => Sys2Proof.Machine.execAcquireResponse s
  | .viewUpdate => Sys2Proof.Machine.execViewUpdate s
  | .forwardedResolution => Sys2Proof.Machine.execForwardedResolution s
  | .endToEndAcknowledgement => Sys2Proof.Machine.execEndToEndAcknowledgement s
  | .e2eAckSend => Sys2Proof.Machine.execE2eAckSend s
  | .marker => Sys2Proof.Machine.execMarker s
  | .markerAckSend => Sys2Proof.Machine.execMarkerAckSend s
  | .nakReceived => Sys2Proof.Machine.execNakReceived s
  | .linkReplayResend => Sys2Proof.Machine.execLinkReplayResend s
  | .linkAcknowledgement => Sys2Proof.Machine.execLinkAcknowledgement s
  | .e2eTimerExpiry => Sys2Proof.Machine.execE2eTimerExpiry s
  | .portFail => Sys2Proof.Machine.execPortFail s
  | .controlFlit => Sys2Proof.Machine.execControlFlit s
  | .hold => Sys2Proof.Machine.execHold s
  | .gangAbortMessage => Sys2Proof.Machine.execGangAbortMessage s
  | .ready => Sys2Proof.Machine.execReady s
  | .markerAcknowledgement => Sys2Proof.Machine.execMarkerAcknowledgement s
  | .errorReport => Sys2Proof.Machine.execErrorReport s
  | .frameTableWrite => Sys2Proof.Machine.execFrameTableWrite s
  | .portMapWrite => Sys2Proof.Machine.execPortMapWrite s
  | .portStateWrite => Sys2Proof.Machine.execPortStateWrite s
  | .portEnWrite => Sys2Proof.Machine.execPortEnWrite s
  -- the object manager
  | .mgo => Sys2Proof.Machine.execMgo s
  | .moveExtent => Sys2Proof.Machine.execMoveExtent s
  | .msput => Sys2Proof.Machine.execMsput s
  | .mpput => Sys2Proof.Machine.execMpput s
  -- the jack trigger
  | .jcycWrite => Sys2Proof.Machine.execJcycWrite s
  | .jackTrigger => Sys2Proof.Machine.execJackTrigger s
  -- coolant
  | .sensorSample => Sys2Proof.Machine.execSensorSample s
  | .zoneFill => Sys2Proof.Machine.execZoneFill s
  | .zoneDrain => Sys2Proof.Machine.execZoneDrain s
  | .zoneOff => Sys2Proof.Machine.execZoneOff s
  | .zoneClear => Sys2Proof.Machine.execZoneClear s
  | .fillTimeout => Sys2Proof.Machine.execFillTimeout s
  | .drainStepComplete => Sys2Proof.Machine.execDrainStepComplete s
  | .drainStepTimeout => Sys2Proof.Machine.execDrainStepTimeout s
  | .allocWrite => Sys2Proof.Machine.execAllocWrite s
  | .minfWrite => Sys2Proof.Machine.execMinfWrite s
  | .regulatorStep => Sys2Proof.Machine.execRegulatorStep s
  | .railFault => Sys2Proof.Machine.execRailFault s
  -- reset, host and attestation
  | .packageReset => Sys2Proof.Machine.execPackageReset s
  | .garmWrite => Sys2Proof.Machine.execGarmWrite s
  | .gsyncEdge => Sys2Proof.Machine.execGsyncEdge s
  | .rstreq => Sys2Proof.Machine.execRstreq s
  | .hprodWrite => Sys2Proof.Machine.execHprodWrite s
  | .dconsWrite => Sys2Proof.Machine.execDconsWrite s
  | .bulkAccess => Sys2Proof.Machine.execBulkAccess s
  | .spdmRequest => Sys2Proof.Machine.execSpdmRequest s
  | .rsplenWrite => Sys2Proof.Machine.execRsplenWrite s
  -- the crypto engine, measurements and fuses
  | .sha384 => Sys2Proof.Machine.execSha384 s
  | .ed25519Verify => Sys2Proof.Machine.execEd25519Verify s
  | .mlDsa65Verify => Sys2Proof.Machine.execMlDsa65Verify s
  | .signWithDeviceKey => Sys2Proof.Machine.execSignWithDeviceKey s
  | .devicePublicKey => Sys2Proof.Machine.execDevicePublicKey s
  | .extendMeasurementRegister => Sys2Proof.Machine.execExtendMeasurementRegister s
  | .randomBytes => Sys2Proof.Machine.execRandomBytes s
  | .cryptoCommandComplete => Sys2Proof.Machine.execCryptoCommandComplete s
  | .kext => Sys2Proof.Machine.execKext s
  | .kextComplete => Sys2Proof.Machine.execKextComplete s
  | .mlockWrite => Sys2Proof.Machine.execMlockWrite s
  | .lcadv => Sys2Proof.Machine.execLcadv s
  | .svnadv => Sys2Proof.Machine.execSvnadv s
  | .lcsWrite => Sys2Proof.Machine.execLcsWrite s
  | .dbgenWrite => Sys2Proof.Machine.execDbgenWrite s
  | .registerWrite => Sys2Proof.Machine.execRegisterWrite s
  -- the link's slot, idle flits, the system cores' start
  | .flitSlotSend => Sys2Proof.Machine.execFlitSlotSend s
  | .idleFlitArrival => Sys2Proof.Machine.execIdleFlitArrival s
  | .systemCoreStart => Sys2Proof.Machine.execSystemCoreStart s

end Sys2Proof.Machine
end

