-- ==== Sys2Proof/Machine/Run.lean ====
section
/-! DEFINITION. How the machine runs what a cycle has to do (R90 to R104): a slot's issue, the sequencer's next micro-operation,
an event, what ends the cycle; and how a field is placed where the next step runs it. -/

namespace Sys2Proof.Machine

/-! ## Issue -/

/-- Whether an instruction forms a request toward anything outside its core (R490). -/
def formsRequest (i : Instr) : Bool :=
  match i with
  | .ldt .. | .ldts .. | .stt .. | .pft .. | .amo .. | .relv .. | .acqv .. | .bari .. | .bara .. | .waitb .. | .xcopy .. | .xchain ..
  | .xgath .. | .xcoll .. | .gstep .. | .qput .. | .rput .. | .rtap .. | .pfxlook .. | .tlbi .. | .otw .. | .oti .. | .ota ..
  | .ctxsave .. | .ctxrest .. | .ldp .. | .stp .. | .fsend .. | .fmark .. => true
  | _ => false

/-- What issue notes of a slot's part: the registers and granules that the open segment records (R496, R498), the offset and the
request of the commit signature (R490), the cycle. The granules are those of the state before the issue. -/
def noteIssue (before s : State) (ins : Option Instr) : State :=
  let k := s.cur.core
  let s :=
    if (cc s).segOpen then
      let v := match ins with
        | some i => (regWrites s.cur.slot i).filterMap fun r => match r with | .v i => some i | _ => none
        | none => []
      let g := match ins with
        | some i => newGranules before i
        | none => []
      recordSlot s k v g
    else s
  let req := match ins with
    | some i => formsRequest i
    | none => false
  updCore s k fun c => { c with issues := c.issues ++ [(s.cur.slot, s.cur.off, req)], lastIssue := s.tick }

/-- What follows a slot's issue: its notes, and at CTL the successor that no transfer has chosen (R170). -/
def afterIssue (before s : State) (ins : Option Instr) : State :=
  let s := noteIssue before s ins
  if decide (s.cur.slot = 8) && ctlDecides s then fallOn s else s

/-- Whether the acting slot has issued the bundle it acts on. -/
def hasIssued (s : State) : Bool := decide ((cc s).pos.getD s.cur.slot 0 > s.cur.idx)

/-- A slot that finishes an instruction: where it has issued, what follows; a return from an exception has its own path. -/
def finishIssue (before : State) (i : Instr) (o : Host.Outcome State Fault Refusal) : Host.Outcome State Fault Refusal :=
  match o with
  | .next s => .next (if hasIssued s && decide (i ≠ .kret) then afterIssue before s (some i) else s)
  | .fault r => .fault r
  | .refused r => .refused r

/-- Slot j of core k issues its next bundle (R92, R93): an inactive field issues and does nothing. A field that is no assigned
encoding raises an illegal-instruction trap (R72, check 5); what validation lets pass holds none. -/
def issueSlot (s : State) (k j : Nat) : Host.Outcome State Fault Refusal :=
  let c := coreOf s k
  let i := nextIdx c j
  match c.queue[i]? with
  | none => .next s
  | some d =>
    if decide (c.run ≠ .running) || skips c d j || decide (s.tick < c.issueFrom) then .next s
    else
      let s := actAt s k j i d
      if !(slotOn d.bits j) then .next (afterIssue s (issued s) none)
      else
        match slotInstr d.bits j with
        | none => .next (precise s 3 0 0)
        | some ins => finishIssue s ins (exec ins s)

/-- The sequencer of core k starts the micro-operation at upc (R229, R251); one past the store's end, or one that is no assigned
encoding, parks it with an illegal-instruction fault (R231, R235). -/
def runMicro (s : State) (k : Nat) : Host.Outcome State Fault Refusal :=
  let c := coreOf s k
  let q := c.arch.seq
  let s := { s with cur := { Ctx.none with core := k, sec := q.bySec, slot := 6 } }
  if q.upc > 511 then .next (park s 3 0 0)
  else
    match decodeMicro (tblGet (0 : MicroWord) c.ustore q.upc) with
    | none => .next (park s 3 0 0)
    | some i => exec i s

/-- An event acts with its own arguments, and for the core they name. -/
def runEvent (s : State) (e : Event) : Host.Outcome State Fault Refusal :=
  exec e.instr { s with ev := e.ev, cur := { Ctx.none with core := e.ev.core } }

/-- One item of the cycle's work. -/
def runWork (s : State) (w : Work) : Host.Outcome State Fault Refusal :=
  match w with
  | .issue k j => issueSlot s k j
  | .micro k => runMicro s k
  | .event e => runEvent s e

/-! ## Events that are due, and the end of a cycle -/

/-- Takes the first event that is due off the agenda. -/
def takeDue (now : Nat) (l : List Event) : Option (Event × List Event) :=
  match l with
  | [] => none
  | e :: r =>
    if e.due ≤ now then some (e, r)
    else
      match takeDue now r with
      | some x => some (x.1, e :: x.2)
      | none => none

/-- What a core still has to do before its cycle ends. -/
inductive EndDo where
  | none
  | routine (core : Nat)
  | rewind (core : Nat) (place : Option (Nat × Nat))
  | trap (core : Nat)
  deriving DecidableEq, Repr

/-- The end of a cycle at one running core: the routine's end, then a rewind, which comes before a trap (R503). -/
def endOfCore (now k : Nat) (c : Core) : EndDo :=
  if c.run ≠ .running then .none
  else if routineEnds c now then .routine k
  else
    match c.rewAsk with
    | some p => .rewind k p
    | none => if c.ptrap.isSome then .trap k else .none

/-- The first core that still has something to do. -/
def endOf (now : Nat) (l : Tbl Core) : EndDo :=
  match l with
  | [] => .none
  | x :: r =>
    match endOfCore now x.1 x.2 with
    | .none => endOf now r
    | e => e

/-- What happens where the cycle's list is done: an event that is due, what ends the cycle at a core, the next cycle. -/
def runIdle (s : State) : Host.Outcome State Fault Refusal :=
  match takeDue s.tick s.agenda with
  | some x => runEvent { s with agenda := x.2 } x.1
  | none =>
    match endOf s.tick s.cores with
    | .routine k => runEvent s { due := s.tick, instr := .routineEnd, ev := { Ev.none with core := k } }
    | .rewind k p => .next (rewind (updCore s k fun c => { c with rewAsk := none }) k p)
    | .trap k => runEvent s { due := s.tick, instr := .trapEntry, ev := { Ev.none with core := k } }
    | .none => .next (advance s)

/-- One step: the next item of the cycle's work, or what stands behind it. -/
def runStep (s : State) : Host.Outcome State Fault Refusal :=
  match s.work with
  | w :: r => runWork { s with work := r } w
  | [] => runIdle s

/-! ## Placing a field -/

/-- The slot whose encoding a field of a width is, as decodeTableWord reads it (R74). -/
def slotOfWidth (nbits w : Nat) : Nat :=
  match nbits with
  | 24 => 4
  | 32 => if (decodeMX (BitVec.ofNat 32 w)).isSome then 6 else 7
  | 40 => if (decodeSA (BitVec.ofNat 40 w)).isSome then 0 else 8
  | 48 => 5
  | _ => 2

/-- Core 0 runs, with one dispatched bundle whose slot j holds a field, and that slot issues next. -/
def placeField (s : State) (j w : Nat) : State :=
  let d : Disp := { bits := oneField j w, pri := some 0, sec := none, secMask := 0, done := 0, lit := false, secLit := false,
                    tick := s.tick, age := 0, entry := false, halt := false, pre := [] }
  { updCore s 0 (fun c => { c with run := .running, queue := [d], pos := List.replicate 9 0, issueFrom := s.tick, ptrap := none }) with
    work := [.issue 0 j] }

/-- Core 0 runs, and its sequencer starts a micro-operation that stands at micro-address 0. -/
def placeMicro (s : State) (w : Nat) : State :=
  { updCore s 0 (fun c =>
      { c with run := .running, ustore := tblSet (0 : MicroWord) c.ustore 0 (BitVec.ofNat 128 w),
               arch := { c.arch with seq := { c.arch.seq with state := 1, upc := 0 } } }) with
    work := [.micro 0] }

/-- A field or micro-operation placed where the next step runs it. -/
def placeWord (s : State) (nbits w : Nat) : State :=
  if nbits = 128 then placeMicro s w else placeField s (slotOfWidth nbits w) w

end Sys2Proof.Machine
end

