-- ==== Sys2Proof/Machine/Step.lean ====
section
/-! DEFINITION. One step of the package, and the placing of an instruction where the next step runs it. -/

namespace Sys2Proof.Machine

/-- One step of the package: one row of the table of operations and events, or the end of a cycle. -/
def step (s : State) : Host.Outcome State Fault Refusal := runStep s

/-- The state with the field of nbits bits w standing where the next step runs it: core 0's slot of that width, or for 128 bits its
matrix sequencer. -/
def State.withFetchWord (s : State) (nbits w : Nat) : State := placeWord s nbits w

end Sys2Proof.Machine
end

