-- ==== Sys2Proof/Safety.lean ====
section
/-! DEFINITION. What counts as a safe run of the package, and the terms in which claims speak of what a step changes: the core it
changes and how, the write it sends on its way, and that all else is as it was. -/

namespace Sys2Proof

open Machine

/-- From s to t physical port p alone has changed, by f. -/
def OnlyPort (s t : State) (p : Nat) (f : Port → Port) : Prop :=
  t = { s with ports := t.ports } ∧ portOf t p = f (portOf s p) ∧ ∀ q, q ≠ p → portOf t q = portOf s q

/-- A run of n steps from s that stops nowhere. -/
def SafeFor (n : Nat) (s : State) : Prop := ∃ t, Host.Core.run core n s = .next t

/-- The memories of the package are in their canonical form: the dies' memory and the boot flash. -/
def MemoriesWf (s : State) : Prop := Memory.wf s.mem = true ∧ Memory.wf s.flash = true

/-- The instruction answers a next state, and P holds of it. -/
def Runs (i : Instr) (s : State) (P : State → Prop) : Prop := ∃ t, exec i s = .next t ∧ P t

/-- From s to t core k alone has changed, by f: every other core, every byte of memory and every other field is as it was. -/
def OnlyCore (s t : State) (k : Nat) (f : Core → Core) : Prop :=
  t = { s with cores := t.cores } ∧ coreOf t k = f (coreOf s k) ∧ ∀ j, j ≠ k → coreOf t j = coreOf s j

/-- From s to t die d alone has changed, by f. -/
def OnlyDie (s t : State) (d : Nat) (f : Die → Die) : Prop :=
  t = { s with dies := t.dies } ∧ dieOf t d = f (dieOf s d) ∧ ∀ e, e ≠ d → dieOf t e = dieOf s e

/-- From s to t zone z alone has changed, by f. -/
def OnlyZone (s t : State) (z : Nat) (f : Zone → Zone) : Prop :=
  t = { s with zones := t.zones } ∧ zoneOf t z = f (zoneOf s z) ∧ ∀ y, y ≠ z → zoneOf t y = zoneOf s y

/-- The acting slot's place in its queue once it has issued the bundle it acts on. -/
def movedOn (s : State) (c : Core) : Core := { c with pos := c.pos.set s.cur.slot (s.cur.idx + 1) }

/-- A register write that the acting slot sends on its way, due l cycles on (R94). -/
def onItsWay (s : State) (l : Nat) (w : RegWrite) : Landing :=
  { due := s.tick + l, age := s.cur.age, slot := s.cur.slot, sec := s.cur.sec, w := w }

/-- The instruction issues; its one effect is the register write w, which lands l cycles on. -/
def Lands (i : Instr) (s : State) (l : Nat) (w : RegWrite) : Prop :=
  ∃ t, exec i s = .next t ∧
    OnlyCore s t s.cur.core fun c => movedOn s { c with landing := c.landing ++ [onItsWay s l w] }

/-- The instruction issues; its one effect is to write v to scalar register rd of the acting stream, l cycles on. -/
def LandsS (i : Instr) (s : State) (l : Nat) (rd : BitVec 6) (v : Word) : Prop := Lands i s l (.s s.cur.sec rd.toNat v)

/-- The instruction issues; its one effect is to write vector register vd under its guard, l cycles on, with elements of w bits given
by f (R183, R184). -/
def LandsV (i : Instr) (s : State) (l : Nat) (o : VOp) (w : Nat) (f : Nat → Nat) : Prop :=
  ∃ val, Lands i s l (laneWrite o.vd.toNat (guardOf? s o) (gzOf o) val) ∧ ∀ e < 16384 / w, elemAt w val e = f e % 2 ^ w

/-- The write of own predicate k of the acting slot under a guard (R80). -/
def predWrite (s : State) (o : VOp) (k : Nat) (val : PReg) : RegWrite :=
  if gzOf o then .p (ownPred s k) (BitVec.allOnes 512) (val &&& guardOf? s o) else .p (ownPred s k) (guardOf? s o) val

/-- The instruction issues; its one effect is to write own predicate k under its guard, l cycles on, with bit i given by f. -/
def LandsP (i : Instr) (s : State) (l : Nat) (o : VOp) (k : Nat) (f : Nat → Bool) : Prop :=
  ∃ val, Lands i s l (predWrite s o k val) ∧ ∀ i < 512, val.getLsbD i = f i

/-- The instruction issues, and the acting core changes by f besides; nothing else does. -/
def IssuesWith (i : Instr) (s : State) (f : Core → Core) : Prop :=
  ∃ t, exec i s = .next t ∧ OnlyCore s t s.cur.core fun c => movedOn s (f c)

/-- The precise trap that the acting slot asks for at its bundle (R102, R313, R314). -/
def preciseTrap (s : State) (cause : Nat) (i2 i3 : Word) : Trap :=
  { cause := cause, slot := s.cur.slot, sec := s.cur.sec, off := s.cur.off, info0 := BitVec.ofNat 64 cause,
    info1 := info1Of s.cur.off s.cur.sec, info2 := i2, info3 := i3, late := false, rt := false, age := s.cur.age, wait := false }

/-- The instruction has no effect of its own: its slot has not issued it, and where the core has no trap to take yet it takes this
one at the end of the cycle (R102). -/
def Faults (i : Instr) (s : State) (cause : Nat) (i2 i3 : Word) : Prop :=
  ∃ t, exec i s = .next t ∧ OnlyCore s t s.cur.core fun c =>
    match c.ptrap with
    | some p => if faultBefore s.cur.age s.cur.slot p then { c with ptrap := some (preciseTrap s cause i2 i3) } else c
    | none => { c with ptrap := some (preciseTrap s cause i2 i3) }

/-- From s to t the acting core has changed by f, n numbers have been used, the requests rs and the events es added; every other core,
every byte of memory and every other field is as it was. -/
def Sent (s t : State) (f : Core → Core) (n : Nat) (rs : List Req) (es : List Event) : Prop :=
  t = { s with cores := t.cores, reqs := s.reqs ++ rs, nextId := s.nextId + n, agenda := s.agenda ++ es } ∧
    coreOf t s.cur.core = f (coreOf s s.cur.core) ∧ ∀ j, j ≠ s.cur.core → coreOf t j = coreOf s j

/-- The instruction issues, with that effect. -/
def Sends (i : Instr) (s : State) (f : Core → Core) (n : Nat) (rs : List Req) (es : List Event) : Prop :=
  ∃ t, exec i s = .next t ∧ Sent s t (fun c => movedOn s (f c)) n rs es

/-- The request that the acting slot makes of the handle unit (R264): under the next number, with the domain and the die of its core,
its answer no sooner than 12 cycles on. -/
def asked (s : State) (h : Word) (op : ReqOp) (w : Nat) (elems : List (Nat × Int)) (st : ReqSt) : Req :=
  { id := s.nextId, core := s.cur.core, sec := s.cur.sec, off := s.cur.off, handler := (cc s).intrap,
    die := coreDie s.cur.core, dom := (cc s).dom, handle := h, op := op, w := w, elems := elems, data := [], left := [],
    ready := s.tick + 12, rdAt := none, st := st, eng := none, det := none, miss := [], bad := none, asks := 0,
    want := [], bads := [] }

/-- The handle unit takes up request id at a tick. -/
def takenUp (due id : Nat) : Event := { due := due, instr := .handleResolution, ev := { Ev.none with id := id } }

/-- A core whose tile t has been read for the first time: the comparison of R38 is done. -/
def readOnce (c : Core) (t : BitVec 6) : Core := updTile c t.toNat fun x => { x with cmp := false }

/-- A core with a further landing of the acting slot. -/
def withLanding (s : State) (c : Core) (l : Nat) (w : RegWrite) : Core := { c with landing := c.landing ++ [onItsWay s l w] }

/-- A core with a further sample of the acting slot, d cycles on, whose result lands l cycles on. -/
def withSample (s : State) (c : Core) (d l : Nat) (k : Sample) : Core :=
  { c with samples := c.samples ++
      [{ due := s.tick + d, land := s.tick + l, held := false, age := s.cur.age, slot := s.cur.slot, sec := s.cur.sec, k := k }] }

/-- A core with a further scratchpad write of the acting slot, 5 cycles on (R350). -/
def withStore (s : State) (c : Core) (k : StoreKind) : Core :=
  { c with stores := c.stores ++ [{ due := s.tick + 5, group := slotGroup, order := s.cur.age * 16 + s.cur.slot, sec := s.cur.sec, k := k }] }

/-- No micro-loop of the acting core's routine ends at the micro-operation that acts. -/
def straight (s : State) : Prop := ∀ e ∈ (seqr s).loops.getLast?, e.stop ≠ (seqr s).upc

/-- The micro-operation starts and the routine goes on behind it; the acting core changes by g, and its sequencer by f, besides. -/
def MicroGoesOn (i : Instr) (s : State) (g : Core → Core) (f : Sequencer → Sequencer) : Prop :=
  ∃ t, exec i s = .next t ∧ OnlyCore s t s.cur.core fun c =>
    { g c with arch := { (g c).arch with seq := { f (g c).arch.seq with upc := c.arch.seq.upc + 1, nextStart := s.tick + 1, waiting := false } } }

/-- The micro-operation starts: its work w occupies its unit for occ cycles and completes tail cycles later, u writing down until when
the unit is taken, and the routine goes on behind it. Besides, the core changes by g, and in what its open segment records: in
protected mode the accumulators new to the record are copied to a40 on, behind those recorded before (R33, R496). Nothing else
changes. -/
def Starts (i : Instr) (s : State) (g : Core → Core) (w : MicroWork) (occ tail : Nat) (u : Nat → Sequencer → Sequencer) : Prop :=
  ∃ t y, exec i s = .next t ∧ t = { s with cores := t.cores, nextId := s.nextId + 1 } ∧
    (∀ j, j ≠ s.cur.core → coreOf t j = coreOf s j) ∧
    y.work = w ∧ y.last = s.tick + occ - 1 ∧ y.done = s.tick + occ - 1 + tail ∧
    let q := seqr s
    let d := coreOf t s.cur.core
    let p := d.arch.seq
    p = { u (s.tick + occ) q with
          fly := q.fly.filter (fun f => decide (s.tick ≤ f.done)) ++ [y], upc := q.upc + 1, nextStart := s.tick + 1, waiting := false } ∧
    d = { g (cc s) with
          arch := { (g (cc s)).arch with seq := p, acc := d.arch.acc }, readers := d.readers, undo := d.undo, undoA := d.undoA,
          undoW := d.undoW, undoG := d.undoG, noRewind := d.noRewind } ∧
    ∃ new : List Nat, d.undoA = (cc s).undoA ++ new ∧ ((cc s).mode = false → new = []) ∧
      let n := 40 + (cc s).undoA.length
      (∀ i < new.length, accOf d (n + i) = accOf (cc s) (new.getD i 0)) ∧
      ∀ e, e < n ∨ n + new.length ≤ e → accOf d e = accOf (cc s) e

end Sys2Proof
end

