-- ==== Sys2Proof/Certificates/Slice0/Obligations.lean ====
section
/-! DEFINITION. The statements for the provers. -/

open Sys2Proof Sys2Proof.Machine

/-! ## Registers: reads, and writes that land -/

/-- R101: a slot reads its own scalar register exactly as it stands.

R100: a slot that reads another slot's scalar register receives the value it holds now or one of those it held since the last align
bundle. Nothing says which.

R94, R96, R107: of the writes of one scalar register that its stream's slots land in a cycle the last in program order stands; a
register with no write due keeps its value; what is not due stays on its way.

What a write changes as it lands: the register it names and no other of its file. Bits 19:9 of word 1 of a generator are reserved and
stay zero (R10, R41).

R80: a guarded vector write gives a guard-true lane its result; a guard-false lane keeps its old value, or receives zero where the guard
zeroes. -/
def Obligations.ReadsAndLandings : Prop :=
  (∀ (s : State) (i : BitVec 6), sOwner i.toNat = s.cur.slot →
    readS s i = tblGet (0 : Word) (strmOf (cc s) s.cur.sec).s i.toNat) ∧
  (∀ (s : State) (i : BitVec 6),
    readS s i = tblGet (0 : Word) (strmOf (cc s) s.cur.sec).s i.toNat ∨
      ∃ e ∈ (cc s).alignHist, e.1 = keyS s.cur.sec i.toNat ∧ e.2.2 ≠ s.cur.slot ∧ readS s i = BitVec.ofNat 64 e.2.1) ∧
  (∀ (c : Core) (now : Nat) (sec : Bool) (i : Nat),
    (∀ x ∈ c.landing, ∀ v, x.due ≤ now → x.w = .s sec i v →
      (∀ y ∈ c.landing, y.due ≤ now → (∃ u, y.w = .s sec i u) → y = x ∨ (y.sec = x.sec ∧ landsBefore x y = false)) →
      tblGet (0 : Word) (strmOf (landAll c now) sec).s i = v) ∧
    ((∀ x ∈ c.landing, x.due ≤ now → ∀ v, x.w ≠ .s sec i v) →
      tblGet (0 : Word) (strmOf (landAll c now) sec).s i = tblGet (0 : Word) (strmOf c sec).s i) ∧
    (landAll c now).landing = c.landing.filter fun x => decide (now < x.due)) ∧
  (∀ (c : Core) (slot i j : Nat) (sec : Bool) (v : Word) (lanes m : PReg),
    tblGet (0 : Word) (strmOf (applyWrite c slot (.s sec i v)) sec).s j = (if j = i then v else tblGet (0 : Word) (strmOf c sec).s j) ∧
    strmOf (applyWrite c slot (.s sec i v)) (!sec) = strmOf c (!sec) ∧
    tblGet (0 : Word) (applyWrite c slot (.h i v)).arch.h j = (if j = i then v else tblGet (0 : Word) c.arch.h j) ∧
    tblGet (0 : Word) (applyWrite c slot (.mp i v)).arch.mp j = (if j = i then v else tblGet (0 : Word) c.arch.mp j) ∧
    (strmOf (applyWrite c slot (.link sec v)) sec).link = v ∧
    (∀ g w, w < 8 → ∀ g' w', w' < 8 → tblGet (0 : Word) (strmOf (applyWrite c slot (.g sec g w v)) sec).g (8 * g' + w') =
      if g' = g ∧ w' = w then (if w = 1 then v &&& ~~~(0xFFE00#64) else v) else tblGet (0 : Word) (strmOf c sec).g (8 * g' + w')) ∧
    ∀ n < 512, (tblGet (0 : PReg) (applyWrite c slot (.p i lanes m)).arch.p i).getLsbD n =
      if lanes.getLsbD n then m.getLsbD n else (tblGet (0 : PReg) c.arch.p i).getLsbD n) ∧
  (∀ (c : Core) (slot i : Nat) (g : PReg) (gz : Bool) (val lane : Nat), lane < 512 →
    elemAt 32 (tblGet (0 : VReg) (applyWrite c slot (laneWrite i g gz val)).arch.v i).toNat lane =
      if g.getLsbD lane then elemAt 32 val lane
      else if gz then 0 else elemAt 32 (tblGet (0 : VReg) c.arch.v i).toNat lane)

/-! ## SA and SB -/

/-- What ADD to SEL write (R146), a, b and c being the values of ra, rb and rc and n the shift amount; with their latencies, and that
nothing else changes. DIV, REM, MULH, MIN and MAX are stated for both of their forms.

What the shifts write (R146): the amount is the low six bits of rb, or the immediate.

What CLZ, CTZ and POPC write (R146): the number of leading zeros, of trailing zeros, of ones.

What CMP writes (R146, R84): 1 where the condition holds, else 0; the last four conditions compare as N64. -/
def Obligations.IntegerResults : Prop :=
  (∀ (s : State) (rd ra rb rc : BitVec 6),
    let a := readS s ra
    let b := readS s rb
    LandsS (.add rd ra rb) s 1 rd (a + b) ∧ LandsS (.sub rd ra rb) s 1 rd (a - b) ∧
    (∀ imm, LandsS (.addi rd ra imm) s 1 rd (a + imm.signExtend 64)) ∧
    LandsS (.mul rd ra rb) s 3 rd (a * b) ∧
    LandsS (.mulh false rd ra rb) s 3 rd (BitVec.ofInt 64 (a.toInt * b.toInt / 2 ^ 64)) ∧
    LandsS (.mulh true rd ra rb) s 3 rd (BitVec.ofNat 64 (a.toNat * b.toNat / 2 ^ 64)) ∧
    LandsS (.div false rd ra rb) s 20 rd (if b = 0 then BitVec.allOnes 64 else a.sdiv b) ∧
    LandsS (.div true rd ra rb) s 20 rd (if b = 0 then BitVec.allOnes 64 else a / b) ∧
    LandsS (.rem false rd ra rb) s 20 rd (if b = 0 then a else a.srem b) ∧
    LandsS (.rem true rd ra rb) s 20 rd (if b = 0 then a else a % b) ∧
    LandsS (.and rd ra rb) s 1 rd (a &&& b) ∧ LandsS (.or rd ra rb) s 1 rd (a ||| b) ∧
    LandsS (.xor rd ra rb) s 1 rd (a ^^^ b) ∧ LandsS (.andn rd ra rb) s 1 rd (a &&& ~~~b) ∧
    LandsS (.min false rd ra rb) s 1 rd (if a.sle b then a else b) ∧
    LandsS (.min true rd ra rb) s 1 rd (if a.ule b then a else b) ∧
    LandsS (.max false rd ra rb) s 1 rd (if a.sle b then b else a) ∧
    LandsS (.max true rd ra rb) s 1 rd (if a.ule b then b else a) ∧
    LandsS (.sel rd ra rb rc) s 1 rd (if readS s rc = 0 then b else a)) ∧
  (∀ (s : State) (rd ra rb n : BitVec 6),
    let a := readS s ra
    let k := (readS s rb).toNat % 64
    LandsS (.shl rd ra (.reg rb)) s 1 rd (a <<< k) ∧ LandsS (.shl rd ra (.imm n)) s 1 rd (a <<< n.toNat) ∧
    LandsS (.shr rd ra (.reg rb)) s 1 rd (a >>> k) ∧ LandsS (.shr rd ra (.imm n)) s 1 rd (a >>> n.toNat) ∧
    LandsS (.sar rd ra (.reg rb)) s 1 rd (a.sshiftRight k) ∧ LandsS (.sar rd ra (.imm n)) s 1 rd (a.sshiftRight n.toNat) ∧
    LandsS (.rot rd ra (.reg rb)) s 1 rd (a >>> k ||| a <<< (64 - k)) ∧
    LandsS (.rot rd ra (.imm n)) s 1 rd (a >>> n.toNat ||| a <<< (64 - n.toNat))) ∧
  (∀ (s : State) (rd ra : BitVec 6),
    let a := readS s ra
    (∃ n ≤ 64, LandsS (.clz rd ra) s 1 rd (BitVec.ofNat 64 n) ∧ (∀ i < n, a.getLsbD (63 - i) = false) ∧
      (n < 64 → a.getLsbD (63 - n) = true)) ∧
    (∃ n ≤ 64, LandsS (.ctz rd ra) s 1 rd (BitVec.ofNat 64 n) ∧ (∀ i < n, a.getLsbD i = false) ∧
      (n < 64 → a.getLsbD n = true)) ∧
    LandsS (.popc rd ra) s 1 rd (BitVec.ofNat 64 ((List.range 64).countP fun i => a.getLsbD i))) ∧
  (∀ (s : State) (rd ra rb : BitVec 6),
    let a := readS s ra
    let b := readS s rb
    let w (p : Bool) : Word := if p then 1 else 0
    LandsS (.cmp .eq rd ra rb) s 1 rd (w (a == b)) ∧ LandsS (.cmp .ne rd ra rb) s 1 rd (w (a != b)) ∧
    LandsS (.cmp .lt rd ra rb) s 1 rd (w (a.slt b)) ∧ LandsS (.cmp .le rd ra rb) s 1 rd (w (a.sle b)) ∧
    LandsS (.cmp .gt rd ra rb) s 1 rd (w (b.slt a)) ∧ LandsS (.cmp .ge rd ra rb) s 1 rd (w (b.sle a)) ∧
    LandsS (.cmp .ltn rd ra rb) s 1 rd (w (a.ult b)) ∧ LandsS (.cmp .len rd ra rb) s 1 rd (w (a.ule b)) ∧
    LandsS (.cmp .gtn rd ra rb) s 1 rd (w (b.ult a)) ∧ LandsS (.cmp .gen rd ra rb) s 1 rd (w (b.ule a)))

/-- R147: MOVI writes its immediate sign-extended; MOVHI shifts rd left by 27 and puts its immediate in; a MOVI with bits 63:54 and two
MOVHIs with bits 53:27 and 26:0 build any 64-bit constant; one with bits 31:27 and one MOVHI any 32-bit value with bit 31 clear.

R148: the bits that BFX, BFX.s and BFI write, for every legal position and length; a field that passes bit 63 is no legal encoding. -/
def Obligations.ConstantsAndFields : Prop :=
  ((∀ (s : State) (rd : BitVec 6) (imm : BitVec 27),
    LandsS (.movi rd imm) s 1 rd (imm.signExtend 64) ∧
    LandsS (.movhi rd imm) s 1 rd (readS s rd <<< 27 ||| imm.setWidth 64)) ∧
  (∀ x : Word, x.toNat < 2 ^ 31 →
    (((x.extractLsb' 27 5).setWidth 27).signExtend 64) <<< 27 ||| (x.extractLsb' 0 27).setWidth 64 = x) ∧
  ∀ x : Word,
    (((((x.extractLsb' 54 10).signExtend 27).signExtend 64) <<< 27 ||| (x.extractLsb' 27 27).setWidth 64) <<< 27 |||
      (x.extractLsb' 0 27).setWidth 64) = x) ∧
  ((∀ (x : Bool) (rd ra pos len1 : BitVec 6), 64 < pos.toNat + len1.toNat + 1 →
    legal (.bfx x rd ra pos len1) = false ∧ legal (.bfi rd ra pos len1) = false) ∧
  ∀ (s : State) (rd ra pos len1 : BitVec 6), pos.toNat + len1.toNat + 1 ≤ 64 →
    let a := readS s ra
    let p := pos.toNat
    let n := len1.toNat + 1
    (∃ v, LandsS (.bfx false rd ra pos len1) s 1 rd v ∧
      ∀ i < 64, v.getLsbD i = if i < n then a.getLsbD (p + i) else false) ∧
    (∃ v, LandsS (.bfx true rd ra pos len1) s 1 rd v ∧
      ∀ i < 64, v.getLsbD i = if i < n then a.getLsbD (p + i) else a.getLsbD (p + n - 1)) ∧
    (∃ v, LandsS (.bfi rd ra pos len1) s 1 rd v ∧
      ∀ i < 64, v.getLsbD i = if p ≤ i ∧ i < p + n then a.getLsbD (i - p) else (readS s rd).getLsbD i))

/-- R150: LDS, STS and AMOS at an address that is no multiple of the access's bytes raise the scratchpad-alignment fault, and else at one
whose access passes the end of the core's scratchpad the scratchpad-bound fault; the sizes are those of R23. -/
def Obligations.ScratchpadFaults : Prop :=
  ∀ (s : State) (rd ra rb rc : BitVec 6) (sz : BitVec 2) (sx w64 : Bool) (disp : BitVec 18) (op : AmosOp),
    let size := if s.cur.core < 384 then 2048 * 1024 else if s.cur.core < 448 then 512 * 1024 else 1024 * 1024
    let a := readS s ra + disp.signExtend 64
    let nb := 2 ^ sz.toNat
    let b := readS s ra
    let mb := if w64 then 8 else 4
    (a.toNat % nb ≠ 0 → Faults (.lds rd ra sz sx disp) s 12 a 0 ∧ Faults (.sts rd ra sz disp) s 12 a 0) ∧
    (a.toNat % nb = 0 → a.toNat + nb > size → Faults (.lds rd ra sz sx disp) s 13 a 0 ∧ Faults (.sts rd ra sz disp) s 13 a 0) ∧
    (b.toNat % mb ≠ 0 → Faults (.amos op w64 rd ra rb rc) s 12 b 0) ∧
    (b.toNat % mb = 0 → b.toNat + mb > size → Faults (.amos op w64 rd ra rb rc) s 13 b 0)

/-- LDS, STS and AMOS at an aligned address within the scratchpad (R149, R151, R152): LDS samples in c + 2 and lands in c + 4, STS performs
in c + 5, AMOS reads and writes in c + 5 and lands in c + 6. Nothing else changes when they issue.

What the accesses do when they perform (R149, R152): a store writes its bytes and no other; a sample delivers the bytes extended by
zeros or by the sign; AMOS writes what its operation gives for the old value and delivers the old value. Neither delivers anything where
the landing buffer has been emptied since its bundle was dispatched (R105). -/
def Obligations.ScratchpadAccess : Prop :=
  (∀ (s : State) (rd ra rb rc : BitVec 6) (sz : BitVec 2) (sx w64 : Bool) (disp : BitVec 18) (op : AmosOp),
    let a := (readS s ra + disp.signExtend 64).toNat
    let nb := 2 ^ sz.toNat
    let b := (readS s ra).toNat
    let mb := if w64 then 8 else 4
    (a % nb = 0 → a + nb ≤ scratchSize s.cur.core →
      IssuesWith (.lds rd ra sz sx disp) s (fun c => { c with samples := c.samples ++
        [{ due := s.tick + 2, land := s.tick + 4, held := false, age := s.cur.age, slot := s.cur.slot, sec := s.cur.sec,
           k := .lds s.cur.sec rd.toNat a nb sx }] }) ∧
      IssuesWith (.sts rd ra sz disp) s (fun c => { c with stores := c.stores ++
        [{ due := s.tick + 5, group := slotGroup, order := s.cur.age * 16 + s.cur.slot, sec := s.cur.sec,
           k := .bytes a (bytesOf (readS s rd).toNat nb) }] })) ∧
    (b % mb = 0 → b + mb ≤ scratchSize s.cur.core →
      IssuesWith (.amos op w64 rd ra rb rc) s (fun c => { c with stores := c.stores ++
        [{ due := s.tick + 5, group := slotGroup, order := s.cur.age * 16 + s.cur.slot, sec := s.cur.sec,
           k := .amos s.cur.sec rd.toNat b mb op (readS s rb) (readS s rc) (s.tick + 6) false }] }))) ∧
  ((∀ (c : Core) (now a : Nat) (bs : List Byte) (x : Store), x.k = .bytes a bs → ∀ b,
    memGet (runStore c now x).arch.scratch b = if a ≤ b ∧ b < a + bs.length then bs.getD (b - a) 0 else memGet c.arch.scratch b) ∧
  (∀ (s : State) (k : Nat) (x : PendSample) (sec : Bool) (rd a nb : Nat) (sx : Bool),
    x.k = .lds sec rd a nb sx → nb = 1 ∨ nb = 2 ∨ nb = 4 ∨ nb = 8 → x.held = false →
    ∃ v : Word, coreOf (runSample s k x) k =
        (if x.age < (coreOf s k).dropAge then coreOf s k
         else { coreOf s k with landing := (coreOf s k).landing ++
           [{ due := x.land, age := x.age, slot := x.slot, sec := x.sec, w := .s sec rd v }] }) ∧
      (v.setWidth (8 * nb)).toNat = memRead (coreOf s k).arch.scratch a nb ∧
      v = if sx then (v.setWidth (8 * nb)).signExtend 64 else (v.setWidth (8 * nb)).setWidth 64) ∧
  ∀ (c : Core) (now a : Nat) (x : Store) (sec : Bool) (rd : Nat) (op : AmosOp) (y z : Word) (ld : Nat) (w64 : Bool),
    let nb := if w64 then 8 else 4
    x.k = .amos sec rd a nb op y z ld false →
    let w := 8 * nb
    let old := BitVec.ofNat w (memRead c.arch.scratch a nb)
    let new : BitVec w := match op with
      | .add => old + y.setWidth w
      | .min => if old.sle (y.setWidth w) then old else y.setWidth w
      | .max => if old.sle (y.setWidth w) then y.setWidth w else old
      | .minn => if old.ule (y.setWidth w) then old else y.setWidth w
      | .maxn => if old.ule (y.setWidth w) then y.setWidth w else old
      | .xchg => y.setWidth w
      | .cas => if old = z.setWidth w then y.setWidth w else old
      | .and => old &&& y.setWidth w
      | .or => old ||| y.setWidth w
    memRead (runStore c now x).arch.scratch a nb = new.toNat ∧
      (∀ b, b < a ∨ a + nb ≤ b → memGet (runStore c now x).arch.scratch b = memGet c.arch.scratch b) ∧
      (runStore c now x).landing = if x.order / 16 < c.dropAge then c.landing else c.landing ++
        [{ due := ld, age := x.order / 16, slot := x.order % 16, sec := sec,
           w := .s sec rd (if op = .minn ∨ op = .maxn then old.setWidth 64 else old.signExtend 64) }])

/-- FADD to FSQRT in a mode that draws nothing (R153): the exact result of the operands as read, rounded once, in the low bits of rd; FDIV
and FSQRT take 16 cycles in FP32 and 28 in FP64, the others 4.

FADD to FSQRT in mode rst (R125, R126, R153): the slot's generator makes one xorshift step, whose low 16 bits decide the rounding, and
nothing else changes but the result's landing. -/
def Obligations.FloatResults : Prop :=
  (∀ (s : State) (dbl : Bool) (r : RSel) (rd ra rb rc : BitVec 6) (m : RM),
    resolveRm r (readFmt s) = some m → m ≠ .rst →
    let t := if dbl then FF.fp64 else FF.fp32
    let val (i : BitVec 6) := decodeFlt t (fmtFtz (readFmt s)) (readS s i).toNat
    let out (x : Machine.Num) : Word := BitVec.ofNat 64 (encodeFlt t (rndOf m (readFmt s) 0) x)
    let slow := if dbl then 28 else 16
    LandsS (.fadd dbl r rd ra rb) s 4 rd (out (Machine.Num.add m (val ra) (val rb))) ∧
    LandsS (.fsub dbl r rd ra rb) s 4 rd (out (Machine.Num.add m (val ra) (val rb).negate)) ∧
    LandsS (.fmul dbl r rd ra rb) s 4 rd (out (Machine.Num.mul (val ra) (val rb))) ∧
    LandsS (.ffma dbl r rd ra rb rc) s 4 rd (out (Machine.Num.add m (Machine.Num.mul (val ra) (val rb)) (val rc))) ∧
    LandsS (.fdiv dbl r rd ra rb) s slow rd (out (Machine.Num.div (val ra) (val rb))) ∧
    LandsS (.fsqrt dbl r rd ra) s slow rd (out (Machine.Num.sqrt (val ra)))) ∧
  (∀ (s : State) (dbl : Bool) (r : RSel) (rd ra rb rc : BitVec 6),
    resolveRm r (readFmt s) = some .rst →
    let t := if dbl then FF.fp64 else FF.fp32
    let val (i : BitVec 6) := decodeFlt t (fmtFtz (readFmt s)) (readS s i).toNat
    let key := seedOf s.cur.slot
    let x := tblGet (1 : Word) (cc s).arch.seeds key
    let y := x ^^^ (x <<< 13)
    let z := y ^^^ (y >>> 7)
    let drawn := z ^^^ (z <<< 17)
    let out (n : Machine.Num) : Word := BitVec.ofNat 64 (encodeFlt t (rndOf .rst (readFmt s) (drawn.toNat % 65536)) n)
    let draws (i : Instr) (l : Nat) (v : Word) : Prop := IssuesWith i s fun c =>
      { c with arch := { c.arch with seeds := tblSet (1 : Word) c.arch.seeds key drawn },
               landing := c.landing ++ [onItsWay s l (.s s.cur.sec rd.toNat v)] }
    let slow := if dbl then 28 else 16
    draws (.fadd dbl r rd ra rb) 4 (out (Machine.Num.add .rst (val ra) (val rb))) ∧
    draws (.fsub dbl r rd ra rb) 4 (out (Machine.Num.add .rst (val ra) (val rb).negate)) ∧
    draws (.fmul dbl r rd ra rb) 4 (out (Machine.Num.mul (val ra) (val rb))) ∧
    draws (.ffma dbl r rd ra rb rc) 4 (out (Machine.Num.add .rst (Machine.Num.mul (val ra) (val rb)) (val rc))) ∧
    draws (.fdiv dbl r rd ra rb) slow (out (Machine.Num.div (val ra) (val rb))) ∧
    draws (.fsqrt dbl r rd ra) slow (out (Machine.Num.sqrt (val ra))))

/-- FCMP (R154, R84): a NaN operand makes ne and uo hold and no other condition; else the values decide. CVT rounds under its mode, or under
none where it rounds nothing (R155, R584). A rounding selection that fmt.rm makes inapplicable is a format fault (R50). -/
def Obligations.FloatCompareConvert : Prop :=
  ∀ (s : State) (dbl : Bool) (r : RSel) (rd ra rb : BitVec 6) (c : FCond) (dst src : CvtTy),
    let t := if dbl then FF.fp64 else FF.fp32
    let x := decodeFlt t (fmtFtz (readFmt s)) (readS s ra).toNat
    let y := decodeFlt t (fmtFtz (readFmt s)) (readS s rb).toNat
    let w (p : Bool) : Word := if p then 1 else 0
    LandsS (.fcmp c dbl rd ra rb) s 2 rd (w (if x.isNan || y.isNan then decide (c = .ne ∨ c = .uo)
      else match c with
        | .eq => decide (Machine.Num.cmp x y = 0) | .ne => decide (Machine.Num.cmp x y ≠ 0) | .lt => decide (Machine.Num.cmp x y < 0)
        | .le => decide (Machine.Num.cmp x y ≤ 0) | .gt => decide (Machine.Num.cmp x y > 0) | .ge => decide (Machine.Num.cmp x y ≥ 0)
        | .uo => false | .or => true)) ∧
    (cvtRoundsNothing dst src = true →
      LandsS (.cvt dst src r rd ra) s 3 rd (cvtVal dst src (rndOf .rne (readFmt s) 0) (readS s ra))) ∧
    (∀ m, cvtRoundsNothing dst src = false → resolveRm r (readFmt s) = some m → m ≠ .rst →
      LandsS (.cvt dst src r rd ra) s 3 rd (cvtVal dst src (rndOf m (readFmt s) 0) (readS s ra))) ∧
    (resolveRm r (readFmt s) = none → Faults (.fadd dbl r rd ra rb) s 7 0 0 ∧ Faults (.fsqrt dbl r rd ra) s 7 0 0 ∧
      (cvtRoundsNothing dst src = false → Faults (.cvt dst src r rd ra) s 7 0 0))

/-- MFC and MTC (R19, R45, R156): at a level that has the register, MFC writes what the register holds, gcyc among them, and MTC's write of
link lands after 2 cycles; at app level a kernel-only register is a privileged-instruction trap, and so is any MTC but of link.

R48, R50, R52, R55, R157: what MTC's writes leave where a register has behaviour of its own: csw takes ie and intrap alone, fmt keeps
its low 13 bits zero, link 32 bits, ktvb is aligned to 512 bytes, a seed of 0 stores 1; a register marked RO ignores the write. -/
def Obligations.ControlRegisters : Prop :=
  (∀ (s : State) (rd : BitVec 6) (cr : BitVec 8),
    let app := levelOf s.cur.core (cc s) = 0
    let kernelOnly := cr.toNat = 0x08 ∨ cr.toNat = 0x0C ∨ 0x20 ≤ cr.toNat
    (¬app ∨ ¬kernelOnly → LandsS (.mfc rd cr) s 2 rd (readCr s cr.toNat)) ∧
    LandsS (.mfc rd 0x02) s 2 rd s.gcyc ∧
    (app → kernelOnly → Faults (.mfc rd cr) s 4 0 0) ∧
    Lands (.mtc 0x04 rd) s 2 (.link s.cur.sec ((readS s rd).setWidth 32 |>.setWidth 64)) ∧
    (¬app → cr.toNat ≠ 0x04 → cr.toNat ≠ 0x0C → Lands (.mtc cr rd) s 2 (.cr s.cur.sec cr.toNat (readS s rd))) ∧
    (app → cr.toNat ≠ 0x04 → Faults (.mtc cr rd) s 4 0 0)) ∧
  (∀ (c : Core) (sec : Bool) (v : Word),
    writeCr c sec 0x00 v = { c with ie := v.getLsbD 59, intrap := v.getLsbD 58 } ∧
    (strmOf (writeCr c sec 0x03 v) sec).fmt = (v.setWidth 32) &&& 0xFFFFE000#32 ∧
    (strmOf (writeCr c sec 0x04 v) sec).link = (v.setWidth 32).setWidth 64 ∧
    (writeCr c sec 0x08 v).ktvb = v &&& ~~~(511#64) ∧
    (writeCr c sec 0x0C v).htb = v ∧
    (∀ n < 4, tblGet (0 : Word) (writeCr c sec (0x20 + n) v).trapinfo n = v) ∧
    (∀ n < 7, tblGet (1 : Word) (writeCr c sec (0x28 + n) v).arch.seeds n = if v = 0 then 1 else v) ∧
    ∀ n ∈ [0x01, 0x02, 0x05, 0x06, 0x07, 0x09, 0x0A, 0x0B], writeCr c sec n v = c)

/-- A write of htb (R156): it lands after 2 cycles, the handle store is taken from the new table, until then every HBIND waits, and the
writing slot issues nothing further for 64 cycles.

HBIND and HMOV (R158, R159): HBIND of an index from 1 to n − 1 loads that entry of the handle store, with its rights narrowed by the low
12 bits of rb in the second form, after 8 cycles; index 0 or one from n on is a rights trap; HMOV copies.

HQRY (R160): home and rights come from the handle alone. The other codes are answered after 8 cycles from the entry that the unit holds,
or with all ones where it holds none, and then the unit fetches the entry: of this package's table, or by a request to the object's home
where none is open yet; index 0 is a rights trap, and for codes 3 to 6 so is another generation than the object's. -/
def Obligations.Handles : Prop :=
  (∀ (s : State) (rd : BitVec 6), levelOf s.cur.core (cc s) ≠ 0 →
    IssuesWith (.mtc 0x0C rd) s (fun c =>
      { c with landing := c.landing ++ [onItsWay s 2 (.cr s.cur.sec 0x0C (readS s rd))],
               slotHold := (s.cur.slot, s.tick + 65) :: c.slotHold, hReload := s.tick + 66 }) ∧
    ∀ (t : State) (hd : BitVec 5) (ra : BitVec 6) (mask : Option (BitVec 6)),
      t.tick < (cc t).hReload → exec (.hbind hd ra mask) t = .next t) ∧
  (∀ (s : State) (hd ha : BitVec 5) (ra rb : BitVec 6), (cc s).hReload ≤ s.tick →
    let i := (readS s ra).toNat
    let n := min (cc s).hcount 256
    let e := tblGet (0 : Word) (cc s).hstore i
    (0 < i → i < n →
      Lands (.hbind hd ra none) s 8 (.h hd.toNat e) ∧
      ∃ v : Word, Lands (.hbind hd ra (some rb)) s 8 (.h hd.toNat v) ∧
        ∀ j < 64, v.getLsbD j = (e.getLsbD j && (decide (12 ≤ j) || (readS s rb).getLsbD j))) ∧
    (i = 0 ∨ n ≤ i → Faults (.hbind hd ra none) s 23 0 0 ∧ Faults (.hbind hd ra (some rb)) s 23 0 0) ∧
    Lands (.hmov hd ha) s 1 (.h hd.toNat (readH s ha))) ∧
  (∀ (s : State) (q : HQuery) (rd : BitVec 6) (ha : BitVec 5),
    let h := readH s ha
    LandsS (.hqry .home rd ha) s 8 rd ((h.extractLsb' 52 12).setWidth 64) ∧
    LandsS (.hqry .rights rd ha) s 8 rd ((h.extractLsb' 0 12).setWidth 64) ∧
    (q ≠ .home → q ≠ .rights → hIndex h = 0 → Faults (.hqry q rd ha) s 23 (handleInfo h) 0) ∧
    (∀ e, q ≠ .home → q ≠ .rights → hIndex h ≠ 0 → heldEntry s h = some e → q = .live ∨ eGen e = hGen h →
      LandsS (.hqry q rd ha) s 8 rd (BitVec.ofNat 64 (hqryFrom s q h e))) ∧
    (∀ e, q ≠ .home → q ≠ .rights → q ≠ .live → hIndex h ≠ 0 → heldEntry s h = some e → eGen e ≠ hGen h →
      Faults (.hqry q rd ha) s 23 (handleInfo h) 0) ∧
    (q ≠ .home → q ≠ .rights → hIndex h ≠ 0 → heldEntry s h = none →
      let ones (c : Core) : Core := withLanding s c 8 (.s s.cur.sec rd.toNat (BitVec.allOnes 64))
      let d := coreDie s.cur.core
      let asked? := s.reqs.any fun r => r.die == d && r.op == .entry && r.handle.toNat / 2 ^ 28 == h.toNat / 2 ^ 28
      (hHome h = s.pkg.toNat → ∃ t, exec (.hqry q rd ha) s = .next t ∧
        t = { s with cores := t.cores, dies := (noteEntry s d (hIndex h)).dies } ∧
        coreOf t s.cur.core = movedOn s (ones (cc s)) ∧ ∀ j, j ≠ s.cur.core → coreOf t j = coreOf s j) ∧
      (hHome h ≠ s.pkg.toNat → 2303 < hHome h ∨ asked? = true → LandsS (.hqry q rd ha) s 8 rd (BitVec.allOnes 64)) ∧
      (hHome h ≠ s.pkg.toNat → hHome h ≤ 2303 → asked? = false → ∃ due > s.tick,
        Sends (.hqry q rd ha) s ones 1 [asked s h .entry 8 [] .issued] [takenUp due s.nextId])))

/-- GSET, TSET and MPSET (R161, R162, R164): where the checks of R37, R35 and R43 pass, the word is written after 2, 2 and 1 cycles. A busy
tile is a tile-busy fault for any word; a control word that R35 refuses is a tile-descriptor fault; a word 1 with no dimension or with
seven is a generator fault.

What a generator yields (R41, R42): the counters of position p are its digits in the extents, dimension 0 the innermost; the offset is
the base and for each dimension its counter times its stride, the modular dimension's with the phase added and wrapped, the indirect
dimension's read from its table. -/
def Obligations.Generators : Prop :=
  (∀ (s : State) (gg w mp : BitVec 3) (td ra : BitVec 6),
    let v := readS s ra
    (w = 0 → Lands (.gset gg w ra) s 2 (.g s.cur.sec gg.toNat w.toNat v)) ∧
    (w = 1 → genBad v (fun d => (tblGet (0 : Word) (strmOf (cc s) s.cur.sec).g (8 * gg.toNat + 2 + d)).toNat % 2 ^ 32) = false →
      Lands (.gset gg w ra) s 2 (.g s.cur.sec gg.toNat 1 v)) ∧
    (w = 1 → v.toNat % 8 = 0 ∨ v.toNat % 8 = 7 → Faults (.gset gg w ra) s 11 (BitVec.ofNat 64 gg.toNat) 0) ∧
    (tBusy (tileOf (cc s) td.toNat) = true → Faults (.tset td w ra) s 9 (BitVec.ofNat 64 td.toNat) 0) ∧
    (tBusy (tileOf (cc s) td.toNat) = false → w ≠ 0 → Lands (.tset td w ra) s 2 (.t td.toNat w.toNat v)) ∧
    (tBusy (tileOf (cc s) td.toNat) = false → descBad s.cur.core v = false → levelOf s.cur.core (cc s) ≠ 0 ∨ tState v ≠ 2 →
      Lands (.tset td 0 ra) s 2 (.t td.toNat 0 v)) ∧
    (tBusy (tileOf (cc s) td.toNat) = false → descBad s.cur.core v = true →
      Faults (.tset td 0 ra) s 8 (BitVec.ofNat 64 td.toNat) 0) ∧
    Lands (.mpset mp ra) s 1 (.mp mp.toNat v)) ∧
  (∀ (m : Mem) (g : Gen) (p : Nat),
    let nd := g.w1.toNat % 8
    let ext (d : Nat) : Nat := (g.dims.getD d (1, 0)).1
    let stride (d : Nat) : Int := (g.dims.getD d (1, 0)).2
    let per (d : Nat) : Nat := (List.range d).foldl (fun a e => a * ext e) 1
    let k (d : Nat) : Nat :=
      if d = gInd g.w1 then memRead m (gItb g.w1 + 4 * genCtr g p d) 4
      else if d = gMod g.w1 then (genCtr g p d + g.phase) % max 1 (ext d) else genCtr g p d
    genOff m g p = g.base + ((List.range nd).map fun d => (k d : Int) * stride d).sum ∧
    (nd ≤ g.dims.length → (∀ d < nd, 1 ≤ ext d) → p < per nd →
      (∀ d < nd, genCtr g p d < ext d) ∧ p = ((List.range nd).map fun d => genCtr g p d * per d).sum) ∧
    (nd ≤ g.dims.length → genCount g = per nd))

/-! ## VX and VY -/

/-- The integer forms of VADD, VSUB, VMUL, VMULH, VMIN, VMAX, VABS and VNEG, and VDOT4 (R194, R195): each element by its rule, a and b being
the operands' elements after their modifiers.

VAND, VOR, VXOR, VNOT and the shifts (R196, R197): each element; the amount is an element of vb, or bits 4:0 of the immediate; from the
width on VSHL and VSHR give 0 and VSAR copies of the sign. -/
def Obligations.VectorIntegers : Prop :=
  (∀ (s : State) (f : Fmt) (r : RSel) (o : VOp), isInt f = true → modsChk s f o = .ok →
    let w := fmtWidth f
    let signed := decide (f = .i32 ∨ f = .i16 ∨ f = .i8 ∨ f = .i4)
    let int (x : Nat) : Int := if signed && decide (2 ^ (w - 1) ≤ x) then (x : Int) - 2 ^ w else x
    let low (x : Int) : Nat := (x % 2 ^ w).toNat
    let a := fun e => opA s f o e % 2 ^ w
    let b := fun e => opB s f o e % 2 ^ w
    LandsV (.vadd f r o) s 2 o w (fun e => a e + b e) ∧
    LandsV (.vsub f r o) s 2 o w (fun e => a e + 2 ^ w - b e) ∧
    LandsV (.vmul f r o) s 3 o w (fun e => a e * b e) ∧
    LandsV (.vmulh f o) s 3 o w (fun e => low (int (a e) * int (b e) / 2 ^ w)) ∧
    LandsV (.vmin f o) s 2 o w (fun e => if int (a e) ≤ int (b e) then a e else b e) ∧
    LandsV (.vmax f o) s 2 o w (fun e => if int (a e) ≤ int (b e) then b e else a e) ∧
    LandsV (.vabs f o) s 2 o w (fun e => low (int (a e)).natAbs) ∧
    LandsV (.vneg f o) s 2 o w (fun e => low (-(int (a e)))) ∧
    LandsV (.vdot4 f o) s 4 o 32 (fun i =>
      ((((elemAt 32 (vBits s o.vd) i : Nat) : Int) + ((List.range (32 / w)).map fun j =>
        int (a (32 / w * i + j)) * int (b (32 / w * i + j))).sum) % 2 ^ 32).toNat)) ∧
  (∀ (s : State) (f : Fmt) (o : VOp) (imm : Bool), isInt f = true →
    let w := fmtWidth f
    let a := fun e => opA s f o e % 2 ^ w
    let n := fun e => if imm then o.vb.toNat % 32 else opB s f o e
    let x := fun i => elemAt 32 (vBits s o.va) i
    let y := fun i => elemAt 32 (vBits s o.vb) i
    LandsV (.vand o) s 2 o 32 (fun i => x i &&& y i) ∧ LandsV (.vor o) s 2 o 32 (fun i => x i ||| y i) ∧
    LandsV (.vxor o) s 2 o 32 (fun i => x i ^^^ y i) ∧ LandsV (.vnot o) s 2 o 32 (fun i => 2 ^ 32 - 1 - x i) ∧
    LandsV (.vshl f imm o) s 2 o w (fun e => if w ≤ n e then 0 else a e * 2 ^ n e) ∧
    LandsV (.vshr f imm o) s 2 o w (fun e => if w ≤ n e then 0 else a e / 2 ^ n e) ∧
    LandsV (.vsar f imm o) s 2 o w (fun e =>
      ((BitVec.ofNat w (a e)).sshiftRight (min (n e) w)).toNat))

/-- The float forms (R192, R193) in a mode that draws nothing: one rounding of the exact result to each element; VMIN, VMAX, VABS and VNEG
round nothing.

R125, R126, R187, R208, R209: a vector instruction that rounds in mode rst steps its slot's generator once for each four results: a
quarter of the elements, 128 times for VCVT, VQNT and VDQ, 129 or 257 times for VREDADD, 1,152 or 2,560 times for VSCAN. -/
def Obligations.VectorFloats : Prop :=
  (∀ (s : State) (f : Fmt) (r : RSel) (o : VOp) (m : RM), isInt f = false → modsChk s f o = .ok →
    resolveRm r (readFmt s) = some m → m ≠ .rst →
    let w := fmtWidth f
    let a := fun e => fltOf s f (opA s f o e)
    let b := fun e => fltOf s f (opB s f o e)
    let d := fun e => fltOf s f (elemAt w (vBits s o.vd) e)
    let round := fun x => encodeNum (fmtNty f) (rndOf m (readFmt s) 0) x
    let exact := fun x => encodeNum (fmtNty f) exactRnd x
    LandsV (.vadd f r o) s 4 o w (fun e => round (Machine.Num.add m (a e) (b e))) ∧
    LandsV (.vsub f r o) s 4 o w (fun e => round (Machine.Num.add m (a e) (b e).negate)) ∧
    LandsV (.vmul f r o) s 4 o w (fun e => round (Machine.Num.mul (a e) (b e))) ∧
    LandsV (.vfma f r o) s 4 o w (fun e => round (Machine.Num.add m (Machine.Num.mul (a e) (b e)) (d e))) ∧
    LandsV (.vmin f o) s 4 o w (fun e => exact (numMin (a e) (b e))) ∧
    LandsV (.vmax f o) s 4 o w (fun e => exact (numMax (a e) (b e))) ∧
    LandsV (.vabs f o) s 2 o w (fun e => exact (if (a e).neg? then (a e).negate else a e)) ∧
    LandsV (.vneg f o) s 2 o w (fun e => exact (a e).negate)) ∧
  (∀ (s : State) (f dst src : Fmt) (zp : Bool) (r : RSel) (o : VOp), resolveRm r (readFmt s) = some .rst →
    let key := seedOf s.cur.slot
    let x := tblGet (1 : Word) (cc s).arch.seeds key
    let stepped := fun (i : Instr) (l k : Nat) => ∃ val, IssuesWith i s fun c =>
      { c with landing := c.landing ++ [onItsWay s l (laneWrite o.vd.toNat (guardOf? s o) (gzOf o) val)],
               arch := { c.arch with seeds := tblSet (1 : Word) c.arch.seeds key (Nat.repeat xorshiftStep k x) } }
    let n := 16384 / fmtWidth f
    (isInt f = false → modsChk s f o = .ok →
      stepped (.vadd f r o) 4 ((n + 3) / 4) ∧ stepped (.vsub f r o) 4 ((n + 3) / 4) ∧ stepped (.vmul f r o) 4 ((n + 3) / 4)) ∧
    (modsChk s f o = .ok → stepped (.vfma f r o) 4 ((n + 3) / 4)) ∧
    (modChk (readFmt s) f true o.ma = .ok →
      stepped (.vexp2 f r o) 6 ((n + 3) / 4) ∧ stepped (.vlog2 f r o) 6 ((n + 3) / 4) ∧ stepped (.vrcp f r o) 6 ((n + 3) / 4) ∧
      stepped (.vrsq f r o) 6 ((n + 3) / 4) ∧
      (isInt f = false → fmtWidth f = 32 → stepped (.vredadd f r o) 8 129 ∧ stepped (.vscan .add f r o) 10 1152) ∧
      (isInt f = false → fmtWidth f = 16 → stepped (.vredadd f r o) 8 257 ∧ stepped (.vscan .add f r o) 10 2560)) ∧
    (roundsNothing (fmtNty dst) (fmtNty src) = false → stepped (.vcvt dst src r o) 4 128) ∧
    (modsChk s .fp32 o = .ok → stepped (.vqnt f zp r o) 12 128) ∧
    (modChk (readFmt s) .fp32 false o.mb = .ok → stepped (.vdq f zp r o) 4 128))

/-- VCMP and VCMPT (R198, R200): the predicate bit of each lane; VSEL and VMOV (R201, R203); VCAS (R202): each lane of the two value
registers in rank order, with the predicate bit where they swap.

VPAND, VPOR, VPNOT, VPCNT and VPFST (R219, R220): each predicate bit; the count of ones; the lowest set bit, 512 where none is. -/
def Obligations.VectorSelects : Prop :=
  (∀ (s : State) (f : Fmt) (o : VOp) (p : BitVec 5) (pd : BitVec 4) (cc : BitVec 4) (pc : PCond),
    let ftz := fmtFtz (readFmt s)
    let lane := fun (v : BitVec 9) i => elemAt 32 (vBits s v) i
    let other := fun (v : BitVec 9) i => elemAt 32 (vBits s (v ^^^ 256)) i
    let rank := fun i => pairCmp f ftz (opA s f o i) (other o.va i) (opB s f o i) (other o.vb i)
    (modsChk s f o = .ok →
      LandsP (.vcmp f cc o) s 2 o (o.vd.toNat % 16) (fun i => vcmpLane f cc ftz (opA s f o i) (opB s f o i)) ∧
      LandsP (.vcmpt f pc o) s 2 o (o.vd.toNat % 16) (fun i => match pc with
        | .eq => decide (rank i = 0) | .ne => decide (rank i ≠ 0) | .lt => decide (rank i < 0)
        | .le => decide (rank i ≤ 0) | .gt => decide (0 < rank i) | .ge => decide (0 ≤ rank i))) ∧
    LandsV (.vsel p o) s 2 o 32 (fun i => if (readP s p.toNat).getLsbD i then lane o.va i else lane o.vb i) ∧
    (modChk (readFmt s) f true o.ma = .ok → LandsV (.vmov f o) s 2 o (fmtWidth f) (opA s f o)) ∧
    let swap := fun i => decide (0 < pairCmp f ftz (lane o.va i) (elemAt 32 (readV s (o.vb.toNat + 1)).toNat i) (lane o.vd i) (lane o.vb i))
    ∃ hi lo sw, (∀ i < 512, elemAt 32 hi i = casCode f (if swap i then lane o.va i else lane o.vd i) % 2 ^ 32 ∧
        elemAt 32 lo i = casCode f (if swap i then lane o.vd i else lane o.va i) % 2 ^ 32 ∧ sw.getLsbD i = swap i) ∧
      IssuesWith (.vcas f pd o) s fun c => { c with landing := c.landing ++
        [onItsWay s 4 (laneWrite o.vd.toNat (guardOf? s o) (gzOf o) hi), onItsWay s 4 (laneWrite o.va.toNat (guardOf? s o) (gzOf o) lo),
         onItsWay s 4 (predWrite s o pd.toNat sw)] }) ∧
  (∀ (s : State) (o : VOp),
    let p := readP s (o.va.toNat % 32)
    let q := readP s (o.vb.toNat % 32)
    let d := o.vd.toNat % 16
    LandsP (.vpand o) s 1 o d (fun i => p.getLsbD i && q.getLsbD i) ∧ LandsP (.vpor o) s 1 o d (fun i => p.getLsbD i || q.getLsbD i) ∧
    LandsP (.vpnot o) s 1 o d (fun i => !p.getLsbD i) ∧
    LandsV (.vpcnt o) s 3 o 32 (fun _ => (List.range 512).countP fun i => p.getLsbD i) ∧
    ∃ n ≤ 512, LandsV (.vpfst o) s 3 o 32 (fun _ => n) ∧ (∀ i < n, p.getLsbD i = false) ∧ (n < 512 → p.getLsbD n = true))

/-- R204 to R207, R215: the lane, element or half that VBCAST, VIDX, VPERM, VROT, VSHUF, VPACK and VUNPK put in each place. -/
def Obligations.VectorPermutes : Prop :=
  ∀ (s : State) (f : Fmt) (o : VOp) (imm hi : Bool),
    let w := fmtWidth f
    let x := fun i => elemAt 32 (vBits s o.va) i
    let sk := (readS s (o.va.extractLsb' 0 6)).toNat
    let n := if imm then o.vb.toNat else (readS s (o.vb.extractLsb' 0 6)).toNat % 512
    let k := o.vb.toNat % 16
    let h := 16 / w
    LandsV (.vbcast f o) s 2 o w (fun _ => sk) ∧ LandsV (.vidx f o) s 2 o w (fun e => e) ∧
    LandsV (.vperm o) s 4 o 32 (fun i => x (elemAt 32 (vBits s o.vb) i % 512)) ∧
    LandsV (.vrot imm o) s 3 o 32 (fun i => x ((i + n) % 512)) ∧
    (k ≤ 12 → LandsV (.vshuf o) s 4 o 32 (fun i =>
      x (if k ≤ 8 then i ^^^ 2 ^ k else if k = 9 then 511 - i
         else if k = 10 then (if i < 256 then 2 * i else 2 * (i - 256) + 1)
         else if k = 11 then (if i % 2 = 0 then i / 2 else 256 + (i - 1) / 2) else 0))) ∧
    (w ≠ 32 → LandsV (.vpack f o) s 3 o w (fun e =>
      if e % (2 * h) < h then elemAt (2 * w) (vBits s o.va) (h * (e / (2 * h)) + e % (2 * h))
      else elemAt (2 * w) (vBits s o.vb) (h * (e / (2 * h)) + (e % (2 * h) - h)))) ∧
    (w ≠ 32 → LandsV (.vunpk f hi o) s 3 o (2 * w) (fun e =>
      let y := elemAt w (vBits s o.va) (e / h * (2 * h) + (if hi then h else 0) + e % h)
      if f = .i16 ∨ f = .i8 ∨ f = .i4 then ((BitVec.ofNat w y).signExtend (2 * w)).toNat else y))

/-- VREDADD, VREDMAX, VREDMIN and VSCAN without draws (R208, R209): every element receives the reduction over the tree of R141, or the scan
of the doubling passes, of the elements whose lanes' guards are true and the identity in the others. -/
def Obligations.VectorReductions : Prop :=
  ∀ (s : State) (op : CombOp) (f : Fmt) (r : RSel) (o : VOp), modChk (readFmt s) f true o.ma = .ok →
    let w := fmtWidth f
    let n := 16384 / w
    let fm := readFmt s
    let m := if isInt f then RM.rne else modeOf r fm
    let tree := fun (op : CombOp) (m : RM) =>
      reduceTree op f (rndOf m fm) (Nat.log2 n) [] ((List.range n).map (redElem s op f o))
    (isInt f = true ∨ (∃ q, resolveRm r fm = some q ∧ q ≠ .rst) → LandsV (.vredadd f r o) s 8 o w (fun _ => tree .add m)) ∧
    LandsV (.vredmax f o) s 8 o w (fun _ => tree .max .rne) ∧
    LandsV (.vredmin f o) s 8 o w (fun _ => tree .min .rne) ∧
    (isInt f = true ∨ op ≠ .add ∨ (∃ q, resolveRm r fm = some q ∧ q ≠ .rst) →
      LandsV (.vscan op f r o) s 10 o w (elemAt w (scanAll op f (rndOf (if op = .add then m else .rne) fm) (Nat.log2 n) [] 1
        (build w n (redElem s op f o)) n)))

/-- VEXP2, VLOG2, VRCP, VRSQ, VCVT, VQNT, VDQ without draws (R210 to R213), VSAT, VLMUL and VLLIN (R214, R217, R218): what each element or
lane receives. -/
def Obligations.VectorConversions : Prop :=
  ∀ (s : State) (f dst src : Fmt) (zp : Bool) (r : RSel) (o : VOp) (m : RM), resolveRm r (readFmt s) = some m → m ≠ .rst →
    let w := fmtWidth f
    let fm := readFmt s
    let rnd := rndOf m fm 0
    let code := fun x => encodeNum (fmtNty f) rnd x
    let a := fun e => fltOf s f (opA s f o e)
    let a32 := fun i => fltOf s .fp32 (opA s .fp32 o i)
    let b32 := fun i => fltOf s .fp32 (opB s .fp32 o i)
    (modChk fm f true o.ma = .ok →
      LandsV (.vexp2 f r o) s 6 o w (fun e => code (Machine.Num.exp2 (a e))) ∧ LandsV (.vlog2 f r o) s 6 o w (fun e => code (Machine.Num.log2 (a e))) ∧
      LandsV (.vrcp f r o) s 6 o w (fun e => code (Machine.Num.rcp (a e))) ∧ LandsV (.vrsq f r o) s 6 o w (fun e => code (Machine.Num.rsq (a e)))) ∧
    (roundsNothing (fmtNty dst) (fmtNty src) = false → LandsV (.vcvt dst src r o) s 4 o 32 (fun i =>
      place dst (vcvtCode dst src rnd (opA s src o (32 / fmtWidth src * i))))) ∧
    (roundsNothing (fmtNty dst) (fmtNty src) = true → LandsV (.vcvt dst src r o) s 4 o 32 (fun i =>
      place dst (vcvtCode dst src (rndOf .rne fm 0) (opA s src o (32 / fmtWidth src * i))))) ∧
    (modsChk s .fp32 o = .ok → LandsV (.vqnt f zp r o) s 12 o 32 (fun i =>
      place f (quantize (fmtNty f) rnd (a32 i) (b32 i) (zeroPoint s zp o i)))) ∧
    (modChk fm .fp32 false o.mb = .ok → LandsV (.vdq f zp r o) s 4 o 32 (fun i =>
      dequantize (.flt .fp32) rnd (b32 i) (fltOf s f (opA s f o (32 / w * i))) (zeroPoint s zp o i))) ∧
    (isInt f = true → LandsV (.vsat f o) s 2 o 32 (fun i =>
      let x := intOf true 32 (opA s .i32 o i)
      let lo : Int := if f = .i32 ∨ f = .i16 ∨ f = .i8 ∨ f = .i4 then -(2 ^ (w - 1)) else 0
      let hi : Int := if f = .i32 ∨ f = .i16 ∨ f = .i8 ∨ f = .i4 then 2 ^ (w - 1) - 1 else if w = 32 then 2 ^ 31 - 1 else 2 ^ w - 1
      ((if x < lo then lo else if hi < x then hi else x) % 2 ^ 32).toNat)) ∧
    (∀ t, fmtNty f = .flt t → modChk fm .fp32 true o.ma = .ok → LandsV (.vsat f o) s 2 o 32 (fun i => satFlt t (a32 i))) ∧
    (logPairChk fm = .ok → LandsV (.vlmul f o) s 2 o 32 (fun i => lmulCode f (opA s f o (32 / w * i)) (opB s f o (32 / w * i)))) ∧
    LandsV (.vllin .l4 o) s 4 o 32 (fun i =>
      let x := opA s .i8 o (4 * i)
      if x % 16 = 0 then 0 else llinCode (decide (x ≥ 128)) (4 * (x % 16) + 96)) ∧
    LandsV (.vllin .l8 o) s 4 o 32 (fun i =>
      let x := opA s .i16 o (2 * i)
      if x % 256 = 0 then 0 else if x % 256 = 1 then 0x7FC00000 else llinCode (decide (x ≥ 2 ^ 15)) (x % 256))

/-- VLD, VST, VGATH, VSCAT and VPOP (R221 to R225), where their checks pass: what each puts on its way. VLD samples its row in c + 2, VGATH
its lanes, VST writes in c + 5 the guard-true lanes (all, zeros among them, where the guard zeroes) and the completion bits of their
chunks, VSCAT in c + 9, VPOP takes four 512-byte blocks of the decoder FIFO, VY's those behind the four that VX takes in the same cycle. -/
def Obligations.VectorMemory : Prop :=
  ∀ (s : State) (f : Fmt) (o : VOp),
    let td := vTile o
    let t := tileOf (cc s) td.toNat
    let row := (readS s (o.vb.extractLsb' 0 6)).toNat
    let start := row * tRowBytes t.ctl
    let n := min 2048 (tSize t.ctl - start)
    let mask := chunkMask start (start + n)
    let at_ := tBase t.ctl + start
    let nb := fmtWidth f / 8
    let put := fun d (k : StoreKind) => ({ due := s.tick + d, group := slotGroup, order := s.cur.age * 16 + s.cur.slot, sec := s.cur.sec, k := k } : Store)
    let take := fun l (k : Sample) =>
      ({ due := s.tick + 2, land := s.tick + l, held := false, age := s.cur.age, slot := s.cur.slot, sec := s.cur.sec, k := k } : PendSample)
    (row < tRows t.ctl → t.map &&& mask = mask → (t.cmp = true → tSeq t.ctl = tExp t.ctl) → t.pois &&& mask = 0 →
      IssuesWith (.vld o) s fun c =>
        let c := updTile c td.toNat fun x => { x with cmp := false }
        { c with samples := c.samples ++ [take 4 (.vld o.vd.toNat at_ n (guardOf? s o) (gzOf o))] }) ∧
    (row < tRows t.ctl → tBusy t = false →
      IssuesWith (.vst o) s fun c => { c with stores := c.stores ++
        [put 5 (.cells (vstCells at_ n (vBits s o.vd) (guardOf? s o) (gzOf o))), put 5 (.tileBits td mask)] }) ∧
    (tRows t.ctl ≤ row → Faults (.vld o) s 8 (BitVec.ofNat 64 td.toNat) 0 ∧ Faults (.vst o) s 8 (BitVec.ofNat 64 td.toNat) 0) ∧
    (row < tRows t.ctl → t.map &&& mask ≠ mask → exec (.vld o) s = .next s) ∧
    (lanesChk s nb (laneAddrs s o) = .ok →
      IssuesWith (.vgath f o) s (fun c => { c with samples := c.samples ++
        [take 8 (.vgath o.vd.toNat nb (decide (f = .i16 ∨ f = .i8)) (guardOf? s o) (gzOf o) (laneAddrs s o))] }) ∧
      IssuesWith (.vscat f o) s (fun c => { c with stores := c.stores ++
        [put 9 (.cells ((laneAddrs s o).map fun p => (p.2, bytesOf (elemAt 32 (vBits s o.vd) p.1) nb)))] })) ∧
    let held := (cc s).arch.fifo.length
    let behind := if popsAfterX s = true ∧ 4 ≤ held then 4 else 0
    (behind + 4 ≤ held →
      IssuesWith (.vpop o) s fun c => { c with
        landing := c.landing ++
          [onItsWay s 2 (laneWrite o.vd.toNat (guardOf? s o) (gzOf o) (fifoHead (c.arch.fifo.drop behind)))],
        fifoPop := c.fifoPop + 4, arch := { c.arch with fifo := c.arch.fifo.take behind ++ c.arch.fifo.drop (behind + 4) } }) ∧
    (held < behind + 4 → Faults (.vpop o) s 20 0 0)

/-! ## XF -/

/-- XTRN, XCVT and XPACK where their checks pass (R254 to R257): the destinations are armed in c + 1, the source counts as read, the first
beat comes 8 (XTRN) or 6 cycles on or after the unit's last one, and the unit is taken for a beat per two chunks, stretched by the
zone's clamp. XCVT that rounds nothing, and XTRN, take no rounding mode. In mode rst the slot's generator makes one step for each four
elements (R126); else it makes none.

When the transforms may issue (R254 to R257): the source complete over every chunk, with the seq it expects and no poison; XTRN's
destination of its format and the transposed shape; XCVT's of the format named and its shape; XPACK's source of two or four bytes a
number and a scale tile beside the destination; no destination busy. -/
def Obligations.Transforms : Prop :=
  (∀ (s : State) (td ta : BitVec 6) (dst : Fmt) (r : RSel),
    let c := cc s
    let a := (tileOf c ta.toNat).ctl
    let d := (tileOf c td.toNat).ctl
    let e := (tileOf c (td + 1).toNat).ctl
    let gap := 2 ^ clampOf s s.cur.core
    let beats := (tSize d + 1023) / 1024
    let first (l free : Nat) : Nat := max (s.tick + l) free
    let job (i : Instr) (d1 : Word) (m : RSel) : XfJob :=
      { key := s.nextId, instr := i, ta := a, td := d, td1 := d1, mode := m, fmt := readFmt s, seed := readSeed s 4, gap := gap }
    let beat (b : Nat) : Event := { due := b, instr := .transformBeat, ev := { Ev.none with core := s.cur.core, id := s.nextId } }
    let arm (t : BitVec 6) : Landing := onItsWay s 1 (.arm t.toNat .transform none false)
    let start (w : Window) (l : List Landing) (j : XfJob) (c : Core) : Core :=
      { c with landing := c.landing ++ l, xfJobs := c.xfJobs ++ [j],
               readers := c.readers ++ [{ key := s.nextId, start := s.tick + 2, win := w, mem := c.arch.scratch }] }
    let drawn (k : Nat) (c : Core) : Core := if k = 0 then c else
      { c with arch := { c.arch with seeds := tblSet (1 : Word) c.arch.seeds (seedOf 4) (draws ((k + 3) / 4) (readSeed s 4)).2 } }
    let k := if modeOf r (readFmt s) = .rst then tRows a * tCols a else 0
    (chkXtrn td ta s = .ok → let b := first 8 c.xfTrn
      ∃ w, Sends (.xtrn td ta) s (fun c => { start w [arm td] (job (.xtrn td ta) 0 .rne) (readOnce c ta) with
        xfTrn := b + (beats - 1) * gap + 1 }) 1 [] [beat b]) ∧
    (chkXcvt td ta dst r s = .ok → let b := first 6 c.xfCvt
      ∃ w, Sends (.xcvt td ta dst r) s (fun c =>
        { start w [arm td] (job (.xcvt td ta dst r) 0 (if xcvtRounds s ta dst then r else .rne))
            (drawn (if xcvtRounds s ta dst then k else 0) (readOnce c ta)) with xfCvt := b + (beats - 1) * gap + 1 }) 1 [] [beat b]) ∧
    (chkXpack td ta dst r s = .ok → let b := first 6 c.xfCvt
      ∃ w, Sends (.xpack td ta dst r) s (fun c =>
        { start w [arm td, arm (td + 1)] (job (.xpack td ta dst r) e r) (drawn k (readOnce c ta)) with xfCvt := b + (beats - 1) * gap + 1 }) 1 [] [beat b])) ∧
  (∀ (s : State) (td ta : BitVec 6) (dst : Fmt) (r : RSel),
    let x := tileOf (cc s) ta.toNat
    let a := x.ctl
    let dt := tileOf (cc s) td.toNat
    let et := tileOf (cc s) (td + 1).toNat
    let d := dt.ctl
    let e := et.ctl
    let source := x.map &&& tMask x = tMask x ∧ (x.cmp = true → tSeq a = tExp a) ∧ x.pois &&& tMask x = 0
    let same := tRows d = tRows a ∧ tCols d = tCols a
    (chkXtrn td ta s = .ok ↔ source ∧ tFmtCode d = tFmtCode a ∧ tRows d = tCols a ∧ tCols d = tRows a ∧ tBusy dt = false) ∧
    (chkXcvt td ta dst r s = .ok ↔ source ∧ tFmt d = dst ∧ same ∧
      (xcvtRounds s ta dst = true → resolveRm r (readFmt s) ≠ none) ∧ tBusy dt = false) ∧
    (chkXpack td ta dst r s = .ok ↔ source ∧ isWideFlt (tFmt a) = true ∧ tFmt d = dst ∧ same ∧
      (tFmtCode e = 13 ∧ tRows e = tRows a ∧ (tCols a + 31) / 32 ≤ tCols e) ∧ resolveRm r (readFmt s) ≠ none ∧
      tBusy dt = false ∧ tBusy et = false))

/-- XRATIO and XEXP (R258 to R261): XRATIO's value lands in c + 1. XEXP whose blocks all pass posts the landing of block b at B + floor(512
b / rate), with rate the lesser of 2,048 and 4q and B the greater of c + 10 and the cycle after the unit's last landing. A block that
fails is a transform fault that names it; more than 65,536 bytes is a decoder-FIFO overflow fault.

What XEXP expands (R260): codec 0 copies; codec 1 gives byte t the next payload byte where its bit of the map is set, else 0; codec 2
gives word w the palette word that its nibble selects. The input is 512 bytes, 64 and one for each set bit, or 128.

TRANSFORM_BEAT and XEXP_BLOCK_LANDS (R254, R259, R261): a beat writes its two chunks and is followed by the next one, the last one ends
the transform; a transform that is no more writes nothing; a block that lands is appended to the decoder FIFO. -/
def Obligations.Expansion : Prop :=
  (∀ (s : State) (q : BitVec 16) (ta : BitVec 6) (nb : BitVec 4) (codec : BitVec 3),
    let c := cc s
    let n := 8 * (nb.toNat + 1)
    let at_ (b : Nat) : Nat := max (s.tick + 10) c.xfExp + 512 * b / min 2048 (4 * c.arch.xratio.toNat) * 2 ^ clampOf s s.cur.core
    Lands (.xratio q) s 1 (.xratio q) ∧
    (∀ blocks, srcChk s ta = .ok → expResult s ta nb codec = .ok blocks → fifoBytes c + 512 * n ≤ 65536 →
      Sends (.xexp ta nb codec) s (fun c => { readOnce c ta with
          expJobs := c.expJobs ++ [{ key := s.nextId, blocks := blocks }], xfExp := at_ (n - 1) + 1 }) 1 []
        ((List.range n).map fun b =>
          { due := at_ b, instr := .xexpBlockLands, ev := { Ev.none with core := s.cur.core, id := s.nextId } })) ∧
    (∀ b, srcChk s ta = .ok → expResult s ta nb codec = .error b → Faults (.xexp ta nb codec) s 19 (BitVec.ofNat 64 b) 0) ∧
    (∀ blocks, srcChk s ta = .ok → expResult s ta nb codec = .ok blocks → fifoBytes c + 512 * n > 65536 →
      Faults (.xexp ta nb codec) s 21 0 0)) ∧
  (∀ (p t : Nat) (get : Nat → Byte), t < 512 →
    let bit (j : Nat) : Bool := (get (p + j / 8)).getLsbD (j % 8)
    let set (n : Nat) : Nat := ((List.range n).filter bit).length
    let out (codec : Nat) : Byte := (blockOut codec p get).extractLsb' (8 * t) 8
    out 0 = get (p + t) ∧
    out 1 = (if bit t then get (p + 64 + set t) else 0) ∧
    out 2 = (let w := t / 4
             let nib := (get (p + 64 + w / 2)).extractLsb' (if w % 2 = 0 then 0 else 4) 4
             get (p + 4 * nib.toNat + t % 4)) ∧
    blockInput 0 p get = 512 ∧ blockInput 1 p get = 64 + set 512 ∧ blockInput 2 p get = 128) ∧
  (∀ (s : State),
    let k := s.ev.core
    let c := coreOf s k
    let found := c.xfJobs.find? fun j => decide (j.key = s.ev.id)
    (found = none → exec .transformBeat s = .next s) ∧
    (∀ j, found = some j → s.ev.n + 1 < (tSize j.td + 1023) / 1024 → ∃ t, exec .transformBeat s = .next t ∧
      (coreOf t k) = { c with stores := c.stores ++ beatStores j (readerMem c j.key) s.tick s.ev.n } ∧
      (∀ i, i ≠ k → coreOf t i = coreOf s i) ∧ t = { s with
        cores := t.cores, agenda := s.agenda ++ [{ due := s.tick + j.gap, instr := .transformBeat, ev := { s.ev with n := s.ev.n + 1 } }] }) ∧
    (∀ j, found = some j → (tSize j.td + 1023) / 1024 ≤ s.ev.n + 1 → ∃ t, exec .transformBeat s = .next t ∧ OnlyCore s t k fun c =>
      { c with
        stores := c.stores ++ beatStores j (readerMem c j.key) s.tick s.ev.n
        xfJobs := c.xfJobs.filter fun x => decide (x.key ≠ j.key)
        readers := c.readers.filter fun r => decide (r.key ≠ j.key) }) ∧
    (∀ j b r, c.expJobs.find? (fun j => decide (j.key = s.ev.id)) = some j → j.blocks = b :: r →
      ∃ t, exec .xexpBlockLands s = .next t ∧ (coreOf t k).arch = { c.arch with fifo := c.arch.fifo ++ [b] } ∧
        (coreOf t k).stores = c.stores ∧ ∀ i, i ≠ k → coreOf t i = coreOf s i))

/-! ## MEM -/

/-- LDT, LDTS, PFT and STT where their checks pass (R271 to R274, R268): a load arms its tile in c + 1 and asks the handle unit for the
tile's elements; LDTS with a handle that fails at issue is not asked of it, and every chunk of its tile lands poisoned; PFT asks and
arms nothing; STT reads its tile from c + 2 on in pieces of 2,048 bytes and is held until its segment commits, the unit looking at what
it needs behind the last piece.

The elements of a tile transfer (R266): element (i, j) of the tile stands at its byte row and its bit, and corresponds to off(i) + j
2^cst, or with tr to off(j) + i 2^cst.

When a tile transfer may issue (R40, R43, R254 for the source, R264, R266, R271, R361): a load's, a prefetch's or a store's handle has
an index and the right; the generator has a dimension, yields a position for each row (with tr each column), and its table lies in the
scratchpad; a load's descriptor is legal and its tile not busy, and no store held in the open segment overlaps it; a store's tile is
complete with the seq it expects and no poison. LDTS does not look at the handle. -/
def Obligations.TileTransfers : Prop :=
  (∀ (s : State) (step flt : Bool) (o : TileOp),
    let h := readH s o.hh
    let w := tWidth (ctlOf s o.td)
    let st := if step then some ((readS s o.sy).extractLsb' 0 32, flt) else none
    let arm (c : Core) : Core := withLanding s c 1 (.arm o.td.toNat (.request s.nextId) none false)
    let size := tSize (ctlOf s o.td)
    let n := (size + 2047) / 2048
    (chkLdt step flt o s = .ok → ∃ d > s.tick,
      Sends (.ldt step flt o) s arm 1 [asked s h (.ldt false st o.td) w (opElems s o step) .issued] [takenUp d s.nextId]) ∧
    (chkLdts step flt o s = .ok → handleChk h 0 = .ok → ∃ d > s.tick,
      Sends (.ldts step flt o) s arm 1 [asked s h (.ldt true st o.td) w (opElems s o step) .issued] [takenUp d s.nextId]) ∧
    (chkLdts step flt o s = .ok → handleChk h 0 ≠ .ok → ∃ t d, exec (.ldts step flt o) s = .next t ∧ s.tick + 12 ≤ d ∧
      t = { s with cores := t.cores, reqs := t.reqs, nextId := s.nextId + 1, agenda := s.agenda ++
        (List.range ((size + 511) / 512)).map fun k =>
          { due := d, instr := .tileChunkLands,
            ev := { Ev.none with core := s.cur.core, id := s.nextId, tile := o.td, n := k, flag := true } } } ∧
      coreOf t s.cur.core = movedOn s (arm (cc s)) ∧ (∀ j, j ≠ s.cur.core → coreOf t j = coreOf s j) ∧
      ∀ r ∈ t.reqs, r.id ≠ s.nextId → r ∈ s.reqs) ∧
    (chkPft o s = .ok → ∃ d > s.tick,
      Sends (.pft o) s id 1 [asked s h .pft w (opElems s o false) .issued] [takenUp d s.nextId]) ∧
    (chkStt o s = .ok → ∃ d ≥ s.tick + 2 + n,
      Sends (.stt o) s (fun c => { readOnce c o.td with
        heldStt := c.heldStt ++ [s.nextId],
        samples := c.samples ++ (List.range n).map fun i =>
          { due := s.tick + (2 + i), land := s.tick + (2 + i), held := false, age := s.cur.age, slot := s.cur.slot, sec := s.cur.sec,
            k := .sttRow s.nextId (tBase (ctlOf s o.td) + 2048 * i) (tBase (ctlOf s o.td) + min size (2048 * i + 2048)) } })
        1 [{ asked s h (.stt o.td) w (opElems s o false) .held with ready := s.tick + 2 + n }] [takenUp d s.nextId])) ∧
  (∀ (m : Mem) (ctl : Word) (g : Gen) (tr : Bool) (cst : Nat),
    (tileElems m ctl g tr cst).length = tRows ctl * tCols ctl ∧
    ∀ i < tRows ctl, ∀ j < tCols ctl,
      (tileElems m ctl g tr cst)[i * tCols ctl + j]? =
        some (8 * (tBase ctl + i * tRowBytes ctl) + j * tWidth ctl,
          if tr then genOff m g j + (i : Int) * 2 ^ cst else genOff m g i + (j : Int) * 2 ^ cst)) ∧
  (∀ (s : State) (step flt : Bool) (o : TileOp),
    let h := readH s o.hh
    let ctl := ctlOf s o.td
    let right (n : Nat) : Prop := hIndex h ≠ 0 ∧ h.getLsbD n = true
    let gen (step : Bool) : Prop :=
      let g := opGen s o step
      let n := if o.tr then tCols ctl else tRows ctl
      gNd g.w1 ≠ 0 ∧ n ≤ genCount g ∧ (gInd g.w1 ≠ 7 → gItb g.w1 + 4 * genTop g n + 4 ≤ scratchSize s.cur.core)
    let free (step : Bool) : Prop := descBad s.cur.core ctl = false ∧ tBusy (tileOf (cc s) o.td.toNat) = false ∧
      overlapsHeld s (h.toNat / 2 ^ 28) (spansOf (tWidth ctl) ((opElems s o step).map Prod.snd)) = false
    let x := tileOf (cc s) o.td.toNat
    (chkLdt step flt o s = .ok ↔ right 0 ∧ gen step ∧ free step) ∧
    (chkLdts step flt o s = .ok ↔ gen step ∧ free step) ∧
    (chkPft o s = .ok ↔ right 0 ∧ gen false) ∧
    (chkStt o s = .ok ↔ right 1 ∧ gen false ∧
      x.map &&& tMask x = tMask x ∧ (x.cmp = true → tSeq ctl = tExp ctl) ∧ x.pois &&& tMask x = 0))

/-- TMOV and CHKP (R275, R276): TMOV.in arms its tile and reads the rows from c + 3 on, TMOV.out reads its tile from c + 5 on, in pieces of
2,048 bytes; both name the rows that the generator gives. CHKP with a mask of zero does nothing but, in its second form, store 16 bytes
of zeros; else it reads its tile, and its second form stores in c + 5 the poison bits under the mask.

Where a tile operand stops an instruction (R37, R38, R150, R221, R275, R276): a load into a busy tile is a tile-busy fault; a tile read
that is not complete waits, one complete with a seq it does not expect is a schedule fault with both numbers, one with poison of no
producer of the open segment is a checked-load poison trap with the bits; a row of a TMOV at a bit that is no byte, or past the end, is
a scratchpad fault. -/
def Obligations.TileMoves : Prop :=
  (∀ (s : State) (td sx sy : BitVec 6) (gg : BitVec 3) (off8 : BitVec 18),
    let ctl := ctlOf s td
    let size := tSize ctl
    let n := (size + 2047) / 2048
    let g := genOf s gg (readS s sx) (readS s sy)
    let rows := (List.range (tRows ctl)).map fun i => (genOff (cc s).arch.scratch g i * (tWidth ctl : Int) / 8).toNat
    let pieces (out : Bool) (d : Nat) : List PendSample := (List.range n).map fun i =>
      { due := s.tick + (d + i), land := s.tick + (d + i), held := false, age := s.cur.age, slot := s.cur.slot, sec := s.cur.sec,
        k := .tmov out td.toNat ctl (2048 * i) (min size (2048 * i + 2048)) rows }
    let m : BitVec 128 := readS s sy ++ readS s sx
    let pois := (tileOf (cc s) td.toNat).pois &&& m
    (chkTmovIn td sx sy gg s = .ok → IssuesWith (.tmovIn td sx sy gg) s fun c =>
      { withLanding s c 1 (.arm td.toNat .tmov none false) with samples := c.samples ++ pieces false 3 }) ∧
    (chkTmovOut td sx sy gg s = .ok → IssuesWith (.tmovOut td sx sy gg) s fun c =>
      { readOnce c td with samples := c.samples ++ pieces true 5 }) ∧
    (m = 0 → IssuesWith (.chkpT td sx sy) s id) ∧
    (m ≠ 0 → chkChkpT td sx sy s = .ok → IssuesWith (.chkpT td sx sy) s fun c => readOnce c td) ∧
    (m = 0 → 8 * off8.toNat + 16 ≤ scratchSize s.cur.core → IssuesWith (.chkpQ td sx sy off8) s fun c =>
      withStore s c (.bytes (8 * off8.toNat) (List.replicate 16 0))) ∧
    (m ≠ 0 → chkChkpQ td sx sy off8 s = .ok → IssuesWith (.chkpQ td sx sy off8) s fun c =>
      withStore s (readOnce c td) (.bytes (8 * off8.toNat) (bytesOf pois.toNat 16)))) ∧
  (∀ (s : State) (td sx sy : BitVec 6) (gg : BitVec 3),
    let x := tileOf (cc s) td.toNat
    let m : BitVec 128 := readS s sy ++ readS s sx
    let done := x.map &&& m = m
    m ≠ 0 →
    (¬done → exec (.chkpT td sx sy) s = .next s) ∧
    (done → x.cmp = true → tSeq x.ctl ≠ tExp x.ctl →
      Faults (.chkpT td sx sy) s 6 (BitVec.ofNat 64 (tSeq x.ctl)) (BitVec.ofNat 64 (tExp x.ctl))) ∧
    (done → (x.cmp = true → tSeq x.ctl = tExp x.ctl) → x.pois &&& m ≠ 0 → x.inSeg = false →
      Faults (.chkpT td sx sy) s 10 ((x.pois &&& m).extractLsb' 0 64) ((x.pois &&& m).extractLsb' 64 64)) ∧
    (tmovChk s td sx sy gg = .ok → descBad s.cur.core x.ctl = false → tBusy x = true →
      Faults (.tmovIn td sx sy gg) s 9 (BitVec.ofNat 64 td.toNat) 0) ∧
    (genChk s gg (genOf s gg (readS s sx) (readS s sy)) (tRows x.ctl) = .ok → ∀ b rest, tmovRows s td sx sy gg = b :: rest →
      (b % 8 ≠ 0 → Faults (.tmovIn td sx sy gg) s 12 (BitVec.ofInt 64 (b / 8)) 0) ∧
      (b % 8 = 0 → (BitVec.ofInt 64 (b / 8)).toNat + tRowBytes x.ctl > scratchSize s.cur.core →
        Faults (.tmovIn td sx sy gg) s 13 (BitVec.ofInt 64 (b / 8)) 0)))

/-- AMO, RELV, ACQV, BARI and BARA where their checks pass (R267, R268, R278 to R283): the request carries the operation and the operands as
read (CAS its compare value from register sy + 1, a version its low 48 bits). AMO, BARI and BARA leave the core when their segment
commits, RELV is held in it, ACQV goes to the handle unit. An AMO that reports, and ACQV, clear the bit of the report chunk in c + 1 and
count one operation outstanding on it.

When they may issue, and where the handle or the operand stops them (R40, R264, R267, R278, R439): a gang core that has not issued its
first rendezvous may not send an atomic out; index 0 or a missing right (read for ACQV, write for RELV, atomic for the others) is a
rights trap; an AMO whose offset is no multiple of its width is an alignment trap that names it; a report chunk outside the tile is a
tile-descriptor fault, and one with 15 operations outstanding waits. -/
def Obligations.AtomicsAndBarriers : Prop :=
  (∀ (s : State) (op : AmoOp) (w64 bytes poison : Bool) (hh : BitVec 5) (sx sy tile : BitVec 6) (word : BitVec 12) (k : BitVec 7)
    (sc : Scope) (n : BitVec 17),
    let h := readH s hh
    let x := readS s sx
    let y := readS s sy
    let ver : Word := (y.extractLsb' 0 48).setWidth 64
    let amo (nr : Bool) : Req :=
      asked s h (.amo op w64 nr x y (if op = .cas then readS s (sy + 1) else 0) tile word.toNat) 8 [] .held
    let leaves (c : Core) : Core := { c with leaving := c.leaving ++ [.request s.nextId] }
    let reports (k : Nat) (c : Core) : Core :=
      { withLanding s c 1 (.clearBits tile.toNat (BitVec.ofNat 128 (2 ^ k))) with
        reports := tblSet 0 c.reports (repKey tile k) (tblGet 0 c.reports (repKey tile k) + 1) }
    (chkAmo op w64 true hh sx sy tile word s = .ok → Sends (.amo op w64 true hh sx sy tile word) s leaves 1 [amo true] []) ∧
    (chkAmo op w64 false hh sx sy tile word s = .ok → Sends (.amo op w64 false hh sx sy tile word) s
      (fun c => leaves (reports (word.toNat / 64) c)) 1 [amo false] []) ∧
    (chkRelv sc hh sy s = .ok → Sends (.relv sc hh sy) s (fun c => { c with heldStt := c.heldStt ++ [s.nextId] }) 1
      [asked s h (.relv sc ver) 8 [] .held] []) ∧
    (chkAcqv sc hh sy tile k s = .ok → ∃ d > s.tick, Sends (.acqv sc hh sy tile k) s (reports k.toNat) 1
      [asked s h (.acqv sc ver tile k.toNat) 8 [] .issued] [takenUp d s.nextId]) ∧
    (chkBari hh sx sy n s = .ok → Sends (.bari hh sx sy n) s leaves 1 [asked s h (.bari x y n.toNat) 8 [] .held] []) ∧
    (chkBara bytes poison hh sx sy s = .ok →
      Sends (.bara bytes poison hh sx sy) s leaves 1 [asked s h (.bara bytes poison x y) 8 [] .held] [])) ∧
  (∀ (s : State) (op : AmoOp) (w64 nr : Bool) (hh : BitVec 5) (sx sy tile : BitVec 6) (word : BitVec 12) (k : BitVec 7)
    (sc : Scope) (n : BitVec 17),
    let h := readH s hh
    let right (n : Nat) : Prop := hIndex h ≠ 0 ∧ h.getLsbD n = true
    let gang := (cc s).gangWait = true ∧ levelOf s.cur.core (cc s) = 0
    let x := tileOf (cc s) tile.toNat
    let report (k : Nat) : Prop := tState x.ctl ≠ 0 ∧ 512 * k < tSize x.ctl ∧ tBusy x = false ∧
      tblGet 0 (cc s).reports (repKey tile k) < 15
    let aligned := (readS s sx).toNat % (if w64 then 8 else 4) = 0
    (chkAmo op w64 nr hh sx sy tile word s = .ok ↔ ¬gang ∧ right 2 ∧ aligned ∧
      (nr = false → 8 * word.toNat + 8 ≤ tSize x.ctl ∧ report (word.toNat / 64))) ∧
    (chkRelv sc hh sy s = .ok ↔ right 1) ∧
    (chkAcqv sc hh sy tile k s = .ok ↔ right 0 ∧ report k.toNat) ∧
    (chkBari hh sx sy n s = .ok ↔ ¬gang ∧ right 2) ∧
    (chkBara w64 nr hh sx sy s = .ok ↔ ¬gang ∧ right 2) ∧
    (gang → Faults (.amo op w64 nr hh sx sy tile word) s 6 0 0 ∧ Faults (.bari hh sx sy n) s 6 0 0) ∧
    (¬gang → ¬right 2 → Faults (.amo op w64 nr hh sx sy tile word) s 23 (handleInfo h) 0 ∧
      Faults (.bari hh sx sy n) s 23 (handleInfo h) 0 ∧ Faults (.bara w64 nr hh sx sy) s 23 (handleInfo h) 0) ∧
    (¬right 1 → Faults (.relv sc hh sy) s 23 (handleInfo h) 0) ∧
    (¬right 0 → Faults (.acqv sc hh sy tile k) s 23 (handleInfo h) 0) ∧
    (¬gang → right 2 → ¬aligned → Faults (.amo op w64 nr hh sx sy tile word) s 27 (handleInfo h) (readS s sx)))

/-- QPUT and QGET (R296 to R298): QPUT reserves the last position of the target's queue under its own ticket, the value to follow when the
segment commits; a target above 95 or not of the launch is a queue fault that names it, a full queue waits. QGET takes the oldest entry,
once it has landed in an earlier cycle, and stores its 8 bytes in c + 5; else it waits.

RPUT, RTAP and PFXLOOK (R98, R300 to R303): RPUT at T samples its sub-block for the lane, RTAP at T writes the lane's flit at its
position to its sub-block in T + 1 and makes the ring the tile's producer; PFXLOOK arms its tile, samples its hashes 16 a cycle from c +
2 on and asks for the lookup, as a held request where it shares.

A timed instruction of the ring (R98, R300): before the cycle it names it waits, and keeps that cycle; after it, it is a schedule fault
that names the cycle. A sub-block that lies outside the tile is a tile-descriptor fault first. -/
def Obligations.QueuesAndRing : Prop :=
  (∀ (s : State) (sx sy : BitVec 6) (q : BitVec 3) (imm : BitVec 18),
    let n := (readS s sx).toNat
    let k := 96 * coreDie s.cur.core + n
    let gang := (cc s).gangWait = true ∧ levelOf s.cur.core (cc s) = 0
    let held (c : Core) : List QEntry :=
      (queueOf c q.toNat).filter fun e => decide (e.taken = none) || decide (e.taken = some s.tick)
    let a := readS s sx + imm.signExtend 64
    (¬gang → n ≤ 95 → sameLaunch s k = true → (held (coreOf s k)).length < 16 → ∃ t, exec (.qput sx sy q) s = .next t ∧
      t = { s with cores := t.cores, nextId := s.nextId + 1 } ∧
      queueOf (coreOf t k) q.toNat = held (coreOf s k) ++ [{ ticket := s.nextId, value := none, landed := 0, taken := none }] ∧
      (∀ p, p ≠ q.toNat → queueOf (coreOf t k) p = queueOf (coreOf s k) p) ∧
      (coreOf t s.cur.core).leaving = (cc s).leaving ++ [.qput k q s.nextId (readS s sy)] ∧
      (coreOf t s.cur.core).pos = (movedOn s (cc s)).pos ∧
      (∀ j, (coreOf t j).arch = (coreOf s j).arch) ∧ ∀ j, j ≠ k → j ≠ s.cur.core → coreOf t j = coreOf s j) ∧
    (¬gang → n > 95 ∨ sameLaunch s k = false → Faults (.qput sx sy q) s 29 (readS s sx) 0) ∧
    (¬gang → n ≤ 95 → sameLaunch s k = true → 16 ≤ (held (coreOf s k)).length → exec (.qput sx sy q) s = .next s) ∧
    (∀ e v, a.toNat % 8 = 0 → a.toNat + 8 ≤ scratchSize s.cur.core → (queueOf (cc s) q.toNat).find? (fun e => e.taken = none) = some e →
      e.value = some v → e.landed < s.tick → IssuesWith (.qget q sx imm) s fun c =>
        withStore s { c with inq := tblPut c.inq q.toNat ((queueOf c q.toNat).map fun x =>
          if x.ticket = e.ticket then { x with taken := some s.tick } else x) } (.bytes a.toNat (bytesOf v.toNat 8))) ∧
    (∀ e, a.toNat % 8 = 0 → a.toNat + 8 ≤ scratchSize s.cur.core → (queueOf (cc s) q.toNat).find? (fun e => e.taken = none) = some e →
      e.value = none ∨ s.tick ≤ e.landed → exec (.qget q sx imm) s = .next s)) ∧
  (∀ (s : State) (ccw : Bool) (lane : BitVec 3) (tap td sx sy : BitVec 6) (j : BitVec 9) (sh : Bool) (n1 : BitVec 8) (hh : BitVec 5),
    let base := tBase (ctlOf s td)
    let unnamed (c : Core) : Core := { c with named := c.named.filter fun x => decide (x.1 ≠ s.cur.slot) }
    let flit := ringFlit (dieOf s (coreDie s.cur.core)) (ringKey s.cur.core ccw lane.toNat) ccw (ringPos s.cur.core) s.tick 1
    let n := n1.toNat + 1
    let m := (n + 15) / 16
    let look (ready : Nat) (st : ReqSt) : Req :=
      { asked s (readH s hh) (.pfxlook sh td [] (readS s sy)) 8 [] st with ready := ready }
    let reads (c : Core) : Core :=
      { withLanding s c 1 (.arm td.toNat (.request s.nextId) none false) with
        samples := c.samples ++ (List.range m).map fun i =>
          { due := s.tick + (2 + i), land := s.tick + (2 + i), held := false, age := s.cur.age, slot := s.cur.slot, sec := s.cur.sec,
            k := .pfxlook s.nextId ((readS s sx).toNat + 128 * i) (min 16 (n - 16 * i)) } }
    (chkRput ccw lane tap td sx j s = .ok → IssuesWith (.rput ccw lane tap td sx j) s fun c =>
      withSample s (readOnce (unnamed c) td) 0 0 (.rput lane.toNat ccw (base + 128 * j.toNat))) ∧
    (∀ v, chkRtap ccw lane tap td sx j s = .ok → flit = some v → IssuesWith (.rtap ccw lane tap td sx j) s fun c =>
      let c := outTile (unnamed c) td.toNat fun x => if x.prod = .ring then x else { x with prod := .ring }
      { c with stores := c.stores ++ [{ due := s.tick + 1, group := 1, order := lane.toNat + (if ccw then 8 else 0), sec := false,
                                        k := .subBlock td j.toNat (base + 128 * j.toNat) none (bytesOf v.toNat 128) }] }) ∧
    (chkPfxlook false n1 td hh sx sy s = .ok → sh = false → ∃ d ≥ s.tick + 2 + m,
      Sends (.pfxlook sh n1 td hh sx sy) s reads 1 [look (s.tick + 2 + m) .issued] [takenUp d s.nextId]) ∧
    (chkPfxlook true n1 td hh sx sy s = .ok → sh = true →
      Sends (.pfxlook sh n1 td hh sx sy) s (fun c => { reads c with leaving := c.leaving ++ [.request s.nextId] }) 1
        [look (s.tick + 2 + m) .held] [])) ∧
  (∀ (s : State) (ccw : Bool) (lane : BitVec 3) (tap td sx : BitVec 6) (j : BitVec 9),
    let t := namedCycle s (readS s sx + tap.zeroExtend 64)
    let inside := 128 * j.toNat + 128 ≤ tSize (ctlOf s td)
    let keeps (i : Instr) : Prop := ∃ u, exec i s = .next u ∧ OnlyCore s u s.cur.core fun c =>
      { c with named := c.named.filter (fun x => decide (x.1 ≠ s.cur.slot)) ++ [(s.cur.slot, s.cur.age, t)] }
    (¬inside → Faults (.rtap ccw lane tap td sx j) s 8 (BitVec.ofNat 64 td.toNat) 0) ∧
    (inside → s.gcyc.toNat < t → keeps (.rtap ccw lane tap td sx j)) ∧
    (inside → t < s.gcyc.toNat → Faults (.rtap ccw lane tap td sx j) s 6 (BitVec.ofNat 64 t) 0) ∧
    ((cc s).gangWait = false → ¬inside → Faults (.rput ccw lane tap td sx j) s 8 (BitVec.ofNat 64 td.toNat) 0) ∧
    ((cc s).gangWait = false → inside → s.gcyc.toNat < t → keeps (.rput ccw lane tap td sx j)) ∧
    ((cc s).gangWait = false → inside → t < s.gcyc.toNat → Faults (.rput ccw lane tap td sx j) s 6 (BitVec.ofNat 64 t) 0))

/-- XCOPY, XCHAIN, XGATH, XCOLL and GSTEP (R285, R286, R376, R268): at issue a job of the scheduler is taken with what R286 records and the
card is sampled in c + 2, MEM being held; when the card passes, the instruction completes: the job is accepted, with an edge to each
accepted job that its footprints meet, and its effect leaves when the segment commits. -/
def Obligations.EngineJobs : Prop :=
  ∀ (s : State) (td : BitVec 6) (kind : Nat) (i : Instr),
    (kind, i) ∈ [(1, Instr.xcopy td), (2, .xgath td), (3, .xcoll td), (4, .gstep td), (5, .xchain td)] →
    let d := coreDie s.cur.core
    (acceptingJob s = none → chkJob kind td s = .ok → ∃ t j, exec i s = .next t ∧
      t = { s with cores := t.cores, dies := t.dies, nextId := s.nextId + 1 } ∧
      (coreOf t s.cur.core = { withSample s (readOnce (cc s) td) 2 2 (.card s.nextId) with memReq := some s.nextId }) ∧
      (∀ k, k ≠ s.cur.core → coreOf t k = coreOf s k) ∧ (∀ e, e ≠ d → dieOf t e = dieOf s e) ∧
      dieOf t d = { dieOf s d with jobs := (dieOf s d).jobs ++ [j] } ∧
      j.id = s.nextId ∧ j.core = s.cur.core ∧ j.tile = td ∧ j.kind = kind ∧ j.dom = (cc s).dom ∧ j.store = (cc s).hstore ∧
      j.mode = fmtRm (readFmt s) ∧ j.sat = fmtSat (readFmt s) ∧ j.ftz = fmtFtz (readFmt s) ∧ j.st = .accepting ∧
      j.accTick = s.tick) ∧
    (∀ j, acceptingJob s = some j → chkJob kind td s = .ok → ∃ t j', exec i s = .next t ∧
      t = { s with cores := t.cores, dies := t.dies } ∧
      (coreOf t s.cur.core).pos = (movedOn s (cc s)).pos ∧ (coreOf t s.cur.core).memReq = none ∧
      (coreOf t s.cur.core).leaving = (cc s).leaving ++ [.job d j.id] ∧
      (coreOf t s.cur.core).arch.scratch = (cc s).arch.scratch ∧
      (∀ k, k ≠ s.cur.core → coreOf t k = coreOf s k) ∧ (∀ e, e ≠ d → dieOf t e = dieOf s e) ∧
      dieOf t d = { dieOf s d with jobs := (dieOf s d).jobs.filter (fun a => decide (a.id ≠ j.id)) ++ [j'] } ∧
      j'.st = .accepted ∧ j'.accTick = s.tick ∧ j'.id = j.id ∧ j'.card = j.card ∧ j'.kind = j.kind ∧
      (j.kind ≠ 5 → ∀ n, n ∈ j'.edges ↔ ∃ a ∈ (dieOf s d).jobs,
        a.id = n ∧ a.st ≠ .accepting ∧ a.kind ≠ 5 ∧ jobEdge a j' = true) ∧
      (j.kind ≤ 2 → cDsti j.card = 0 → ∃ x ∈ (coreOf t s.cur.core).landing,
        x = onItsWay s 1 (.arm (BitVec.ofNat 6 (cDtile j.card)).toNat (.job d j.id) (some (BitVec.ofNat 12 (cTag j.card))) false)))

/-- The privileged instructions of MEM where their checks pass (R330 to R339): TLBI, OTI, OTA, CTXSAVE, CTXREST, LDP and STP ask the unit
and hold MEM until it answers; TLBI's bound is 256 cycles, for the package 1,024. OTW samples the entry in c + 2, STP its bytes, KEYW
its keys, whose source it clears in c + 5. KEYZ empties a slot, or every slot.

Below the level an instruction needs it is a privileged-instruction trap and has no other effect (R19): level 1 is needed by TLBI, OTW,
OTI, OTA, LDP, STP, CTXSAVE, CTXREST and JARM, level 3 by KEYW and KEYZ.

When they may issue (R19, R330 to R339, R523): the level; for OTW, OTI and OTA an identity of the package with an index of the table;
for TLBI with an object an index that is not 0; LDP and STP a physical address below 2^48 and a scratchpad offset, both multiples of the
size; KEYW a slot below 64, outside the quarantined lifecycle states; KEYZ a slot below 64 or all. -/
def Obligations.PrivilegedMemory : Prop :=
  (∀ (s : State) (kind : BitVec 2) (pkg cmp ded all : Bool) (hh : BitVec 5) (sx sy : BitVec 6) (n1 : BitVec 17) (size : BitVec 3)
    (disp : BitVec 18) (tag : BitVec 16),
    let x := readS s sx
    let y := readS s sy
    let h := readH s hh
    let a := (y + disp.signExtend 64).toNat
    let nb := 8 * 2 ^ size.toNat
    let holds (c : Core) : Core := { c with memReq := some s.nextId }
    let asks (i : Instr) (h : Word) (op : ReqOp) : Prop := ∃ d > s.tick, Sends i s holds 1 [asked s h op 8 [] .issued] [takenUp d s.nextId]
    let held (f : Core → Core) (lo : Nat) (i : Instr) : Prop := ∃ d ≥ s.tick + lo, IssuesWith i s fun c => { f c with memHold := some d }
    let at_ : BitVec 2 := (if cmp then 1 else 0) + (if ded then 2 else 0)
    (chkTlbi kind pkg sx sy n1 s = .ok → ∃ d, s.tick < d ∧ d ≤ s.tick + (if pkg then 1024 else 256) ∧
      Sends (.tlbi kind pkg sx sy n1) s holds 1 [asked s 0 (.tlbi kind.toNat pkg y x (n1.toNat + 1)) 8 [] .issued]
        [takenUp d s.nextId]) ∧
    (chkOti sy s = .ok → asks (.oti sy) 0 (.oti y)) ∧
    (chkOta cmp ded sy s = .ok → asks (.ota cmp ded sy) 0 (.ota y at_)) ∧
    (chkCtxsave hh sx sy s = .ok → asks (.ctxsave hh sx sy) h (.ctxsave x y)) ∧
    (chkCtxrest hh sx sy s = .ok → asks (.ctxrest hh sx sy) h (.ctxrest x y)) ∧
    (chkLdp size sx sy disp s = .ok → asks (.ldp size sx sy disp) 0 (.ldp x.toNat nb a)) ∧
    (chkStp size sx sy disp s = .ok → ∃ d ≥ s.tick + 3, Sends (.stp size sx sy disp) s
      (fun c => withSample s (holds c) 2 2 (.stp a nb s.nextId)) 1
      [{ asked s 0 (.stp x.toNat nb a []) 8 [] .issued with ready := s.tick + 3 }] [takenUp d s.nextId]) ∧
    (chkOtw sx sy s = .ok → held (fun c => withSample s c 2 2 (.otw x.toNat y)) 3 (.otw sx sy)) ∧
    (chkKeyw sx sy tag s = .ok → held (fun c => withStore s (withSample s c 2 2 (.keyw y.toNat x.toNat tag))
      (.bytes y.toNat (List.replicate 64 0))) 5 (.keyw sx sy tag)) ∧
    (chkKeyz all sx s = .ok → ∃ t d, exec (.keyz all sx) s = .next t ∧ s.tick ≤ d ∧
      t = { s with cores := t.cores, keys := if all then [] else tblDel s.keys x.toNat } ∧
      coreOf t s.cur.core = movedOn s { cc s with memHold := some d } ∧ ∀ j, j ≠ s.cur.core → coreOf t j = coreOf s j)) ∧
  (∀ (s : State) (i : Instr),
    (levelOf s.cur.core (cc s) = 0 → (∃ kind pkg sx sy n1, i = .tlbi kind pkg sx sy n1) ∨ (∃ sx sy, i = .otw sx sy) ∨
      (∃ sy, i = .oti sy) ∨ (∃ c d sy, i = .ota c d sy) ∨ (∃ z sx sy d, i = .ldp z sx sy d) ∨ (∃ z sx sy d, i = .stp z sx sy d) ∨
      (∃ h sx sy, i = .ctxsave h sx sy) ∨ (∃ h sx sy, i = .ctxrest h sx sy) ∨ (∃ sc, i = .jarm sc) → Faults i s 4 0 0) ∧
    (levelOf s.cur.core (cc s) < 3 → (∃ sx sy t, i = .keyw sx sy t) ∨ (∃ a sx, i = .keyz a sx) → Faults i s 4 0 0)) ∧
  (∀ (s : State) (kind : BitVec 2) (pkg cmp ded all : Bool) (sx sy : BitVec 6) (n1 : BitVec 17) (size : BitVec 3) (disp : BitVec 18)
    (tag : BitVec 16),
    let lvl := levelOf s.cur.core (cc s)
    let x := readS s sx
    let y := readS s sy
    let nb := 8 * 2 ^ size.toNat
    let home := y.toNat / 2 ^ 28 / 2 ^ 24 = s.pkg.toNat ∧ y.toNat / 2 ^ 28 % 2 ^ 24 ≠ 0 ∧
      y.toNat / 2 ^ 28 % 2 ^ 24 < 2 ^ otLog s (coreDie s.cur.core)
    let fits (a : Word) (n : Nat) : Prop := a.toNat % n = 0 ∧ a.toNat + n ≤ scratchSize s.cur.core
    (chkTlbi kind pkg sx sy n1 s = .ok ↔ 1 ≤ lvl ∧ (kind ≠ 0 → y.toNat / 2 ^ 28 % 2 ^ 24 ≠ 0)) ∧
    (chkOtw sx sy s = .ok ↔ 1 ≤ lvl ∧ fits x 64 ∧ home) ∧
    (chkOti sy s = .ok ↔ 1 ≤ lvl ∧ home) ∧
    (chkOta cmp ded sy s = .ok ↔ 1 ≤ lvl ∧ home) ∧
    (chkLdp size sx sy disp s = .ok ↔ 1 ≤ lvl ∧ x.toNat % nb = 0 ∧ x.toNat < 2 ^ 48 ∧ fits (y + disp.signExtend 64) nb) ∧
    (chkStp size sx sy disp s = .ok ↔ 1 ≤ lvl ∧ x.toNat % nb = 0 ∧ x.toNat < 2 ^ 48 ∧ fits (y + disp.signExtend 64) nb) ∧
    (chkKeyw sx sy tag s = .ok ↔ 3 ≤ lvl ∧ fits y 64 ∧ x.toNat ≤ 63 ∧ s.secure.lcs ≠ 3 ∧ s.secure.lc ≠ 0 ∧ s.secure.lc ≠ 4) ∧
    (chkKeyz all sx s = .ok ↔ 3 ≤ lvl ∧ (all = false → x.toNat ≤ 63)))

/-! ## MX and FAB -/

/-- MCALL, MCALLW and MLDSTORE (R229, R230): with an idle sequencer MCALL starts the routine at its micro-address, with the eight parameters
latched and fmt recorded, the first micro-operation no sooner than two cycles on; MCALLW also keeps MX at its level. MLDSTORE samples 16
bytes for each entry of its tile from c + 2 on, 64 entries a cycle. A busy sequencer makes each wait. -/
def Obligations.MatrixCalls : Prop :=
  ∀ (s : State) (ua n1 : BitVec 9) (td : BitVec 6),
    let n := n1.toNat + 1
    let last := s.tick + 1 + (n + 63) / 64
    let seq (f : Sequencer → Sequencer) (c : Core) : Core := { c with arch := { c.arch with seq := f c.arch.seq } }
    let starts (hold : Bool) (i : Instr) : Prop := ∃ lat : Tbl Word, (∀ k < 8, tblGet (0 : Word) lat k = readMp s k) ∧
      IssuesWith i s fun c => seq (fun q =>
        { q with latch := lat, fmts := readFmt s, state := 1, upc := ua.toNat, loops := [], bySec := s.cur.sec, byHandler := c.intrap,
                 hold := if hold then some (levelOf s.cur.core c) else none, nextStart := s.tick + 2, mend := none, req := none,
                 waiting := false }) c
    (chkMcall s = .ok ↔ (seqr s).state = 0 ∧ (seqr s).load = none ∧ (cc s).rtDue = none) ∧
    (chkMcall s = .ok → starts false (.mcall ua) ∧ starts true (.mcallw ua)) ∧
    (chkMcall s ≠ .ok → exec (.mcall ua) s = .next s ∧ exec (.mcallw ua) s = .next s ∧ exec (.mldstore ua td n1) s = .next s) ∧
    (chkMldstore td n1 s = .ok → Sends (.mldstore ua td n1) s (fun c => seq (fun q =>
      { q with state := 1, bySec := s.cur.sec, byHandler := c.intrap, mend := none,
               load := some { key := s.nextId, ua := ua.toNat, n := n, base := tBase (ctlOf s td), last := last } })
      { readOnce c td with
        readers := c.readers ++ [{ key := s.nextId, start := s.tick + 2, win := .upTo last, mem := c.arch.scratch }] }) 1 [] []) ∧
    (chkMcall s = .ok → tSize (ctlOf s td) < 16 * n → Faults (.mldstore ua td n1) s 8 (BitVec.ofNat 64 td.toNat) 0)

/-- FSEND, FRECV and FRECVA at T where their checks pass (R305 to R308): flit i uses the i-th slot of the core's share at or after T. FSEND
reads its tile and samples each sub-block as its slot begins, with the tile's seq as the tag. FRECV arms its tile, unless the fabric
fills it already, and expects its flits; FRECVA clears the bits of their chunks in T + 1 and combines them under fmt.

The share of the frame table (R305, R449, R450): the i-th slot of a timed instruction is the i-th, in order of slots and then of ports,
whose entry gives the slot to the core for the share that it runs, and is not only reserved for that share; every slot found begins at
an even distance from T.

The timed sends and receives (R98, R305): a cycle that begins no slot of the core's share is a schedule fault; a sub-block outside the
tile is a tile-descriptor fault; before its cycle the slot waits and keeps the cycle, after it it is a schedule fault that names the
cycle. -/
def Obligations.FabricTransfers : Prop :=
  (∀ (s : State) (op : CombOp) (sc : BitVec 6) (off : BitVec 12) (td : BitVec 6) (n1 : BitVec 4) (m1 : BitVec 2),
    let t := namedCycle s (readS s sc + off.zeroExtend 64)
    let unnamed (c : Core) : Core := { c with named := c.named.filter fun x => decide (x.1 ≠ s.cur.slot) }
    let out := flitSlots s 0 t (n1.toNat + 1)
    let slots (l : List (Nat × Nat × Nat)) : List RecvSlot := l.map fun x => { port := x.2.1, at_ := s.tick + x.1, sub := fSub x.2.2 }
    let ctl := ctlOf s td
    let x := tileOf (cc s) td.toNat
    let filling := tBusy x = true ∧ x.prod = .fabric
    (chkFsend sc off td n1 s = .ok → Sends (.fsend sc off td n1) s (fun c =>
      { readOnce (unnamed c) td with
        samples := c.samples ++ (List.range out.length).map fun i =>
          let x := out.getD i (0, 0, 0)
          { due := s.tick + x.1, land := s.tick + x.1, held := false, age := s.cur.age, slot := s.cur.slot, sec := s.cur.sec,
            k := .fsend x.2.1 (s.nextId + i) (tBase ctl + 128 * fSub x.2.2) (BitVec.ofNat 12 (tSeq ctl)) (BitVec.ofNat 64 x.2.2) },
        sends := c.sends ++ (List.range out.length).map fun i => s.nextId + i }) out.length [] []) ∧
    (chkFrecv sc off td n1 s = .ok → IssuesWith (.frecv sc off td n1) s fun c =>
      let c := if filling then unnamed c else withLanding s (unnamed c) 1 (.arm td.toNat .fabric none true)
      { c with recvs := c.recvs ++ [{ tile := td, slots := slots (flitSlots s 1 t (n1.toNat + 1)), arms := decide ¬filling, comb := none }] }) ∧
    (chkFrecva op sc off td m1 s = .ok → IssuesWith (.frecva op sc off td m1) s fun c =>
      let l := flitSlots s 1 t (m1.toNat + 1)
      { withLanding s (readOnce (unnamed c) td) 1 (.clearBits td.toNat (subsMask l)) with
        recvs := c.recvs ++ [{ tile := td, slots := slots l, arms := false, comb := some (op, .rm, readFmt s) }] })) ∧
  (∀ (s : State) (dir t n : Nat),
    let l := flitSlots s dir t n
    let share := match launchOf s s.cur.core with | some x => lShare x.words | none => 0
    let reserved (key : Nat) : Prop := share ≠ 0 ∧ s.cur.core = 0 ∧ ∃ x, launchOf s s.cur.core = some x ∧ key ∉ x.frames
    l.length ≤ n ∧
    (∀ x ∈ l, x.1 % 2 = 0 ∧ x.2.1 < 133 ∧ fUse x.2.2 = 1 ∧ fDie x.2.2 = coreDie s.cur.core ∧ fCore x.2.2 = coreNum s.cur.core ∧
      x.2.2 / 2 ^ 54 % 256 = share ∧ ¬reserved (frameKey x.2.1 dir ((t + x.1) % 4096 / 2)) ∧
      x.2.2 = entryIn s (decide ((t + x.1) / 4096 ≠ s.gcyc.toNat / 4096)) (frameKey x.2.1 dir ((t + x.1) % 4096 / 2))) ∧
    (∀ i j, i < j → j < l.length → (l.getD i (0, 0, 0)).1 < (l.getD j (0, 0, 0)).1 ∨
      ((l.getD i (0, 0, 0)).1 = (l.getD j (0, 0, 0)).1 ∧ (l.getD i (0, 0, 0)).2.1 < (l.getD j (0, 0, 0)).2.1)) ∧
    ∀ d p, d % 2 = 0 → (∃ x ∈ l, d < x.1) → p < 133 →
      (let e := entryIn s (decide ((t + d) / 4096 ≠ s.gcyc.toNat / 4096)) (frameKey p dir ((t + d) % 4096 / 2))
       fUse e = 1 → fDie e = coreDie s.cur.core → fCore e = coreNum s.cur.core → e / 2 ^ 54 % 256 = share →
         ¬reserved (frameKey p dir ((t + d) % 4096 / 2)) → (d, p, e) ∈ l)) ∧
  (∀ (s : State) (sc : BitVec 6) (off : BitVec 12) (td : BitVec 6) (n1 : BitVec 4), gangChk s = .ok →
    let t := namedCycle s (readS s sc + off.zeroExtend 64)
    let out := flitSlots s 0 t (n1.toNat + 1)
    let inside := ∀ x ∈ out, 128 * fSub x.2.2 + 128 ≤ tSize (ctlOf s td)
    let begins := t % 2 = 0 ∧ shareAt s s.cur.core 0 (decide (t / 4096 ≠ s.gcyc.toNat / 4096)) (t % 4096 / 2) ≠ []
    let late := Faults (.fsend sc off td n1) s 6 (BitVec.ofNat 64 t) 0
    (¬begins → late) ∧
    (begins → ¬inside → Faults (.fsend sc off td n1) s 8 (BitVec.ofNat 64 td.toNat) 0) ∧
    (begins → inside → t < s.gcyc.toNat → late) ∧
    (begins → inside → s.gcyc.toNat < t → ∃ u, exec (.fsend sc off td n1) s = .next u ∧ OnlyCore s u s.cur.core fun c =>
      { c with named := c.named.filter (fun x => decide (x.1 ≠ s.cur.slot)) ++ [(s.cur.slot, s.cur.age, t)] }))

/-- FMARK, FRDV and FCTL (R267, R309 to R311, R504): FMARK's markers leave when the segment commits, one to the own package reports in the
next cycle, a package above 2,303 is a route fault that names it; FRDV ends its own wait and the gang's; FCTL.sync reports when the
sends still under way are acknowledged, in the next cycle where there are none; FCTL.stat's counts land in c + 4. -/
def Obligations.FabricMarks : Prop :=
  ∀ (s : State) (sc : BitVec 6) (off : BitVec 12) (td : BitVec 6) (k : BitVec 7),
    let reports (c : Core) : Core :=
      { withLanding s c 1 (.clearBits td.toNat (BitVec.ofNat 128 (2 ^ k.toNat))) with
        reports := tblSet 0 c.reports (repKey td k.toNat) (tblGet 0 c.reports (repKey td k.toNat) + 1) }
    let done (d : Nat) (w : Word) (bs : List Byte) : Event :=
      { due := d, instr := .reportLands,
        ev := { Ev.none with core := s.cur.core, id := s.nextId, tile := td, n := k.toNat, w := w, bytes := bs } }
    let pkg := (readS s sc).toNat
    let rep := (gangChk s).and (reportChk s td k.toNat)
    (gangChk s = .ok → pkg > 2303 → Faults (.fmark sc k td) s 30 (readS s sc) 0) ∧
    (chkFmark sc k td s = .ok → pkg = s.pkg.toNat → Sends (.fmark sc k td) s reports 0 [] [done (s.tick + 1) 0 []]) ∧
    (chkFmark sc k td s = .ok → pkg ≠ s.pkg.toNat → Sends (.fmark sc k td) s (fun c =>
      { reports c with leaving := c.leaving ++ [.marker s.nextId td k.toNat (BitVec.ofNat 12 pkg)] }) 1 [] []) ∧
    (chkFrdv sc off s = .ok → ∃ t, exec (.frdv sc off) s = .next t ∧ t = { s with cores := t.cores, dies := t.dies } ∧
      coreOf t s.cur.core = movedOn s { cc s with nrv := none, gangWait := false, rewound := false } ∧
      (∀ j, j ≠ s.cur.core → coreOf t j = coreOf s j) ∧
      ∀ d, dieOf t d = { dieOf s d with gangs := (dieOf t d).gangs }) ∧
    (rep = .ok → (cc s).sends = [] → Sends (.fctlSync k td) s reports 0 [] [done (s.tick + 1) 0 []]) ∧
    (rep = .ok → (cc s).sends ≠ [] → IssuesWith (.fctlSync k td) s fun c =>
      { reports c with syncs := c.syncs ++ [(td, k.toNat, s.nextId)] }) ∧
    (rep = .ok → Sends (.fctlStat k td) s reports 0 []
      [done (s.tick + 4) (BitVec.ofNat 64 (tBase (ctlOf s td) + 512 * k.toNat))
        ([(cc s).statLate, (cc s).statReplay, (cc s).statSched, (cc s).statLast, 0, 0, 0, 0].flatMap fun w => bytesOf w.toNat 8)])

/-! ## CTL -/

/-- BR, BRP, JMP, CALL, RET and LBRK (R91, R166 to R169, R173): CTL sends decode to the target, or past the bundle and around a loop that it
ends, two cycles on. BR and LBRK compare their register with 0, BRP tests a predicate of all ones or all zeros and is a branch-predicate
trap on any other, CALL writes link.ret after one cycle, LBRK leaves the innermost loop and is a loop-underflow fault where none is
open. -/
def Obligations.Transfers : Prop :=
  ∀ (s : State) (cd : ICond) (sc : BitVec 6) (p : BitVec 5) (pol : Bool) (disp : BitVec 24),
    let own := s.cur.off
    let len := if s.cur.lit then 25 else 1
    let stream (f : Strm → Strm) (c : Core) : Core := updStrm c s.cur.sec f
    let goes (n : Nat) : Core → Core := stream fun x => { x with next := n, hold := .until (s.tick + 2) }
    let falls : Core → Core := stream fun x => { seqNext x own len with hold := .until (s.tick + 2) }
    let dest := (((own : Int) + disp.toInt) % 2 ^ 64).toNat
    let v := readS s sc
    let holds : Prop := match cd with
      | .eq => v = 0 | .ne => v ≠ 0 | .lt => v.toInt < 0 | .le => v.toInt ≤ 0 | .gt => 0 < v.toInt | .ge => 0 ≤ v.toInt
      | .ltn => False | .len => v = 0 | .gtn => v ≠ 0 | .gen => True
    let pr := readP s p.toNat
    let lsp := (strmOf (cc s) s.cur.sec).lsp
    let stop := loopEnd (strmOf (cc s) s.cur.sec) (lsp - 1)
    (holds → IssuesWith (.br cd sc disp) s (goes dest)) ∧
    (¬holds → IssuesWith (.br cd sc disp) s falls) ∧
    (pr = BitVec.allOnes 512 → IssuesWith (.brp p pol disp) s (if pol then falls else goes dest)) ∧
    (pr = 0 → IssuesWith (.brp p pol disp) s (if pol then goes dest else falls)) ∧
    (pr ≠ 0 → pr ≠ BitVec.allOnes 512 → Faults (.brp p pol disp) s 5 (BitVec.ofNat 64 p.toNat) 0) ∧
    IssuesWith (.jmp none disp) s (goes dest) ∧
    IssuesWith (.jmp (some sc) disp) s (goes v.toNat) ∧
    IssuesWith (.call none disp) s (fun c => withLanding s (goes dest c) 1 (.link s.cur.sec (BitVec.ofNat 64 ((own + len) % 2 ^ 32)))) ∧
    IssuesWith (.call (some sc) disp) s
      (fun c => withLanding s (goes v.toNat c) 1 (.link s.cur.sec (BitVec.ofNat 64 ((own + len) % 2 ^ 32)))) ∧
    IssuesWith .ret s (goes ((readLink s).toNat % 2 ^ 32)) ∧
    (lsp = 0 → Faults (.lbrk cd sc) s 15 0 0) ∧
    (lsp ≠ 0 → holds → IssuesWith (.lbrk cd sc) s fun c => goes (stop + lenAt s s.cur.core stop) (stream loopPop c)) ∧
    (lsp ≠ 0 → ¬holds → IssuesWith (.lbrk cd sc) s falls)

/-- LOOP and LOOPI (R171): a count from 1 to 2^32 − 1 opens a loop whose body begins after the bundle and ends with the bundle named; LOOP's
count of 0 skips the body; a seventh loop is a loop-overflow fault, a count of 2^32 or more a loop-count fault, a body that ends within
a literal bundle's own halfwords an illegal-instruction trap. LOOPI that decode has acted on changes nothing more.

The end of a loop's body (R51, R52, R172): with a count above 1 decode goes back to the body's first bundle and the count falls by 1;
with a count of 1 the entry is popped, its v cleared, and decode goes on; elsewhere decode goes on past the bundle. -/
def Obligations.Loops : Prop :=
  (∀ (s : State) (sc : BitVec 6) (cnt : BitVec 16) (disp : BitVec 18),
    let own := s.cur.off
    let len := if s.cur.lit then 25 else 1
    let stream (f : Strm → Strm) (c : Core) : Core := updStrm c s.cur.sec f
    let goes (n : Nat) : Core → Core := stream fun x => { x with next := n, hold := .until (s.tick + 2) }
    let lsp := (strmOf (cc s) s.cur.sec).lsp
    let stop := own + disp.toNat
    let lo : Word := BitVec.ofNat 64 ((own + len) * 2 ^ 32 + 1)
    let hi (n : Nat) : Word := BitVec.ofNat 64 (n * 2 ^ 32 + stop)
    let opens (n : Nat) (c : Core) : Core := goes (own + len) (stream (fun x =>
      { x with
        lsp := x.lsp + 1
        loops := tblSet (0 : Word) (tblSet (0 : Word) x.loops (2 * x.lsp) lo) (2 * x.lsp + 1) (hi n) }) c)
    let n := (readS s sc).toNat
    let fits := s.cur.lit = false ∨ 25 ≤ disp.toNat
    (¬fits → Faults (.loop sc disp) s 3 0 0) ∧
    (fits →
    (0 < n → n < 2 ^ 32 → lsp ≠ 6 → IssuesWith (.loop sc disp) s (opens n)) ∧
    (n = 0 → IssuesWith (.loop sc disp) s (goes (stop + lenAt s s.cur.core stop))) ∧
    (2 ^ 32 ≤ n → Faults (.loop sc disp) s 16 0 0) ∧
    (0 < n → n < 2 ^ 32 → lsp = 6 → Faults (.loop sc disp) s 14 0 0) ∧
    (ctlDecides s = false → IssuesWith (.loopi cnt disp) s id) ∧
    (ctlDecides s = true → 0 < cnt.toNat → lsp ≠ 6 → IssuesWith (.loopi cnt disp) s (opens cnt.toNat)) ∧
    (ctlDecides s = true → 0 < cnt.toNat → lsp = 6 → Faults (.loopi cnt disp) s 14 0 0) ∧
    (ctlDecides s = true → cnt.toNat = 0 → IssuesWith (.loopi cnt disp) s (goes (stop + lenAt s s.cur.core stop))))) ∧
  (∀ (x : Strm) (off len : Nat),
    let i := x.lsp - 1
    let hi := tblGet (0 : Word) x.loops (2 * i + 1)
    let lo := tblGet (0 : Word) x.loops (2 * i)
    let count := (hi.extractLsb' 32 32).toNat
    let stop := (hi.extractLsb' 0 32).toNat
    let ends := 0 < x.lsp ∧ stop = off
    (¬ends → seqNext x off len = { x with next := off + len }) ∧
    (ends → 1 < count → seqNext x off len =
      { x with next := (lo.extractLsb' 32 32).toNat,
               loops := tblSet (0 : Word) x.loops (2 * i + 1) (hi - (1#64 <<< 32)) }) ∧
    (ends → count ≤ 1 → seqNext x off len =
      { x with next := off + len, lsp := i, loops := tblSet (0 : Word) x.loops (2 * i) (lo &&& ~~~1#64) }))

/-- FMTSET, FMTSETI, WAITC, WFI, IPI, JARM, YIELD and HALT (R175, R177 to R179, R325 to R328, R506): fmt lands after 4 cycles; WAITC waits
until the cycle that it names, WFI for a pending trap or, on a compute core, for stop; IPI reserves a place in its target and its signal
lands within the bound; JARM arms the trigger for a cycle at least 4,096 on; YIELD without stop goes on, with it its stream ends there;
HALT discards what its stream dispatched behind it.

WAITB (R176, R586): with the read right and nothing asked of the unit before, it completes once the phase it observes differs, is a
barrier-poisoned trap on a poisoned element, and waits while the phase equals its own. -/
def Obligations.ControlInstructions : Prop :=
  (∀ (s : State) (sc : BitVec 6) (imm : Word32) (imm28 : BitVec 28) (code : BitVec 16),
    let own := s.cur.off
    let len := if s.cur.lit then 25 else 1
    let lvl := levelOf s.cur.core (cc s)
    let stream (f : Strm → Strm) (c : Core) : Core := updStrm c s.cur.sec f
    let falls : Core → Core := stream fun x => { seqNext x own len with hold := .until (s.tick + 2) }
    let v := readS s sc
    let record (i : Instr) (es : List Event) : Prop := match launchOf s s.cur.core with
      | none => es = []
      | some x => ∃ e, es = [e] ∧ e.due = s.tick + 4 ∧ e.instr = i ∧ e.ev.core = s.cur.core ∧ e.ev.flag = s.cur.sec ∧ e.ev.flag2 = true ∧
          e.ev.id = yieldAt x.words (cc s).icore s.cur.sec ∧ (i = .yieldRelease → e.ev.w = BitVec.ofNat 64 (own + len) ∧
            e.ev.n = if (cc s).stopS then 1 else 0)
    let awake := (cc s).pend ≠ [] ∨ (s.cur.core < 384 ∧ (cc s).stopS = true)
    Lands (.fmtset sc) s 4 (.fmt s.cur.sec (v.extractLsb' 0 32)) ∧
    Lands (.fmtseti imm) s 4 (.fmt s.cur.sec imm) ∧
    ((v + imm28.zeroExtend 64).toNat ≤ s.gcyc.toNat → IssuesWith (.waitc sc imm28) s id) ∧
    (s.gcyc.toNat < (v + imm28.zeroExtend 64).toNat → exec (.waitc sc imm28) s = .next s) ∧
    (lvl = 0 → Faults .wfi s 4 0 0 ∧ Faults (.ipi sc code) s 4 0 0 ∧ Faults (.jarm sc) s 4 0 0) ∧
    (lvl ≠ 0 → ¬awake → exec .wfi s = .next s) ∧
    (lvl ≠ 0 → awake → (∀ p ∈ (cc s).pend.head?, p.cause = 48 → (cc s).ie = true) → IssuesWith .wfi s falls) ∧
    (∀ p rest, lvl ≠ 0 → (cc s).pend = p :: rest → p.cause = 48 → (cc s).ie = false → IssuesWith .wfi s fun c =>
      { falls c with pend := rest, sigRes := c.sigRes - 1, trapinfo := tblSet (0 : Word) c.trapinfo 0 p.info0 }) ∧
    (∀ t, lvl ≠ 0 → ipiTarget v = some t → (coreOf s t).sigRes < 16 → ∃ u d, exec (.ipi sc code) s = .next u ∧
      s.tick < d ∧ (d ≤ s.tick + (if coreDie t = coreDie s.cur.core then 64 else 256) ∨
        ∃ e ∈ s.agenda, e.instr = .signalLands ∧ e.ev.core = t ∧ e.ev.n = targetValue s.cur.core ∧ e.due = d) ∧
      u = { s with cores := u.cores, agenda := s.agenda ++
        [{ due := d, instr := .signalLands, ev := { Ev.none with core := t, code := code, n := targetValue s.cur.core } }] } ∧
      (coreOf u t).sigRes = (coreOf s t).sigRes + 1 ∧ (∀ j, (coreOf u j).arch = (coreOf s j).arch) ∧
      (coreOf u s.cur.core).pos = (movedOn s (cc s)).pos ∧ ∀ j, j ≠ t → j ≠ s.cur.core → coreOf u j = coreOf s j) ∧
    (lvl ≠ 0 → ipiTarget v = none → Faults (.ipi sc code) s 34 v 0) ∧
    (lvl ≠ 0 → s.gcyc.toNat + 4096 ≤ v.toNat → ∃ u, exec (.jarm sc) s = .next u ∧
      u = { s with cores := u.cores, jcyc := v, jarmed := true, jcore := some s.cur.core } ∧
      coreOf u s.cur.core = movedOn s (cc s) ∧ ∀ j, j ≠ s.cur.core → coreOf u j = coreOf s j) ∧
    (lvl ≠ 0 → v.toNat < s.gcyc.toNat + 4096 → Faults (.jarm sc) s 6 v 0) ∧
    (lvl ≠ 0 → Faults .yield s 3 0 0 ∧ Faults .halt s 3 0 0) ∧
    (lvl = 0 → (cc s).stopS = false → ∃ es, record .yieldRelease es ∧ Sends .yield s falls 0 [] es) ∧
    (lvl = 0 → (cc s).stopS = true → ∃ es, record .yieldRelease es ∧ Sends .yield s
      (stream fun x => { x with yielded := true, hold := .ended, endId := s.nextId, endAge := s.cur.age }) 0 [] es) ∧
    (lvl = 0 → ∃ u es, exec .halt s = .next u ∧ record .streamRetire es ∧
      u = { s with cores := u.cores, agenda := s.agenda ++ es } ∧
      (∀ j, j ≠ s.cur.core → coreOf u j = coreOf s j) ∧
      (strmOf (coreOf u s.cur.core) s.cur.sec).halted = true ∧ (strmOf (coreOf u s.cur.core) s.cur.sec).hold = .ended ∧
      strmOf (coreOf u s.cur.core) (!s.cur.sec) = strmOf (cc s) (!s.cur.sec) ∧
      (∀ d ∈ (coreOf u s.cur.core).queue.drop (s.cur.idx + 1), inStrm s.cur.sec d = false) ∧
      (coreOf u s.cur.core).arch.v = (cc s).arch.v ∧ (coreOf u s.cur.core).arch.scratch = (cc s).arch.scratch)) ∧
  (∀ (s : State) (hh : BitVec 5) (sx : BitVec 6) (ph : Bool), (cc s).waitReq = none →
    let h := readH s hh
    let sees := barrierAt s (coreDie s.cur.core) (cc s).dom.toNat h (readS s sx).toNat ph 1
    (hIndex h = 0 ∨ h.getLsbD 0 = false → Faults (.waitb hh sx ph) s 23 (handleInfo h) 0) ∧
    (hIndex h ≠ 0 → h.getLsbD 0 = true →
      (sees = .flipped → IssuesWith (.waitb hh sx ph) s id) ∧
      (sees = .poisoned → Faults (.waitb hh sx ph) s 22 (readS s sx) (handleInfo h)) ∧
      (∀ c, sees = .fault c → Faults (.waitb hh sx ph) s c (readS s sx) (handleInfo h)) ∧
      (sees ≠ .flipped → sees ≠ .poisoned → (∀ c, sees ≠ .fault c) → sees ≠ .deferred → (∀ p e, sees ≠ .remote p e) →
        exec (.waitb hh sx ph) s = .next s)))

/-! ## Exceptions -/

/-- What taking a trap leaves in the core (R20, R317): kernel level on a compute core, intrap set, ie clear, the information words, an empty
queue, decode at offset 0 of the vector's stream with pcbase 0, and nothing landing: what was landing is withheld. Registers, the
scratchpad and every other core are as they were.

R315, R317: the trap frame. It holds csw, the bases, the cause with its slot and flags, gcyc, the four information words, s24 to s31,
s56 to s63, h30 and h31; ctxst and every byte outside its 512 are as they were.

Where a trap is not taken (R21, R312, R323): a precise one met with intrap set is a double fault, reason 1; one whose vector's word
cannot be read or holds no length is a machine check of reason 6, one whose frame cannot be written of reason 7. A machine check of a
compute core stops it: nothing lands, no bundle is queued, its routine has ended, a record is posted. -/
def Obligations.TrapsTaken : Prop :=
  (∀ (s : State) (k : Nat) (t : Trap) (e : Word), (coreOf s k).intrap = false ∨ 9 ≤ t.slot → vectorEntry s k t.cause = .ok e →
    let c := coreOf s k
    let u := takeTrap s k t
    let d := coreOf u k
    u = { s with cores := u.cores, mem := u.mem } ∧ (∀ j, j ≠ k → coreOf u j = coreOf s j) ∧
    (k < 384 → d.level = 1) ∧ (384 ≤ k → d.level = c.level) ∧ d.intrap = true ∧ d.ie = false ∧ d.mode = c.mode ∧
    (d.trapinfo = tblSet (0 : Word) (tblSet (0 : Word) (tblSet (0 : Word) (tblSet (0 : Word) c.trapinfo 0 t.info0) 1 t.info1) 2
      t.info2) 3 t.info3) ∧
    d.queue = [] ∧ d.ptrap = none ∧ d.landing = [] ∧ d.arch.pri.pcbase = 0 ∧ d.arch.pri.next = 0 ∧
    d.phys = (e.toNat % 2 ^ 48 / 2 * 2, e.toNat / 2 ^ 52 * 512) :: c.phys ∧
    d.arch.pri.hold = .until ((if t.slot = 15 then s.tick else s.tick + 1) + 18) ∧
    d.withheld.length = c.withheld.length + c.landing.length ∧
    d.arch.pri.s = c.arch.pri.s ∧ d.arch.sec.s = c.arch.sec.s ∧ d.arch.pri.lsp = c.arch.pri.lsp ∧ d.arch.v = c.arch.v ∧
    d.arch.p = c.arch.p ∧ d.arch.acc = c.arch.acc ∧ d.arch.tiles = c.arch.tiles ∧ d.arch.h = c.arch.h ∧ d.arch.scratch = c.arch.scratch) ∧
  (∀ (s : State) (k : Nat) (t : Trap) (e : Word), (coreOf s k).intrap = false ∨ 9 ≤ t.slot → vectorEntry s k t.cause = .ok e →
    let c := coreOf s k
    let u := takeTrap s k t
    let base := c.ktvb.toNat + 0x200
    let at_ (o : Nat) : Word := physWord u (base + o)
    let path := pathOf c false
    at_ 0x000 = cswOf k c false ∧
    at_ 0x008 = BitVec.ofNat 64 (c.arch.pri.segbase * 2 ^ 32 + path.getD 0 0) ∧
    (at_ 0x010).extractLsb' 0 8 = BitVec.ofNat 8 t.cause ∧
    (t.cause < 256 → t.slot < 16 → path.length < 32 → (at_ 0x010).extractLsb' 8 4 = BitVec.ofNat 4 t.slot ∧
      (at_ 0x010).getLsbD 12 = t.sec ∧ (at_ 0x010).getLsbD 13 = t.rt ∧ (at_ 0x010).getLsbD 14 = t.late ∧
      (at_ 0x010).extractLsb' 16 5 = BitVec.ofNat 5 path.length) ∧
    at_ 0x018 = s.gcyc ∧ at_ 0x020 = t.info0 ∧ at_ 0x028 = t.info1 ∧ at_ 0x030 = t.info2 ∧ at_ 0x038 = t.info3 ∧
    (∀ i < 8, at_ (0x100 + 8 * i) = tblGet (0 : Word) c.arch.pri.s (24 + i) ∧
      at_ (0x140 + 8 * i) = tblGet (0 : Word) c.arch.pri.s (56 + i)) ∧
    at_ 0x180 = tblGet (0 : Word) c.arch.h 30 ∧ at_ 0x188 = tblGet (0 : Word) c.arch.h 31 ∧
    at_ 0x050 = physWord s (base + 0x050) ∧
    ∀ a, a < base ∨ base + 512 ≤ a → memGet u.mem a = memGet s.mem a) ∧
  (∀ (s : State) (k : Nat) (t : Trap),
    let kt := (coreOf s k).ktvb.toNat
    let stops (u : State) (reason : Nat) : Prop :=
      let d := coreOf u k
      d.run = .machineChecked ∧ d.landing = [] ∧ d.withheld = [] ∧ d.queue = [] ∧ d.heldStt = [] ∧ d.leaving = [] ∧
      d.arch.seq.state = 0 ∧ d.arch.scratch = (coreOf s k).arch.scratch ∧ u.mem = s.mem ∧
      (∃ r, (dieOf u (coreDie k)).recs = (dieOf s (coreDie k)).recs ++ [r] ∧ r.kind = 4 ∧ r.code = reason ∧ r.num = coreNum k)
    k < 384 →
    ((coreOf s k).intrap = true → t.slot < 9 → stops (takeTrap s k t) 1) ∧
    ((coreOf s k).intrap = false → memReadable s (kt + 8 * t.cause) 8 = false → stops (takeTrap s k t) 6) ∧
    ((coreOf s k).intrap = false → memReadable s (kt + 8 * t.cause) 8 = true →
      (physWord s (kt + 8 * t.cause)).toNat / 2 ^ 52 = 0 → stops (takeTrap s k t) 6) ∧
    ((coreOf s k).intrap = false → memReadable s (kt + 8 * t.cause) 8 = true →
      (physWord s (kt + 8 * t.cause)).toNat / 2 ^ 52 ≠ 0 → memReadable s (kt + 0x200) 512 = false → stops (takeTrap s k t) 7) ∧
    ∃ u, exec .machineCheck { s with ev := { s.ev with core := k, n := 5, w := 7 } } = .next u ∧ stops u 5)

/-- KRET (R318 to R321): with no STP outstanding and a frame that passes the checks, level, ie and intrap come back from the frame's csw,
s24 to s31, s56 to s63, h30 and h31 from their words, the loop depth from csw with the entries above it cleared; the withheld writes
keep their distances from the cycle in which the path goes on. A frame that fails them is a machine check of reason 2.

TRAP and KCALL (R181), and the trap at the end of a cycle (R103, R320): the two count as issued, with decode past the bundle, and put
their code into trapinfo0; the core's trap is taken before any pending asynchronous one, which is taken only with ie set. Where a vector
can be entered, TRAP_ENTRY enters it; with nothing to take it does nothing. -/
def Obligations.ReturnsAndSoftwareTraps : Prop :=
  (∀ (s : State),
    let k := s.cur.core
    let c := cc s
    let f (o : Nat) : Word := frameAt s k o
    let csw := f 0x000
    let cause := (f 0x010).toNat
    let npp := cause / 2 ^ 16 % 32
    let ok := memReadable s (c.ktvb.toNat + 0x200) 512 = true ∧
      frameOk c.arch.pri csw npp (framePath s k 0x060 npp) ((f 0x008).toNat % 2 ^ 32) ((f 0x0E8).getLsbD 63) = true ∧
      cause / 2 ^ 21 % 32 = 0
    levelOf k c ≠ 0 →
    (stpPending s k = true → exec .kret s = .next s) ∧
    (stpPending s k = false → ok → ∃ u, exec .kret s = .next u ∧
      let d := coreOf u k
      u = { s with cores := u.cores } ∧ (∀ j, j ≠ k → coreOf u j = coreOf s j) ∧
      (k < 384 → d.level = csw.extractLsb' 62 2) ∧ (384 ≤ k → d.level = c.level) ∧
      d.ie = csw.getLsbD 59 ∧ d.intrap = csw.getLsbD 58 ∧ d.mode = c.mode ∧ d.issueFrom = s.tick + 21 ∧ d.withheld = [] ∧
      d.landing = c.landing ++ c.withheld.map (fun x => { x with due := s.tick + 21 + x.due }) ∧
      (∀ i < 8, tblGet (0 : Word) d.arch.pri.s (24 + i) = f (0x100 + 8 * i) ∧
        tblGet (0 : Word) d.arch.pri.s (56 + i) = f (0x140 + 8 * i)) ∧
      (∀ i, i < 24 ∨ (32 ≤ i ∧ i < 56) → tblGet (0 : Word) d.arch.pri.s i = tblGet (0 : Word) c.arch.pri.s i) ∧
      tblGet (0 : Word) d.arch.h 30 = f 0x180 ∧ tblGet (0 : Word) d.arch.h 31 = f 0x188 ∧
      (∀ i < 30, tblGet (0 : Word) d.arch.h i = tblGet (0 : Word) c.arch.h i) ∧
      d.arch.pri.lsp = (csw.extractLsb' 55 3).toNat ∧
      (∀ i < 6, (csw.extractLsb' 55 3).toNat ≤ i → (tblGet (0 : Word) d.arch.pri.loops (2 * i)).getLsbD 0 = false) ∧
      d.arch.v = c.arch.v ∧ d.arch.scratch = c.arch.scratch ∧ d.arch.tiles = c.arch.tiles) ∧
    (stpPending s k = false → k < 384 →
      memReadable s (c.ktvb.toNat + 0x200) 512 = false ∨
        frameOk c.arch.pri csw npp (framePath s k 0x060 npp) ((f 0x008).toNat % 2 ^ 32) ((f 0x0E8).getLsbD 63) = false →
      ∃ u, exec .kret s = .next u ∧ (coreOf u k).run = .machineChecked ∧
        ∃ r ∈ (dieOf u (coreDie k)).recs, r.kind = 4 ∧ r.code = 2)) ∧
  (∀ (s : State) (code : BitVec 16),
    let len := if s.cur.lit then 25 else 1
    let soft (i : Instr) (cause : Nat) : Prop := IssuesWith i s fun c =>
      { updStrm c s.cur.sec (fun x => { seqNext x s.cur.off len with hold := .until (s.tick + 2) }) with
        ptrap := some { preciseTrap s cause 0 0 with info0 := code.zeroExtend 64 } }
    let k := s.ev.core
    let c := coreOf s k
    ((cc s).ptrap = none → soft (.trap code) 35 ∧ soft (.kcall code) 36) ∧
    (levelOf s.cur.core (cc s) = 0 → Faults .kret s 4 0 0) ∧
    (∀ t, c.ptrap = some t → nextTrap c = some t) ∧
    (c.ptrap = none → c.pend = [] → nextTrap c = none ∧ exec .trapEntry s = .next s) ∧
    (∀ p r, c.ptrap = none → c.pend = p :: r → nextTrap c = if c.ie then some (asyncTrap p) else none) ∧
    (∀ t e, nextTrap c = some t → c.intrap = false ∨ 9 ≤ t.slot → vectorEntry s k t.cause = .ok e →
      ∃ u, exec .trapEntry s = .next u ∧ (coreOf u k).intrap = true ∧ (coreOf u k).ie = false ∧ (k < 384 → (coreOf u k).level = 1) ∧
        tblGet (0 : Word) (coreOf u k).trapinfo 0 = t.info0 ∧ tblGet (0 : Word) (coreOf u k).trapinfo 2 = t.info2 ∧
        (t.slot = 15 → (coreOf u k).pend = c.pend.drop 1) ∧ (∀ j, j ≠ k → coreOf u j = coreOf s j) ∧
        (coreOf u k).arch.v = c.arch.v ∧ (coreOf u k).arch.pri.s = c.arch.pri.s))

/-! ## Micro-operations -/

/-- MMA and MMAS (R237, R241, R242): with the array free and nothing in flight that they depend on, legal formats, accumulators and panel,
and their tiles complete, they start; the array is taken for the positions divided by its rate, stretched by the clamp, and the result
is complete 8 cycles later. The tiles count as read.

What the micro-operations of the accumulators give (R133 to R137, R243, R244): MZERO zeros; MACC the sum of two accumulators, or of one
and a tile's elements, or the tile's elements, in FP32 or in 32 bits that wrap; MMA of at most 32 positions the one step of its block's
exact sum in the rows of its tile; every other element and every other accumulator as before. -/
def Obligations.MatrixProducts : Prop :=
  (∀ (s : State) (x : MIdx) (acc ta st sacc : BitVec 6) (wg : BitVec 9) (ka : BitVec 10) (kb : BitVec 11) (kn : BitVec 10) (adv : Bool),
    let k := idxWord s x
    let n := kn.toNat + 1
    let a := acc.toNat + k % 256
    let sa := sacc.toNat + k / 2 ^ 32 % 256
    let t : BitVec 6 := BitVec.ofNat 6 (ta.toNat + k / 2 ^ 8 % 256)
    let g := (wg.toNat + k / 2 ^ 16 % 256) % 512
    let u : BitVec 6 := BitVec.ofNat 6 (st.toNat + k / 2 ^ 24 % 256)
    let ai := if adv then ka.toNat + loopIndex s * n else ka.toNat
    let bi := if adv then kb.toNat + loopIndex s * n else kb.toNat
    let fm := (seqr s).fmts
    let h := panelHdr (cc s).arch.wbuf g
    let ac := (tileOf (cc s) t.toNat).ctl
    let uc := (tileOf (cc s) u.toNat).ctl
    let zero := fmtBsm fm = 2
    let rA (scaled : Bool) := a :: (if scaled && decide zero then [sa] else [])
    let free (scaled : Bool) : Prop := (seqr s).arrayFree ≤ s.tick ∧ depends s [] [] [(1024 * g, 8)] [] false = false ∧
      depends s (rA scaled) [a] (panelReads g h bi n scaled) [] true = false ∧ roomWait s [a] [] [] = false
    let legal (scaled : Bool) : Prop := mmaFmtChk fm scaled = .ok ∧ accChk s a = .ok ∧ tFmtCode ac = fmtAf fm ∧ ai + n ≤ tCols ac ∧
      phV h = true ∧ phFmt h = fmtBf fm ∧ bi + n ≤ phK h ∧ (phForm h = 1 → bi % 4 = 0 ∧ n % 4 = 0) ∧
      tileChk s t (colMask ac (tRows ac) ai n) = .ok
    let scale : Prop := accChk s sa = .ok ∧ ai % 32 = 0 ∧ bi % 32 = 0 ∧ phSc h = true ∧ tFmtCode uc = 13 ∧
      tRows ac ≤ tRows uc ∧ ai / 32 + (n + 31) / 32 ≤ tCols uc ∧ tileChk s u (colMask uc (tRows ac) (ai / 32) ((n + 31) / 32)) = .ok
    let occ := (n + arrayRate fm (phForm h) - 1) / arrayRate fm (phForm h) * 2 ^ clampOf s s.cur.core
    let array (n : Nat) (q : Sequencer) : Sequencer := { q with arrayFree := n }
    straight s →
    (free false → legal false → Starts (.mma x acc ta wg ka kb kn adv) s (fun c => readOnce c t)
      (.mma false a ac g ai bi n (tileOf (cc s) 0).ctl 0) occ 8 array) ∧
    (free true → legal true → scale → Starts (.mmas x acc ta wg ka kb kn adv st sacc) s (fun c => readOnce (readOnce c u) t)
      (.mma true a ac g ai bi n uc sa) occ 8 array)) ∧
  (∀ (c : Core) (f : Fly) (m : Mem) (a b : Nat) (ta : Word) (i j : Nat), i < 128 → j < 128 →
    let fm := c.arch.seq.fmts
    let old := accElem (accOf c a) i j
    let new := accElem (accOf (applyWork c f m) a) i j
    let flt (x : Nat) : Machine.Num := decodeFlt .fp32 (fmtFtz fm) x
    let out (x : Machine.Num) : Nat := encodeFlt .fp32 (rne32 fm) x % 2 ^ 32
    let elem := tElem m ta i j
    let ty := fmtNty (tFmt ta)
    let inTile := i < tRows ta ∧ j < tCols ta
    (f.work = .mzero a → new = 0) ∧
    (f.work = .maccA a b → cfInt fm = true → new = (old + accElem (accOf c b) i j) % 2 ^ 32) ∧
    (f.work = .maccA a b → cfInt fm = false → new = out (Machine.Num.add .rne (flt old) (flt (accElem (accOf c b) i j)))) ∧
    (∀ load, f.work = .maccT load a ta → ¬inTile → new = old) ∧
    (f.work = .maccT true a ta → inTile → cfInt fm = false → new = out (decodeNum ty (fmtFtz fm) elem)) ∧
    (f.work = .maccT false a ta → inTile → cfInt fm = false → new = out (Machine.Num.add .rne (flt old) (decodeNum ty (fmtFtz fm) elem))) ∧
    (∀ wg ka kb n st sa, f.work = .mma false a ta wg ka kb n st sa → 0 < n → n ≤ 32 →
      new = if i < tRows ta then
          blockStep fm old (prodSum (fun k => prodAt fm ty (phNty (panelHdr c.arch.wbuf wg)) (tElem m ta i (ka + k))
            (panelElem c.arch.wbuf wg (kb + k) j)) n) (.fin false 1 1 0 false) % 2 ^ 32
        else old) ∧
    (f.work = .mzero a ∨ f.work = .maccA a b → ∀ e, e ≠ a → accOf (applyWork c f m) e = accOf c e))

/-- MLDW, MZERO, MDRAIN, MSUMROW and MACC (R239, R243, R244, R246): with their unit free, nothing in flight that they depend on, room in the
segment's record and passing checks, each starts; MLDW takes a cycle for each granule, MZERO and MACC 8, MDRAIN 8 and its rows land 12
cycles on, MSUMROW 8 and one for each 2,048 bytes. A tile read counts as read; a drain that arms its tile does so at its start. -/
def Obligations.MatrixTransfers : Prop :=
  ∀ (s : State) (x : MIdx) (acc ta acc2 td qs : BitVec 6) (wg : BitVec 9) (form : BitVec 2) (sc : Bool) (kn : BitVec 11) (c0 : BitVec 10)
    (r : RSel) (ar q : Bool) (tag : BitVec 12) (mode : BitVec 2),
    let k := idxWord s x
    let fm := (seqr s).fmts
    let a := acc.toNat + k % 256
    let b := acc2.toNat + k / 2 ^ 32 % 256
    let t : BitVec 6 := BitVec.ofNat 6 (ta.toNat + k / 2 ^ 8 % 256)
    let d : BitVec 6 := BitVec.ofNat 6 (td.toNat + k / 2 ^ 8 % 256)
    let u : BitVec 6 := BitVec.ofNat 6 (qs.toNat + k / 2 ^ 24 % 256)
    let g := (wg.toNat + k / 2 ^ 16 % 256) % 512
    let ctl (t : BitVec 6) := (tileOf (cc s) t.toNat).ctl
    let whole (t : BitVec 6) : Prop := tileChk s t (tMask (tileOf (cc s) t.toNat)) = .ok
    let kk := kn.toNat + 1
    let w := (fmtNty ((fmtOf (BitVec.ofNat 4 (fmtBf fm))).getD .bf16)).width
    let n := panelBytes form.toNat w kk sc
    let gr := (64 + n + 1023) / 1024
    let h := panelHdr (cc s).arch.wbuf g
    let port (n : Nat) (q : Sequencer) : Sequencer := { q with accFree := n }
    let accFree : Prop := (seqr s).accFree ≤ s.tick
    let dep (rA wA : List Nat) (rW wW : List (Nat × Nat)) : Prop := depends s rA wA rW wW false = false
    straight s →
    ((seqr s).fillFree ≤ s.tick → dep [] [] [] [(1024 * g, 64 + n)] → roomWait s [] (granList g gr) [] = false → matFmt (fmtBf fm) = true →
      g + gr ≤ 512 → (form = 1 → kk % 4 = 0) → n ≤ tSize (ctl t) → tileChk s t (chunkMask 0 n) = .ok →
      Starts (.mldw x ta wg form sc kn) s (fun c => readOnce c t) (.mldw (ctl t) g form.toNat sc kk) gr 0 fun n q => { q with fillFree := n }) ∧
    (accFree → dep [] [a] [] [] → roomWait s [a] [] [] = false → accChk s a = .ok →
      Starts (.mzero x acc) s id (.mzero a) 8 0 port) ∧
    ((seqr s).drainFree ≤ s.tick → dep [a] [] [] [] →
      roomWait s [] [] (drainGrans (ctl d) c0.toNat (drainCols (ctl d) c0.toNat)) = false → cfChk fm = .ok → rmChk r fm = .ok →
      accChk s a = .ok → tBusy (tileOf (cc s) d.toNat) = false →
      (q = true → 640 ≤ tSize (ctl u) ∧ tileChk s u (chunkMask 0 640) = .ok) →
      Starts (.mdrain x acc td c0 r ar tag q qs) s
        (fun c => let c := if q then readOnce c u else c
                  if ar then updTile c d.toNat fun y => armWord y .drain (some tag) false c.segOpen else c)
        (.mdrain a d (ctl d) c0.toNat r (seqr s).tsa (seqr s).tsb (if q then some (ctl u) else none)) 8 12 fun n q => { q with drainFree := n }) ∧
    (accFree → dep [] [a] [] [] → roomWait s [a] [] [] = false → accChk s a = .ok → byteInts (tFmtCode (ctl t)) = true → whole t →
      Starts (.msumrow x false acc ta wg) s (fun c => readOnce c t) (.msumA a (ctl t)) (8 + (tSize (ctl t) + 2047) / 2048) 0 port) ∧
    (accFree → dep [] [] [(1024 * g, 8)] [] → dep [] [a] (storedReads g h) [] → roomWait s [a] [] [] = false → accChk s a = .ok →
      phV h = true → byteInts (phFmt h) = true →
      Starts (.msumrow x true acc ta wg) s id (.msumB a g) (8 + (storedBytes (phForm h) (phNty h).width (phK h) + 2047) / 2048) 0 port) ∧
    (mode = 0 → accFree → dep [a, b] [a] [] [] → roomWait s [a] [] [] = false → cfChk fm = .ok → accChk s a = .ok →
      accChk s b = .ok → Starts (.macc x mode acc ta acc2) s id (.maccA a b) 8 0 port) ∧
    (mode ≠ 0 → accFree → dep [a] [a] [] [] → roomWait s [a] [] [] = false → cfChk fm = .ok → accChk s a = .ok →
      (cfInt fm = true → (fmtNty (tFmt (ctl t))).isInt = true) → whole t →
      Starts (.macc x mode acc ta acc2) s (fun c => readOnce c t) (.maccT (decide (mode = 2)) a (ctl t)) 8 0 port)

/-- MWAITT, MWAITB, MSETS, MLOOP and MEND (R245, R247 to R250): a wait goes on once the tile's chunks are complete or the barrier's phase
differs; MSETS takes its scales from its fields or the latch; MLOOP opens a loop of 1 to 4,095 turns, of none it goes on behind the last
micro-operation of the body, and a fourth loop is a routine fault of cause 14; MEND ends the loops and marks the routine's end.

Where the routine goes on (R247): behind a micro-operation at which the innermost loop ends, with turns left, at the loop's first
micro-operation with the index one higher; after the last turn the loop is left by an event of its own, which pops it and goes on behind
it. The end of the routine frees the sequencer and MX (R229). -/
def Obligations.RoutineControl : Prop :=
  (∀ (s : State) (x : MIdx) (ta : BitVec 6) (first cm : BitVec 7) (hh : BitVec 5) (idx : BitVec 16) (ph : Bool) (tsa tsb : Word32)
    (cnt : BitVec 12) (last : BitVec 9),
    let k := idxWord s x
    let q := seqr s
    let t : BitVec 6 := BitVec.ofNat 6 (ta.toNat + k / 2 ^ 8 % 256)
    let m : BitVec 128 := BitVec.ofNat 128 ((2 ^ (cm.toNat + 1) - 1) * 2 ^ first.toNat)
    let el : Word := BitVec.ofNat 64 ((idx.toNat + k / 2 ^ 48) % 65536)
    let h := readH s hh
    let sees := barrierAt s (coreDie s.cur.core) (cc s).dom.toNat h el.toNat ph 0
    let n := if x.ix then k / 2 ^ 48 % 4096 else cnt.toNat
    let seq (f : Sequencer → Sequencer) (c : Core) : Core := { c with arch := { c.arch with seq := f c.arch.seq } }
    (straight s → 512 * (first.toNat + cm.toNat) < tSize (tileOf (cc s) t.toNat).ctl → tileChk s t m = .ok →
      MicroGoesOn (.mwaitt x ta first cm) s (fun c => readOnce c t) id) ∧
    (straight s → q.req = none → hIndex h ≠ 0 → h.getLsbD 0 = true → sees = .flipped → MicroGoesOn (.mwaitb x hh idx ph) s id id) ∧
    (straight s → MicroGoesOn (.msets x tsa tsb) s id fun q =>
      { q with tsa := if x.ix then BitVec.ofNat 32 k else tsa, tsb := if x.ix then BitVec.ofNat 32 (k / 2 ^ 32) else tsb }) ∧
    (0 < n → q.loops.length < 3 → MicroGoesOn (.mloop x cnt last) s id fun q =>
      { q with loops := q.loops ++ [{ count := n, index := 0, stop := last.toNat, start := q.upc + 1 }] }) ∧
    (n = 0 → straight s → ∃ t, exec (.mloop x cnt last) s = .next t ∧ OnlyCore s t s.cur.core (seq fun q =>
      { q with upc := last.toNat + 1, nextStart := s.tick + 1, waiting := false })) ∧
    (0 < n → 3 ≤ q.loops.length → ∃ t, exec (.mloop x cnt last) s = .next t ∧ (seqr t).state = 2 ∧ (seqr t).upc = q.upc ∧
      ∃ p, (cc t).rtDue = some (s.tick + 1, p) ∧ p.cause = 14 ∧ p.rt = true) ∧
    (∃ t, exec .mend s = .next t ∧ OnlyCore s t s.cur.core (seq fun q => { q with loops := [], mend := some s.tick, waiting := false }))) ∧
  (∀ (s : State) (x : MIdx) (tsa tsb : Word32) (e : MLoopEnt),
    let q := seqr s
    let k := s.ev.core
    q.loops.getLast? = some e → e.stop = q.upc →
    (e.index + 1 < e.count → ∃ t, exec (.msets x tsa tsb) s = .next t ∧ (seqr t).upc = e.start ∧
      (seqr t).loops = q.loops.dropLast ++ [{ e with index := e.index + 1 }] ∧ t.work = s.work) ∧
    (e.count ≤ e.index + 1 → ∃ t w, exec (.msets x tsa tsb) s = .next t ∧ (seqr t).upc = q.upc ∧ (seqr t).loops = q.loops ∧
      t.work = .event w :: s.work ∧ w.instr = .microLoopExit ∧ w.ev.core = s.cur.core) ∧
    (∀ e', (coreOf s k).arch.seq.loops.getLast? = some e' → ∃ t, exec .microLoopExit s = .next t ∧ OnlyCore s t k fun c =>
      { c with arch := { c.arch with seq := { c.arch.seq with loops := c.arch.seq.loops.dropLast, upc := e'.stop + 1 } } }) ∧
    ∃ t, exec .routineEnd s = .next t ∧ OnlyCore s t k fun c =>
      { c with arch := { c.arch with seq := { c.arch.seq with state := 0, mend := none, hold := none } } })

/-! ## Events of a core -/

/-- DECODE_BUNDLE (R66, R90, R91, R104 to R106): a bundle that decode finds goes to the end of the queue with the next age; CTL's transfers
stop decode there, and where the bundle does nothing with it decode goes on past the bundle. A literal takes a cycle more; a bundle that
cannot be had is a fault noted in its stream. Both streams' bundles go as one where they merge; else the primary's goes alone, and after
64 waits the secondary's.

What may be decoded (R66, R69): halfword FFFEh is the empty bundle and FFFFh a literal of the 24 halfwords behind it; another one is an
index of the dictionary, and one that the core has no entry for is a dictionary fault that names it, as is an offset past the end of the
stream. -/
def Obligations.Decode : Prop :=
  (∀ (s : State),
    let k := s.ev.core
    let c := coreOf s k
    let pc (sec : Bool) : Cand := candidate s k sec
    let goes (t : State) (d : Disp) : Prop := exec .decodeBundle s = .next t ∧ (coreOf t k).queue = c.queue ++ [d] ∧
      d.age = c.age + 1 ∧ (coreOf t k).age = c.age + 1 ∧ d.tick = s.tick ∧ (∀ j, j ≠ k → coreOf t j = coreOf s j) ∧ t.mem = s.mem ∧
      (coreOf t k).arch.scratch = c.arch.scratch ∧ (coreOf t k).arch.pri.s = c.arch.pri.s ∧ (coreOf t k).landing = c.landing
    let alone (b : Bundle) (lit : Bool) : Prop := ∃ t d, goes t d ∧ d.bits = b ∧ d.lit = lit ∧ d.pri = some c.arch.pri.next ∧ d.sec = none ∧
      (stopsDecode (slotInstr b 8) = true → (coreOf t k).arch.pri.hold = .ctl ∧ (coreOf t k).arch.pri.next = c.arch.pri.next) ∧
      (slotInstr b 8 = none → hdrPS b = false → atLoopEnd c.arch.pri c.arch.pri.next = false →
        (coreOf t k).arch.pri.hold = .none ∧ (coreOf t k).arch.pri.next = c.arch.pri.next + (if lit then 25 else 1))
    (∀ b lit, c.arch.secOn = false → pc false = .ready b lit → alone b lit) ∧
    (c.arch.secOn = false → pc false = .half → ∃ t, exec .decodeBundle s = .next t ∧ OnlyCore s t k fun c =>
      { c with secWait := 0, arch := { c.arch with pri := { c.arch.pri with half := true } } }) ∧
    (∀ f, c.arch.secOn = false → pc false = .fault f → ∃ t, exec .decodeBundle s = .next t ∧ OnlyCore s t k fun c =>
      { c with secWait := 0, arch := { c.arch with pri := { c.arch.pri with fault := some f, half := false } } }) ∧
    (∀ p q lp lq, c.arch.secOn = true → pc false = .ready p lp → pc true = .ready q lq →
      (mergeable p q = true → c.arch.pri.segNext = false → c.arch.sec.segNext = false → ∃ t d, goes t d ∧ d.bits = p ||| q ∧
        d.pri = some c.arch.pri.next ∧ d.sec = some c.arch.sec.next ∧ d.secMask = hdrMask q ∧ (coreOf t k).secWait = 0) ∧
      (mergeable p q = false → c.secWait < 64 → ∃ t d, goes t d ∧ d.bits = p ∧ d.pri = some c.arch.pri.next ∧ d.sec = none ∧
        (coreOf t k).secWait = c.secWait + 1) ∧
      (mergeable p q = false → 64 ≤ c.secWait → ∃ t d, goes t d ∧ d.bits = q ∧ d.pri = none ∧ d.sec = some c.arch.sec.next ∧
        (coreOf t k).secWait = 0))) ∧
  (∀ (s : State) (k off : Nat),
    let h := fetchHalf s k off
    (h = none → fetchBundle s k off = .bad off) ∧
    (h = some 0xFFFE → fetchBundle s k off = .bundle 0 false) ∧
    (∀ b, h = some 0xFFFF → literalBits s k (off + 1) 24 0 = some b → fetchBundle s k off = .bundle (BitVec.ofNat 384 b) true) ∧
    (h = some 0xFFFF → literalBits s k (off + 1) 24 0 = none → fetchBundle s k off = .bad off) ∧
    (∀ n b, h = some n → n ≠ 0xFFFE → n ≠ 0xFFFF → indexAllowed k (coreOf s k) n = true → tblFind (coreOf s k).dict n = some b →
      fetchBundle s k off = .bundle b false) ∧
    (∀ n, h = some n → n ≠ 0xFFFE → n ≠ 0xFFFF → indexAllowed k (coreOf s k) n = false ∨ tblFind (coreOf s k).dict n = none →
      fetchBundle s k off = .bad n))

/-- LOOP_COUNT_EXPIRY, PREEMPTION_OVERRUN, STOP_TAKEN, TIMED_INSTRUCTION_LATE and SIGNAL_LANDS (R52, R54, R98, R322, R326): the loop's entry
is popped; an overrun is a machine check of reason 3 on a compute core; a stop taken commits the segment and enters vector 49 with the
save offsets in trapinfo2 and trapinfo3 and the image's handle in h31; a late instruction is a schedule fault that names its cycle; a
signal is a pending trap of cause 48 with its code and source, or nothing at a core that does not run.

YIELD_RELEASE and STREAM_RETIRE (R61, R178, R179, R417, R422, R427, R429): the yield record holds the offset, the state and the cycle,
with stop s0 to s15, or for a halt 5; then, once nothing of the stream is open, its segment commits, and then the stream or the core
ends: a released core is free, its launch counts 5 for it, and a stream that retires while the other runs on ends alone. -/
def Obligations.CoreEvents : Prop :=
  (∀ (s : State) (d : Disp) (e : Word) (x : Launch),
    let k := s.ev.core
    let c := coreOf s k
    let j := s.ev.slot
    let stream (f : Strm → Strm) (c : Core) : Core := updStrm c s.ev.flag f
    let l := x.words
    (∃ t, exec .loopCountExpiry s = .next t ∧ OnlyCore s t k (stream fun x => { loopPop x with next := s.ev.n })) ∧
    (k < 384 → ∃ t, exec .preemptionOverrun s = .next t ∧ (coreOf t k).run = .machineChecked ∧ (coreOf t k).stopCount = none ∧
      t.mem = s.mem ∧ ∃ r ∈ (dieOf t (coreDie k)).recs, r.kind = 4 ∧ r.code = 3 ∧ r.num = coreNum k) ∧
    (launchOf s k = some x → vectorEntry s k 49 = .ok e → c.run = .running → ∃ t, exec .stopTaken s = .next t ∧
      (coreOf t k).intrap = true ∧ (coreOf t k).stopCount = none ∧ (coreOf t k).segOpen = false ∧ (coreOf t k).heldStt = [] ∧
      tblGet (0 : Word) (coreOf t k).trapinfo 0 = 49 ∧
      tblGet (0 : Word) (coreOf t k).trapinfo 2 = BitVec.ofNat 64 (wBits l 12 0 48 + c.icore * wBits l 14 0 32) ∧
      tblGet (0 : Word) (coreOf t k).trapinfo 3 = BitVec.ofNat 64 (wBits l 13 0 48 + c.icore * wBits l 14 0 32) ∧
      tblGet (0 : Word) (coreOf t k).arch.h 31 = l.getD 11 0) ∧
    (c.queue[nextIdx c j]? = some d → c.ptrap = none → ∃ t p, exec .timedInstructionLate s = .next t ∧ (coreOf t k).ptrap = some p ∧
      p.cause = 6 ∧ p.slot = j ∧ p.info2 = s.ev.w ∧ p.late = false ∧ (coreOf t k).arch = c.arch ∧
      (coreOf t k).statSched = c.statSched ∧ ∀ i, i ≠ k → coreOf t i = coreOf s i) ∧
    (c.run = .running → ∃ t, exec .signalLands s = .next t ∧ OnlyCore s t k fun c =>
      { c with pend := c.pend ++
          [{ cause := 48, info0 := BitVec.ofNat 64 (s.ev.code.toNat + s.ev.n * 65536), info2 := 0, info3 := 0 }] }) ∧
    (c.run ≠ .running → c.run ≠ .yielding → ∃ t, exec .signalLands s = .next t ∧ OnlyCore s t k fun c =>
      { c with sigRes := c.sigRes - 1 })) ∧
  (∀ (s : State),
    let k := s.ev.core
    let c := coreOf s k
    let a := s.ev.id
    let sec := s.ev.flag
    (s.ev.flag2 = true → ∃ t, exec .yieldRelease s = .next t ∧
      physWord t (a + 8) = (if s.ev.n = 1 then 3 else 1) ∧ physWord t (a + 16) = s.gcyc ∧
      physWord t a = BitVec.ofNat 64 (s.ev.w.toNat % 2 ^ 32) ∧
      (s.ev.n = 1 → ∀ i < s.ev.bytes.length, memGet t.mem (a + 64 + i) = s.ev.bytes.getD i 0) ∧ t.cores = s.cores) ∧
    (s.ev.flag2 = true → ∃ t, exec .streamRetire s = .next t ∧ physWord t (a + 8) = 5 ∧ t.cores = s.cores) ∧
    (s.ev.flag2 = false → yieldReady s k = false → exec .yieldRelease s = .next s) ∧
    (s.ev.flag2 = false → yieldReady s k = true → c.segOpen = true → ∃ t, exec .yieldRelease s = .next t ∧
      (coreOf t k).segOpen = false ∧ (coreOf t k).heldStt = [] ∧ (coreOf t k).leaving = [] ∧ (coreOf t k).run = c.run) ∧
    (s.ev.flag2 = false → yieldReady s k = true → c.segOpen = false → ∃ t, exec .yieldRelease s = .next t ∧
      (coreOf t k).run = .free ∧ (coreOf t k).launch = none) ∧
    (s.ev.flag2 = false → retireReady s k sec = false → exec .streamRetire s = .next s) ∧
    (s.ev.flag2 = false → retireReady s k sec = true → endOpen c sec = true → ∃ t, exec .streamRetire s = .next t ∧
      (coreOf t k).segOpen = false ∧ (coreOf t k).heldStt = [] ∧ (strmOf (coreOf t k) sec).live = true) ∧
    (s.ev.flag2 = false → retireReady s k sec = true → endOpen c sec = false → c.arch.secOn = true → (strmOf c (!sec)).live = true →
      ∃ t, exec .streamRetire s = .next t ∧ (strmOf (coreOf t k) sec).live = false ∧ (strmOf (coreOf t k) (!sec)).live = true ∧
        (coreOf t k).run = c.run ∧ ∀ j, j ≠ k → coreOf t j = coreOf s j) ∧
    (s.ev.flag2 = false → retireReady s k sec = true → endOpen c sec = false → c.arch.secOn = false → sec = false →
      ∃ t, exec .streamRetire s = .next t ∧ (coreOf t k).run = .free ∧ (coreOf t k).launch = none))

/-- SEGMENT_ENTRY, COMPARE_MISMATCH, RESIDUE_MISMATCH, ARRAY_ECC_ERROR and QUEUE_ENTRY_LANDS (R296, R491 to R496, R502, R509): an entry
commits the open segment and opens one at the bundle, recording the core's state; a detected error asks for a rewind and names its
place, a compare mismatch only in protected mode or on a scalar core; a correctable error is counted and logged, one met while undo data
are restored is a machine check of reason 5; a queue entry's value stands in its place.

R500, R502: a rewind restores what the segment recorded, withdraws what it held, counts itself and marks rewound; the fourth one, or a
second detection at one place, is a machine check of reason 5, and a segment that cannot be rewound is one of reason 8. -/
def Obligations.Segments : Prop :=
  (∀ (s : State) (d : Disp) (r : List Disp),
    let k := s.ev.core
    let c := coreOf s k
    let die := coreDie k
    let asks (i : Instr) (place : Nat × Nat) : Prop := ∃ t, exec i s = .next t ∧ OnlyCore s t k fun c => { c with rewAsk := some (some place) }
    (c.segNew = true → ∃ t, exec .segmentEntry s = .next t ∧ OnlyCore s t k fun c =>
      { c with segNew := false, segAge := (c.queue[s.ev.n]?.map Disp.age).getD 0, segPause := false }) ∧
    (c.segNew = false → c.queue.drop s.ev.n = d :: r → ∃ t, exec .segmentEntry s = .next t ∧
      let u := coreOf t k
      u.segOpen = true ∧ u.segAge = d.age ∧ u.segPause = false ∧ u.heldStt = [] ∧ u.leaving = [] ∧ u.rewinds = 0 ∧ u.undoV = [] ∧
      u.undoG = [] ∧ u.noRewind = false ∧ u.queue = c.queue ∧ u.arch.scratch = c.arch.scratch ∧ u.arch.v = c.arch.v ∧
      u.arch.pri.s = c.arch.pri.s ∧ u.undo.scratch = c.arch.scratch ∧ u.undo.v = c.arch.v ∧ u.undo.p = c.arch.p ∧
      u.undo.acc = c.arch.acc ∧ u.undo.pri.s = c.arch.pri.s ∧ u.undo.h = c.arch.h ∧ u.undo.seeds = c.arch.seeds ∧
      u.arch.pri.segbase = posAt c false s.ev.n ∧ t.mem = s.mem) ∧
    (rewindable c = true → c.rewAsk = none →
      ((c.mode = true ∨ 384 ≤ k) → asks .compareMismatch (s.ev.n, 11)) ∧
      asks .residueMismatch (s.ev.n, s.ev.slot) ∧
      (s.ev.flag = false → s.ev.flag2 = false → asks .arrayEccError (s.ev.n, s.ev.slot))) ∧
    (c.mode = false → k < 384 → exec .compareMismatch s = .next s) ∧
    (rewindable c = false → exec .residueMismatch s = .next s) ∧
    (s.ev.flag = true → ∃ t, exec .arrayEccError s = .next t ∧ OnlyDie s t die fun y =>
      { y with corr := if y.corr = BitVec.allOnes 64 then y.corr else y.corr + 1,
               ent := tblPut y.ent (y.lnext.toNat % 16)
                 (s.gcyc, BitVec.ofNat 64 (coreNum k + 12 * 256 + 2 * 4096 + s.ev.n % 2 ^ 32 * 2 ^ 32)),
               lnext := y.lnext + 1 }) ∧
    (s.ev.flag = false → s.ev.flag2 = true → k < 384 → ∃ t, exec .arrayEccError s = .next t ∧ (coreOf t k).run = .machineChecked ∧
      ∃ r ∈ (dieOf t die).recs, r.kind = 4 ∧ r.code = 5) ∧
    (s.ev.flag = false → ∃ t, exec .queueEntryLands s = .next t ∧ OnlyCore s t k fun c =>
      { c with inq := tblPut c.inq s.ev.n ((queueOf c s.ev.n).map fun x =>
          if x.ticket = s.ev.id then { x with value := some s.ev.w, landed := s.tick } else x) })) ∧
  (∀ (s : State) (k : Nat) (place : Option (Nat × Nat)),
    let c := coreOf s k
    let pl := place.map fun p => (BitVec.ofNat 32 p.1, p.2)
    let lasting := (0 < c.rewinds ∧ pl ≠ none ∧ c.place = pl) ∨ 3 ≤ c.rewinds
    let checked (t : State) (reason : Nat) : Prop := (coreOf t k).run = .machineChecked ∧
      ∃ r ∈ (dieOf t (coreDie k)).recs, r.kind = 4 ∧ r.code = reason
    (k < 384 → c.noRewind = true → checked (rewind s k place) 8) ∧
    (k < 384 → c.noRewind = false → lasting → checked (rewind s k place) 5) ∧
    (c.noRewind = false → ¬lasting →
      let u := coreOf (rewind s k place) k
      u.rewinds = c.rewinds + 1 ∧ u.rewound = true ∧ u.heldStt = [] ∧ u.leaving = [] ∧ u.landing = [] ∧ u.withheld = [] ∧ u.ptrap = none ∧ u.rewAsk = none ∧
      u.arch.scratch = c.undo.scratch ∧ u.arch.v = c.undo.v ∧ u.arch.p = c.undo.p ∧ u.arch.acc = c.undo.acc ∧ u.arch.h = c.undo.h ∧
      u.arch.pri.s = c.undo.pri.s ∧ u.arch.pri.pcbase = c.undo.pri.segbase ∧ u.arch.seeds = c.undo.seeds ∧
      u.issueFrom = s.tick + 25 + (64 * c.undoG.length + 1024 * c.undoW.length + 15 * 64) / 64 / 16 + c.undoV.length +
        32 * c.undoA.length ∧
      u.place = (if pl = none then c.place else pl) ∧ (rewind s k place).mem = s.mem))

/-! ## Object memory -/

/-- HANDLE_RESOLUTION of an atomic request (R264, R265, R278, R342, R360, R364, R373): it waits behind a release of its context that is
still to be applied, and behind an earlier access of its context to the same bytes; a fault of the resolution, a range fault and a
rights fault of a page are late faults that name the byte, held as traps of slot MEM, until a KRET where a handler runs; an object or an
extent that is not resident parks the request under the next token, with a kind-1 record; one of another package is sent there; else the
atomic unit is to apply it, with the entries that it has read. A request that is neither issued nor a held store, or is no more, is left
alone. -/
def Obligations.HandleResolution : Prop :=
  ∀ (s : State) (r : Req) (x : Atom),
    let u := noteEntry s r.die (hIndex r.handle)
    let found := resolve s r.die r.dom.toNat r.handle 2
    let b := (atomSpan x).1
    let ext (o : Obj) := extChk u r.die r.dom.toNat o true 8 [(b : Int)] (reqRing r)
    let set (st : ReqSt) := s.reqs.map fun q => if q.id = r.id then { r with st := st } else q
    let late (cause n : Nat) : Prop := r.eng = none → (coreOf s r.core).born ≤ r.id → r.handler = false →
      Runs .handleResolution s fun t =>
        t.mem = s.mem ∧ t.reqs = s.reqs.filter (fun q => decide (q.id ≠ r.id)) ∧
        (coreOf t r.core).lateHeld = (coreOf s r.core).lateHeld ++
          [{ cause := cause, slot := 5, sec := r.sec, off := r.off, info0 := BitVec.ofNat 64 cause, info1 := info1Of r.off r.sec,
             info2 := handleInfo r.handle, info3 := BitVec.ofNat 64 n, late := true, rt := false, age := 0,
             wait := (coreOf s r.core).intrap }]
    let parks (n : Nat) : Prop := r.eng = none → Runs .handleResolution s fun t =>
      t.mem = s.mem ∧ t.cores = s.cores ∧ t.token = s.token + 1 ∧ t.reqs = set (.parked s.token) ∧
      ∃ p, (dieOf t r.die).recs = (dieOf s r.die).recs ++ [p] ∧ p.kind = 1 ∧ p.code = 0 ∧ p.token = s.token ∧ p.handle = r.handle ∧
        p.num = coreNum r.core ∧ p.off = BitVec.ofNat 64 n
    (reqFind s s.ev.id = none → exec .handleResolution s = .next s) ∧
    (reqFind s s.ev.id = some r → r.st ≠ .issued → (∀ t, r.st = .held → r.op ≠ .stt t) → exec .handleResolution s = .next s) ∧
    (reqFind s s.ev.id = some r → r.st = .issued → reqAtom r = some x →
      (releaseAhead s r = true → exec .handleResolution s = .next (resolveAt s (s.tick + 1) r.id)) ∧
      (releaseAhead s r = false →
        (∀ c, found = .fault c → late c b) ∧
        (found = .deferred → parks b) ∧
        (∀ p ent, found = .remote p ent → exec .handleResolution s =
          .next (if sendAhead s r then resolveAt s (s.tick + 1) r.id else sendRemote s r p ent)) ∧
        (∀ o ent, found = .ok o ent →
          (writeAhead u r = true → exec .handleResolution s = .next (resolveAt u (s.tick + 1) r.id)) ∧
          (writeAhead u r = false → atomInside o x = false → late 25 b) ∧
          (writeAhead u r = false → atomInside o x = true → ∀ n, ext o = .rights n → late 23 n) ∧
          (writeAhead u r = false → atomInside o x = true → ∀ n, ext o = .deferred n → parks n) ∧
          (writeAhead u r = false → atomInside o x = true → ext o = .moving → Runs .handleResolution s fun t =>
            t.mem = s.mem ∧ t.cores = s.cores ∧ t.reqs = set .waitMv ∧ t.agenda = s.agenda) ∧
          (writeAhead u r = false → atomInside o x = true → ext o = .ok → Runs .handleResolution s fun t =>
            let q := elemExt o 8 b
            t.mem = s.mem ∧ t.cores = s.cores ∧ t.reqs = set .atUnit ∧
            t.agenda = s.agenda ++ [{ due := later s 1 r.id, instr := .atomicApply, ev := { Ev.none with
              id := r.id, bytes := wordsBytes (resolvedWords o (extEntry u r.die o q.1 q.2 (reqRing r))) } }]))))

/-- ATOMIC_APPLY, REPORT_LANDS (R267, R284, R371, R395): the atomic unit applies the update to the object by the entries that its resolution
read, the issuing die's clean copies of the bytes go, and the request is over; the value before it is on its way to the report word,
unless the form reports none. What the resolution carries is the object and the extent entry that it found. The result's bytes are
written, then the count of its report chunk falls by one, and the last sets the chunk's bit.

R278, R282, R283: the values that the atomic units write. -/
def Obligations.Atomics : Prop :=
  (∀ (s : State) (r : Req) (x : Atom) (o : Obj) (a b : Nat),
    let e := s.ev
    let at_ := carriedObj (r.handle.toNat / 2 ^ 28) e.bytes
    let y := applyAtom s at_ [] x (some (carriedExt e.bytes))
    let z := dropStale y.1 r.die at_ x
    let rest := z.reqs.filter fun q => decide (q.id ≠ r.id)
    (o.e.length = 8 → o.r.length = 12 → a < 2 ^ 64 → b < 2 ^ 64 →
      carriedObj o.key (wordsBytes (resolvedWords o (a, b))) = o ∧ carriedExt (wordsBytes (resolvedWords o (a, b))) = (a, b)) ∧
    (reqFind s e.id = some r → reqAtom r = some x →
      (∀ op w64 off a b t w, r.op = .amo op w64 true off a b t w → exec .atomicApply s = .next { z with reqs := rest }) ∧
      (∀ op w64 off a b t w, r.op = .amo op w64 false off a b t w → exec .atomicApply s = .next { z with
        reqs := rest
        agenda := z.agenda ++ [{ due := later s 1 r.id, instr := .reportLands, ev := { Ev.none with
          core := r.core, id := r.id, tile := t, n := w / 64,
          w := BitVec.ofNat 64 (tBase (tileOf (coreOf z r.core) t.toNat).ctl + 8 * w), bytes := bytesOf y.2 8 } }] }) ∧
      (∀ el eb n, r.op = .bari el eb n → r.eng = none → exec .atomicApply s = .next { z with reqs := rest }) ∧
      (∀ b p el sy, r.op = .bara b p el sy → r.eng = none → exec .atomicApply s = .next { z with reqs := rest })) ∧
    (reqFind s e.id = none → exec .atomicApply s = .next s) ∧
    Runs .reportLands s (fun t =>
      let c := coreOf s e.core
      let d := coreOf t e.core
      let k := repKey e.tile e.n
      let n := tblGet 0 c.reports k - 1
      let bit := BitVec.ofNat 128 (2 ^ e.n)
      (∀ j, j ≠ e.core → coreOf t j = coreOf s j) ∧ t = { s with cores := t.cores } ∧
      tblGet 0 d.reports k = n ∧ (∀ i, i ≠ k → tblGet 0 d.reports i = tblGet 0 c.reports i) ∧
      tileOf d e.tile.toNat = { tileOf c e.tile.toNat with
        map := (tileOf c e.tile.toNat).map ||| (if n = 0 then bit else 0)
        pois := (tileOf c e.tile.toNat).pois ||| (if e.flag then bit else 0) } ∧
      d.stores = c.stores ++ (if e.bytes = [] then []
        else [{ due := s.tick, group := 3, order := e.id, sec := false, k := .bytes e.w.toNat e.bytes }]) ∧
      d.arch.scratch = c.arch.scratch ∧ d.arch.pri = c.arch.pri ∧ d.landing = c.landing)) ∧
  (∀ (nb old a b : Nat) (e : List Nat), old < 2 ^ (8 * nb) →
    let w := 8 * nb
    let v := a % 2 ^ w
    let word (i : Nat) := e.getD i 0
    let after (bytes : Bool) (sy : Nat) := baraNew e bytes false sy
    let arrived (bytes : Bool) := (word 1 % 2 ^ 32 + if bytes then 0 else 1) % 2 ^ 32
    let counted (sy : Nat) := (word 3 + sy) % 2 ^ 64
    (0 < w →
      amoVal .add nb old a b = (old + a) % 2 ^ w ∧ amoVal .xchg nb old a b = v ∧
      intOf true w (amoVal .min nb old a b) = min (intOf true w old) (intOf true w v) ∧
      intOf true w (amoVal .max nb old a b) = max (intOf true w old) (intOf true w v) ∧
      amoVal .minn nb old a b = min old v ∧ amoVal .maxn nb old a b = max old v ∧
      (old = b % 2 ^ w → amoVal .cas nb old a b = v) ∧ (old ≠ b % 2 ^ w → amoVal .cas nb old a b = old) ∧
      (∀ i, (amoVal .and nb old a b).testBit i = (old.testBit i && v.testBit i)) ∧
      (∀ i, (amoVal .or nb old a b).testBit i = (old.testBit i || v.testBit i)) ∧
      ∀ op, op ≠ .fadd → amoVal op nb old a b < 2 ^ w) ∧
    (∀ n eb, n < 2 ^ 32 → eb < 2 ^ 64 →
      let t := bariNew e n eb
      t.length = 4 ∧ t.getD 0 0 % 2 ^ 32 = n ∧ t.getD 0 0 / 2 ^ 32 = word 0 / 2 ^ 32 % 2 ^ 31 ∧
      t.getD 1 0 % 2 ^ 32 = 0 ∧ t.getD 1 0 / 2 ^ 32 = word 1 / 2 ^ 32 ∧ t.getD 2 0 = eb ∧ t.getD 3 0 = 0) ∧
    (∀ bytes sy, word 0 < 2 ^ 63 → e.length = 4 →
      ((arrived bytes < word 0 % 2 ^ 32 ∨ counted sy < word 2) →
        after bytes sy = [word 0, word 1 / 2 ^ 32 * 2 ^ 32 + arrived bytes, word 2, counted sy]) ∧
      (word 0 % 2 ^ 32 ≤ arrived bytes → word 2 ≤ counted sy →
        let t := after bytes sy
        t.getD 0 0 / 2 ^ 32 % 2 = 1 - word 0 / 2 ^ 32 % 2 ∧ t.getD 0 0 % 2 ^ 32 = word 0 % 2 ^ 32 ∧
        t.getD 0 0 / 2 ^ 33 = word 0 / 2 ^ 33 ∧ t.getD 1 0 % 2 ^ 32 = 0 ∧ t.getD 1 0 / 2 ^ 32 = word 1 / 2 ^ 32 ∧
        t.getD 2 0 = word 2 ∧ t.getD 3 0 = 0)) ∧
    (∀ bytes sy, word 0 / 2 ^ 63 = 1 → baraNew e bytes false sy = e) ∧
    (∀ bytes sy, (baraNew e bytes true sy).getD 0 0 = word 0 % 2 ^ 63 + 2 ^ 63 ∧ (baraNew e bytes true sy).getD 1 0 = word 1))

/-- ACQUIRE_COMPLETE, TILE_CHUNK_LANDS, STEP_LOAD_RETEST, WRITEBACK_RETRY (R271, R272, R365, R398, R483): an acquire that names a view of
its die sets its report bit, one of a wider scope writes back the object's dirty lines of the holding dies first, waits where some stay
dirty, and discards the die's clean copies; a chunk's bytes are written and its bit set with its poison, once none of its bytes is
missing; a load whose bank is still not current keeps waiting, one that never can have it faults, one whose bank has become current and
that an earlier store of its context does not hold back reads it; a write-back that finds nothing dirty does nothing.

FAULT_RECORD_POST, FQRESUME and FQABORT (R344, R345, R348): the oldest record a die holds is written at the ring's next place, prod
advances, and the notice is raised at the die's notice core; while the ring cannot take one, nothing happens. A token written to
FQRESUME makes the parked producer that it names resolve again (a store of the open segment stays held), one written to FQABORT ends it:
a load's unfinished chunks land with poison, its tile armed again, a job fails with code 67; a token that names none does nothing. -/
def Obligations.MemoryEvents : Prop :=
  (∀ (s : State) (r : Req),
    let e := s.ev
    (reqFind s e.id = some r → ∀ sc v t k, r.op = .acqv sc v t k →
      let key := r.handle.toNat / 2 ^ 28
      let ds := acquireDies s r.die key sc
      let u := ds.foldl (fun u d => writeBackObj u d key) s
      (scopePkg sc = false → exec .acquireComplete s = .next (reqDel (reportDone s r.core t k false) r.id)) ∧
      ((∃ d ∈ ds, dirtyIn u d key = true) →
        exec .acquireComplete s = .next (post u (later u 1 r.id) .acquireComplete u.ev)) ∧
      (scopePkg sc = true → (∀ d ∈ ds, dirtyIn u d key = false) → Runs .acquireComplete s fun t' =>
        t'.cores = (reportDone u r.core t k false).cores ∧ t'.mem = u.mem ∧
        t'.reqs = u.reqs.filter (fun q => decide (q.id ≠ r.id)) ∧
        ∀ l ∈ (dieOf t' r.die).lines, l.obj = key → l.full = false ∧ l.mask ≠ 0)) ∧
    (reqFind s e.id = some r → e.flag2 = false → reqLive s r = true →
      let c := coreOf s r.core
      let ctl := (tileOf c e.tile.toNat).ctl
      let now := r.data.filter fun x => decide (chunkAt ctl x.1 = e.n)
      let bit := BitVec.ofNat 128 (2 ^ e.n)
      let whole := e.flag || !((r.elems ++ r.miss).any fun x => decide (chunkAt ctl x.1 = e.n))
      Runs .tileChunkLands s fun t =>
        (coreOf t r.core).stores = c.stores ++ [{ due := s.tick, group := 3, order := r.id, sec := false, k := codesStore now r.w }] ∧
        tileOf (coreOf t r.core) e.tile.toNat = { tileOf c e.tile.toNat with
          map := (tileOf c e.tile.toNat).map ||| (if whole then bit else 0)
          pois := (tileOf c e.tile.toNat).pois ||| (if whole && (e.flag || r.bads.contains e.n) then bit else 0) } ∧
        (coreOf t r.core).arch.scratch = c.arch.scratch ∧ (coreOf t r.core).arch.pri = c.arch.pri ∧
        (∀ j, j ≠ r.core → coreOf t j = coreOf s j) ∧ t.agenda = s.agenda ∧
        (r.left.erase e.n = [] → r.elems = [] → t.reqs = s.reqs.filter (fun q => decide (q.id ≠ r.id)))) ∧
    (reqFind s e.id = none → e.flag2 = false → exec .tileChunkLands s = .next s) ∧
    (reqFind s e.id = some r → r.st = .stepWait → ∀ st flt t o ent, r.op = .ldt false (some (st, flt)) t → reqLive s r = true →
      resolve s r.die r.dom.toNat r.handle 0 = .ok o ent → eHas o.e 2 = true →
      (∀ x ∈ r.elems, (elemBit o r.w x.2).isSome = true) →
      let u := noteEntry s r.die (hIndex r.handle)
      writeAhead u r = false → extChk u r.die r.dom.toNat o false r.w (r.elems.map Prod.snd) (reqRing r) = .ok →
      (∀ a b, stepTest u o (r.elems.map Prod.snd) st.toNat = .wait a b → flt = false → (coreOf s r.core).stopS = false →
        Runs .stepLoadRetest s fun t' => t'.cores = s.cores ∧ t'.mem = s.mem ∧ t'.agenda = s.agenda ∧
          t'.reqs = s.reqs.map fun q => if q.id = r.id then { r with st := .stepWait } else q) ∧
      (stepTest u o (r.elems.map Prod.snd) st.toNat = .stale → r.eng = none → (coreOf s r.core).born ≤ r.id → r.handler = false →
        Runs .stepLoadRetest s fun t' => t'.mem = s.mem ∧
          ∃ p, (coreOf t' r.core).lateHeld = (coreOf s r.core).lateHeld ++ [p] ∧ p.cause = 26 ∧ p.slot = 5 ∧ p.late = true) ∧
      ∀ a b g counts, stepTest u o (r.elems.map Prod.snd) st.toNat = .read a b g counts →
        let q := if counts then { r with rdAt := some (a, b) } else r
        let v := if counts then bumpRd u a b true else u
        exec .stepLoadRetest s = .next (loadFrom (reqSet v q) q false t o ent (stepElem g b))) ∧
    (reqFind s e.id = none → exec .stepLoadRetest s = .next s) ∧
    ((∀ d < 4, ∀ l ∈ (dieOf s d).lines, l.mask = 0) → exec .writebackRetry s = .next s) ∧
    Runs .writebackRetry s (fun t => t.cores = s.cores ∧ t.reqs = s.reqs ∧ t.agenda = s.agenda)) ∧
  (∀ (s : State) (r : Req) (p : FRec) (rest : List FRec),
    let d := s.ev.die
    let y := dieOf s d
    let a := recordAt y y.fqprod.toNat
    let u := flushPhys s (a / 2 ^ 40) a 64
    (y.recs = [] → exec .faultRecordPost s = .next s) ∧
    (y.recs = p :: rest → canPost y = false → exec .faultRecordPost s = .next s) ∧
    (y.recs = p :: rest → canPost y = true → Runs .faultRecordPost s fun t =>
      (dieOf t d).recs = rest ∧ (dieOf t d).fqprod = (dieOf u d).fqprod + 1 ∧
      (∀ i < 8, physWord t (a + 8 * i) =
        [y.fqprod, recWord1 p, p.handle, p.off, p.prog, s.gcyc, p.token, p.src].getD i 0) ∧
      (∀ b, b < a ∨ a + 64 ≤ b → memGet t.mem b = memGet u.mem b) ∧
      (∃ q ∈ (coreOf t (noticeCore u d)).pend, q.cause = 52) ∧
      ∀ j, j ≠ noticeCore u d → coreOf t j = coreOf u j) ∧
    (s.reqs.find? (fun q => decide (q.st = .parked s.ev.w)) = some r → r.det = none → r.eng = none →
      (Runs .fqresume s fun t => t.cores = s.cores ∧ t.mem = s.mem ∧
        t.reqs = s.reqs.map (fun q => if q.id = r.id then
          { r with st := if (coreOf s r.core).heldStt.contains r.id then .held else .issued } else q) ∧
        t.agenda = s.agenda ++ [takenUp (later s 1 r.id) r.id]) ∧
      (∀ spec step t, r.op = .ldt spec step t → reqLive s r = true →
        let x := tileOf (coreOf s r.core) t.toNat
        let ks := (chunkList x.ctl).filter fun k => !(x.map.getLsbD k)
        Runs .fqabort s fun t' => t'.mem = s.mem ∧ (∀ k, k ≠ r.core → coreOf t' k = coreOf s k) ∧
          tileOf (coreOf t' r.core) t.toNat =
            (if x.prod = .request r.id ∧ tState x.ctl = 2 then { x with ctl := setField x.ctl 37 3 1 } else x) ∧
          (∀ i, i ≠ t.toNat → tileOf (coreOf t' r.core) i = tileOf (coreOf s r.core) i) ∧
          (coreOf t' r.core).arch.scratch = (coreOf s r.core).arch.scratch ∧
          t'.reqs = s.reqs.map (fun q => if q.id = r.id then { r with elems := [], data := [], left := ks, st := .landing } else q) ∧
          t'.agenda = s.agenda ++ ks.map fun k =>
            { due := s.tick, instr := .tileChunkLands, ev := { Ev.none with core := r.core, id := r.id, tile := t, n := k, flag := true } })) ∧
    (s.reqs.find? (fun q => decide (q.st = .parked s.ev.w)) = none →
      (jobByToken s s.ev.w = none → exec .fqresume s = .next s ∧ exec .fqabort s = .next s) ∧
      ∀ e j, jobByToken s s.ev.w = some (e, j) → j.det = none →
        exec .fqresume s = .next (jobUpd s e j.id fun j => { j with st := .ready }) ∧
        exec .fqabort s = .next (failJob s e j 67 j.wait j.woff false)))

/-! ## Engines and launches -/

/-- R288: the elements of a box, i0 fastest, then i1, then i2, at their strides; and a code is converted only where cvt says so.

JOB_START of a copy or gather (R288, R289, R293, R423): a job that is no more does nothing; it takes a number of its engine and runs;
its first phase lets a reader sample the source tile and sets its second phase; a job that rounds in the stochastic mode fails with code
64. In its second phase a copy out of a tile into an object reads its codes from what was sampled, writes them converted, and completes;
where another die cannot write back what it holds of them, it begins again in the next cycle.

R36, R290, R342, R347: a failed job without a barrier leaves the scheduler, a tile that it had parked on returns to ARMED, the
unfinished chunks of its destination tile are complete and poisoned, and a kind-3 record with its code is posted; a job that parks takes
the next token, lets its engine go, keeps the byte it parked at, puts its tile in PFAULT and posts a kind-2 record.

JOB_COMPLETE, CHAIN_CARD_READ, COLLECTIVE_STEP and HALO_DELIVERY (R290 to R292, R294, R480): a job whose writes have performed arrives
at its barrier, or is over where it names none; a chain whose reference is 0 ends, and one that names no handle of its store fails with
code 28; what another package answers lets a collective or a halo step go on; a step whose segment did not arrive whole fails with code
65, one whose segment is still being applied waits, and the last step completes the job; a delivery whose receiver is not far enough
waits and frees its engine, a later tag in the bank is code 26, a bank that is still read waits, else the ghost cells are written and
the bit of the source set. -/
def Obligations.JobRuns : Prop :=
  (∀ (w : List Word) (off i : Nat) (j : Job) (v : Nat),
    (boxElems w off i).length = cE2 w * cE1 w * cE0 w ∧
    (∀ i0 i1 i2 : Nat, i0 < cE0 w → i1 < cE1 w → i2 < cE2 w →
      (boxElems w off i)[(i2 * cE1 w + i1) * cE0 w + i0]? =
        some ((off : Int) + i0 + i1 * cStride w i 0 + i2 * cStride w i 1)) ∧
    (cCvt w = false → jobConvert j w v = v)) ∧
  (∀ (s : State) (j : Job),
    let d := s.ev.die
    let ch := if j.chan ≠ 0 then j.chan else freeChan s d (engineOf j.kind)
    let u := jobUpd s d j.id fun j => { j with st := .running, chan := ch }
    let w := j.card
    let n := codeWidth (cSfmt w)
    (jobFind s d s.ev.id = none → exec .jobStart s = .next s) ∧
    (jobFind s d s.ev.id = some j → s.ev.flag = true ∨ s.ev.flag2 = true → j.st ≠ .running → exec .jobStart s = .next s) ∧
    (jobFind s d s.ev.id = some j → s.ev.flag = false → s.ev.flag2 = false → j.kind ≤ 2 →
      tState (tileOf (coreOf s j.core) (cDtile w)).ctl ≠ 2 →
      (cRnd w = 0 → 4 ≤ j.mode → exec .jobStart s =
        .next (failJob u d { j with st := .running, chan := ch } 64 (if cDsti w = 0 then jobH j (cSrci w) else jobH j (cDsti w)) 0 false)) ∧
      (¬(cRnd w = 0 ∧ 4 ≤ j.mode) → cSrci w = 0 → cDsti w = 0 → Runs .jobStart s fun t =>
        let due := s.tick + 2 + Config.delay s.tick j.id
        t.mem = s.mem ∧ (coreOf t j.core).readers = (coreOf s j.core).readers ++
          [{ key := s.nextId, start := s.tick, win := .upTo (due - 1), mem := (coreOf s j.core).arch.scratch }] ∧
        t.agenda = s.agenda ++ [{ due := due, instr := .jobStart, ev := { Ev.none with die := d, id := j.id, flag := true } }] ∧
        ∃ q, jobFind t d j.id = some q ∧ q.st = .running ∧ q.chan = ch ∧ q.key = s.nextId ∧ q.card = w)) ∧
    (jobFind s d s.ev.id = some j → s.ev.flag = true → s.ev.flag2 = false → j.st = .running → j.kind ≠ 3 → j.kind ≠ 5 →
      cSrci w = 0 → cDsti w ≠ 0 →
      ∀ o ent, jobObj s d j (jobH j (cDsti w)) 1 (dstElems w) (codeWidth (cDfmt w)) = .ok o ent →
        let m := jobMem s j
        let codes := (srcElems m j w).map fun e =>
          jobConvert j w (memRead m (j.sbase + e.toNat * n / 8) ((e.toNat * n % 8 + n + 7) / 8) / 2 ^ (e.toNat * n % 8) % 2 ^ n)
        let v := writeElems (updCore s j.core fun c => dropReader c j.key) o (codeWidth (cDfmt w)) ((dstElems w).zip codes)
        (v.2 = true → exec .jobStart s = .next (post (jobUpd v.1 d j.id fun j => { j with done := cardBytes w }) (later v.1 1 j.id)
          .jobComplete { Ev.none with die := d, id := j.id })) ∧
        (v.2 = false → exec .jobStart s = .next (post v.1 (s.tick + 1) .jobStart { Ev.none with die := d, id := j.id })))) ∧
  (∀ (s : State) (d : Nat) (j : Job) (code off : Nat) (h : Word),
    let c := coreOf s j.core
    let t := cDtile j.card
    let x := tileOf c t
    let mine := x.prod = .job d j.id
    let y := if tState x.ctl = 2 then { x with ctl := setField x.ctl 37 3 1 } else x
    let missing := tMask y &&& ~~~y.map
    let f := failJob s d j code h off false
    let p := parkJob s d j h off
    (j.kind ≤ 2 → cBari j.card = 0 →
      f.mem = s.mem ∧ (dieOf f d).jobs = (dieOf s d).jobs.filter (fun q => decide (q.id ≠ j.id)) ∧
      (dieOf f d).recs = (dieOf s d).recs ++ [{
        kind := 3, code := code, unit := 1, num := j.chan - 1, die := d, handle := h
        off := BitVec.ofNat 64 off, prog := BitVec.ofNat 64 j.done, token := 0, src := jobSrc j }] ∧
      (mine → cDsti j.card = 0 → tileOf (coreOf f j.core) t = { y with map := y.map ||| missing, pois := y.pois ||| missing }) ∧
      (¬mine → f.cores = s.cores)) ∧
    (j.kind ≤ 2 →
      p.mem = s.mem ∧ p.token = s.token + 1 ∧
      (dieOf p d).jobs = (dieOf s d).jobs.map (fun q => if q.id = j.id then { q with st := .parked s.token, wait := h, woff := off, chan := 0 } else q) ∧
      (dieOf p d).recs = (dieOf s d).recs ++ [{
        kind := 2, code := 0, unit := 1, num := j.chan - 1, die := d, handle := h
        off := BitVec.ofNat 64 off, prog := BitVec.ofNat 64 j.done, token := s.token, src := jobSrc j }] ∧
      (mine → cDsti j.card = 0 → tileOf (coreOf p j.core) t = { x with ctl := setField x.ctl 37 3 2 }))) ∧
  (∀ (s : State) (j : Job),
    let e := s.ev
    let d := e.die
    let done (i : Instr) : Prop := exec i s = .next (post s (later s 1 j.id) .jobComplete { Ev.none with die := d, id := j.id })
    (jobFind s d e.id = none → ∀ i ∈ [Instr.jobComplete, .chainCardRead, .collectiveStep, .haloDelivery], exec i s = .next s) ∧
    (jobFind s d e.id = some j → e.flag = false →
      (e.flag2 = false → j.kind ≠ 5 → cBari j.card = 0 → exec .jobComplete s =
        .next (post (jobUpd s d j.id fun j => { j with arrived := true }) s.tick .jobComplete
          { Ev.none with die := d, id := j.id, flag2 := true })) ∧
      (e.flag2 = false → j.kind ≠ 5 → cBari j.card ≠ 0 → exec .jobComplete s =
        .next (jobBarrier (jobUpd s d j.id fun j => { j with arrived := true }) d j (jobH j (cBari j.card)) (cBarx j.card) j.done
          (jobEng d j))) ∧
      (e.flag2 = true → j.arrived = true → j.kind ≠ 5 → exec .jobComplete s = .next (endJob s d j.id)) ∧
      (e.flag2 = true → j.arrived = false → j.kind = 3 → exec .jobComplete s = .next (collNext s d j)) ∧
      (e.flag2 = true → j.arrived = false → j.kind = 4 → exec .jobComplete s =
        .next (post s (later s 1 j.id) .haloDelivery { Ev.none with die := d, id := j.id, n := j.step }))) ∧
    (jobFind s d e.id = some j → e.flag = true → exec .jobComplete s =
      .next (failJob s d j e.code.toNat e.w (if j.arrived then 32 * cBarx (jobCard j) else e.w2.toNat) j.arrived)) ∧
    (jobFind s d e.id = some j →
      (j.nxt.1 = 0 → exec .chainCardRead s = .next (arriveJob s d { j with words := [] })) ∧
      (j.nxt.1 ≠ 0 → j.cnt ≤ j.nxt.1 → exec .chainCardRead s = .next (failJob s d { j with words := [] } 28 0 0 false)) ∧
      (∀ o ent, j.nxt.1 ≠ 0 → j.nxt.1 < j.cnt → e.flag2 = false →
        hIndex (jobH j j.nxt.1) ≠ 0 → hRights (jobH j j.nxt.1) % 2 = 1 →
        jobObj s d j (jobH j j.nxt.1) 0 (cardElems j.nxt.2) 32 = .ok o ent →
        let r := readElems s d o ent 32 (cardElems j.nxt.2)
        exec .chainCardRead s = .next (chainCard r.1 d j (cardWords r.2)))) ∧
    (jobFind s d e.id = some j →
      let again := exec .collectiveStep s = .next (post s (s.tick + 1) .collectiveStep e)
      let whole := collNeed j.card ≤ j.inb.length
      (e.flag = false → j.st ≠ .running → again) ∧
      (e.flag = false → j.st = .running → j.step < e.n → whole → again) ∧
      (e.flag = false → j.st = .running → j.step < e.n → ¬whole → exec .collectiveStep s =
        .next (failJob s d j 65 (jobH j (cSrci j.card)) (cSoff j.card * codeWidth (cSfmt j.card) / 8) false)) ∧
      (e.flag = false → j.st = .running → e.n ≤ j.step → e.n = collSteps j.card → done .collectiveStep) ∧
      (e.flag = false → j.st = .running → e.n ≤ j.step → e.n ≠ collSteps j.card →
        exec .collectiveStep s = .next (collSend s d j e.n)) ∧
      (e.flag = true → (j.inb ++ e.bytes).length < collNeed j.card →
        Runs .collectiveStep s fun t => OnlyDie s t d fun y =>
          { y with jobs := y.jobs.map fun q => if q.id = j.id then { q with inb := j.inb ++ e.bytes } else q })) ∧
    (jobFind s d e.id = some j → j.st = .running → ∀ o g, jobGrid s d j = some (o, g) →
      let st := hStep j
      let b := bankOf g st
      ((targetsOf g (hPart j))[e.n - 1]? = none → done .haloDelivery) ∧
      (∀ q o2 g2 slot, (targetsOf g (hPart j))[e.n - 1]? = some q → targetOf s d j g q = .ok o2 g2 slot →
        let a := recAddr g2 slot
        let tag := recTag s a b
        (mayDeliver s g a st = false → exec .haloDelivery s =
          .next (jobUpd s d j.id fun j => { j with st := .waiting, chan := 0, step := e.n })) ∧
        (mayDeliver s g a st = true → tag ≠ 0xFFFFFFFF → st < tag → exec .haloDelivery s =
          .next (failJob s d j 26 (jobH j (cSrci j.card)) 0 false)) ∧
        (mayDeliver s g a st = true → tag = st → tag ≠ 0xFFFFFFFF → exec .haloDelivery s =
          .next (deliverTo s d j g (mapHandle s g q) o2 g2 slot q e.n)) ∧
        (mayDeliver s g a st = true → tag < st ∨ tag = 0xFFFFFFFF → tag ≠ st →
          (recRd s a b ≠ 0 → exec .haloDelivery s = .next (post s (s.tick + 1) .haloDelivery e)) ∧
          (recRd s a b = 0 → exec .haloDelivery s =
            let u := setMap (setTag s a b st) a b 0
            .next (deliverTo u d j g (mapHandle u g q) o2 g2 slot q e.n))))))

/-- CSPROD_WRITE and ADMISSION (R415, R416, R418): prod takes a value within the ring. The plan of a cycle names every withdrawn and every
poisoned head, and of those that may be taken the one of the highest priority: a withdrawn head is consumed, one with a poisoned
dependency takes status 8 and its completion barrier is poisoned, an admissible one takes status 1, its cores, and its place among the
launches; a plan of several is carried out one after the other.

STOPREQ, RELEASE_WRITE and CORERES (R323, R422, R425, R428): a stop request takes effect within 16 cycles, behind the earlier ones for
its core: stop.s with its reason, and a count from 0; a release frees a busy core at once as status 6, and CORERES one stopped by a
machine check as status 10. A core that is freed runs nothing and belongs to no launch; its registers and its scratchpad stay. -/
def Obligations.Launches : Prop :=
  (∀ (s : State) (a : Nat) (l : List Word),
    let w := regDie s.ev.id
    let ring := s.ev.id % 0x1000 / 0x20
    let inRing := (s.ev.w - tblGet (0 : Word) (dieOf s w).cscons ring).toNat ≤ csSize (dieOf s w) ring
    let d := s.ev.die
    (inRing → Runs .csprodWrite s fun t => OnlyDie s t w fun y => { y with csprod := tblSet (0 : Word) y.csprod ring s.ev.w }) ∧
    (¬inRing → exec .csprodWrite s = .next s) ∧
    (exec .admission s = .next (s.ev.bytes.foldl (fun s b => admitOne s d b) s)) ∧
    (∀ p < 8,
      (BitVec.ofNat 8 (8 + p) ∈ admitPlan s d ↔ headDo s d p = .poisoned) ∧
      (BitVec.ofNat 8 (16 + p) ∈ admitPlan s d ↔ headDo s d p = .withdrawn) ∧
      (BitVec.ofNat 8 (24 + p) ∈ admitPlan s d ↔ headDo s d p = .take ∧ ∀ q < 8, p < q → headDo s d q ≠ .take)) ∧
    (∀ p < 8, headOf s d p = some (a, l) →
      (s.ev.bytes = [BitVec.ofNat 8 (16 + p)] → Runs .admission s fun t => OnlyDie s t d fun y =>
        { y with cscons := tblSet (0 : Word) y.cscons p (tblGet (0 : Word) y.cscons p + 1) }) ∧
      (s.ev.bytes = [BitVec.ofNat 8 (8 + p)] → exec .admission s = .next (consume (cbarOp (putStatus s a 8 0) d l true) d p)) ∧
      (s.ev.bytes = [BitVec.ofNat 8 (24 + p)] → Runs .admission s fun t =>
        (physWord t a).toNat / 2 ^ 60 = 1 ∧ t.reqs = s.reqs ∧
        (∃ x ∈ (dieOf t d).launches, x.id = s.nextId ∧ x.recPa = a ∧ x.words = l ∧ x.cores = namedCores s d l ∧ x.started = false ∧
          ∃ due, t.agenda = s.agenda ++ [{ due := due, instr := .launchLoad, ev := { Ev.none with die := d, id := x.id } }]) ∧
        (∀ c ∈ namedCores s d l, (coreOf t (96 * d + c.1)).run = .loading ∧ (coreOf t (96 * d + c.1)).launch = some s.nextId ∧
          c.1 ∈ (dieOf t d).busyCores) ∧
        ∀ k, (∀ c ∈ namedCores s d l, k ≠ 96 * d + c.1) → coreOf t k = coreOf s k))) ∧
  (∀ (s : State),
    let v := s.ev.w.toNat
    let die := regDie s.ev.id
    let k := 96 * die + v % 128
    let self := decide (v / 256 % 2 = 1)
    let q := if self then s.ev.core else k
    let held := q < 384 ∧ (self = true ∨ v % 128 < 96) ∧ (dieOf s (coreDie q)).busyCores.contains (coreNum q) = true
    (96 ≤ v % 128 → exec .stopreq s = .next s ∧ exec .coreres s = .next s) ∧
    (v % 128 < 96 → s.ev.flag = false → Runs .stopreq s fun t => ∃ due, s.tick < due ∧
      (let on_ (e : Event) : Prop := e ∈ s.agenda ∧ e.instr = .stopreq ∧ 96 * regDie e.ev.id + e.ev.w.toNat % 128 = k
       (∀ e, on_ e → e.due ≤ due) ∧ ((∀ e, on_ e → e.due ≤ s.tick + 16) → due ≤ s.tick + 16)) ∧
      t = { s with agenda := s.agenda ++ [{ due := due, instr := .stopreq, ev := { s.ev with flag := true } }] }) ∧
    (v % 128 < 96 → s.ev.flag = true → v / 128 % 2 = 1 → (coreOf s k).stopS = true → Runs .stopreq s fun t =>
      OnlyCore s t k fun c => { c with stopWhy := BitVec.ofNat 8 (v / 256) }) ∧
    (v % 128 < 96 → s.ev.flag = true → v / 128 % 2 = 1 → (coreOf s k).stopS = false → Runs .stopreq s fun t =>
      (coreOf t k).stopS = true ∧ (coreOf t k).stopWhy = BitVec.ofNat 8 (v / 256) ∧ (coreOf t k).stopCount = some 0 ∧ t.mem = s.mem ∧
      ((∀ r ∈ s.reqs, r.core = k → r.st ≠ .stepWait ∧ r.st ≠ .farWait) → OnlyCore s t k fun c =>
        { c with stopS := true, stopWhy := BitVec.ofNat 8 (v / 256), stopCount := some 0 })) ∧
    (v % 128 < 96 → s.ev.flag = true → v / 128 % 2 = 0 → Runs .stopreq s fun t =>
      OnlyCore s t k fun c => { c with stopS := false, stopCount := none }) ∧
    (held → exec .releaseWrite s = .next (freeCore s q 6)) ∧
    (¬held → exec .releaseWrite s = .next s) ∧
    (v % 128 < 96 → (coreOf s k).run = .machineChecked → exec .coreres s = .next (freeCore s k 10)) ∧
    (v % 128 < 96 → (coreOf s k).run ≠ .machineChecked → exec .coreres s = .next s) ∧
    (∀ i n, let t := freeCore s i n
      (coreOf t i).run = .free ∧ (coreOf t i).launch = none ∧ (coreOf t i).queue = [] ∧ (coreOf t i).landing = [] ∧
      (coreOf t i).arch.scratch = (coreOf s i).arch.scratch ∧ (coreOf t i).arch.pri.s = (coreOf s i).arch.pri.s ∧
      (coreOf t i).arch.v = (coreOf s i).arch.v ∧ (coreOf t i).arch.pri.live = false ∧ (coreOf t i).arch.sec.live = false))

/-- LAUNCH_LOAD and CORE_START (R73, R414, R419, R420): a record of kind 0, one whose image fails a check of resolution and one whose image
is refused take status 4 with the reason, and the entry that failed is reported; an image that is not resident makes the load wait; else
every core is installed and its start set, and the start vectors are written at the load's end; two cycles before the start the core
runs, its first bundle is dispatched a cycle later and issues a cycle after that, and the record takes status 2.

R419 to R421, R55: what a load gives a core: its image's dictionary and code, the record's bounds, domain, trap-vector base and handle
table, cleared registers, the seeds, the launch block in its scratchpad, and a stream that stands at the entry. -/
def Obligations.Loading : Prop :=
  (∀ (s : State) (x : Launch),
    let d := s.ev.die
    let found := (dieOf s d).launches.find? fun x => decide (x.id = s.ev.id)
    let l := x.words
    let k := s.ev.core
    let owner := (dieOf s (coreDie k)).launches.find? fun x => decide (x.id = s.ev.id)
    (found = none → exec .launchLoad s = .next s) ∧
    (found = some x → s.ev.flag = true → exec .launchLoad s = .next (putVectors s d x)) ∧
    (found = some x → s.ev.flag = false →
      (lKind l = 0 → exec .launchLoad s = .next (refuse s d x 1)) ∧
      (lKind l ≠ 0 → imgOf s d l = .bad → exec .launchLoad s = .next (refuse s d x 1)) ∧
      (lKind l ≠ 0 → imgOf s d l = .wait → exec .launchLoad s = .next (post s (s.tick + 1) .launchLoad s.ev)) ∧
      (∀ o why, lKind l ≠ 0 → imgOf s d l = .ok o → imgRefuse s d l o = some why →
        exec .launchLoad s = .next (refuse (putReport s d (refusedReport s d x o why)) d x why)) ∧
      (∀ o, lKind l = 1 → imgOf s d l = .ok o → imgRefuse s d l o = none →
        let start := BitVec.ofNat 64 (max (l.getD 3 0).toNat (s.gcyc.toNat + 2))
        let u := (leftOf s d x).foldl (fun s c => installFresh s d x o c.1 c.2 start) s
        exec .launchLoad s = .next (dropIdle (startLaunch u d x o start) d x))) ∧
    (owner = none → exec .coreStart s = .next s) ∧
    (owner = some x → (coreOf s k).launch ≠ some x.id → exec .coreStart s = .next s) ∧
    (owner = some x → (coreOf s k).launch = some x.id → Runs .coreStart s fun t =>
      let c := coreOf s k
      (coreOf t k).run = .running ∧ (coreOf t k).issueFrom = s.tick + 2 ∧
      (c.arch.pri.hold = .none → (coreOf t k).arch.pri = { c.arch.pri with hold := .until (s.tick + 1) }) ∧
      (c.arch.pri.hold ≠ .none → (coreOf t k).arch.pri = c.arch.pri) ∧ (coreOf t k).queue = c.queue ∧
      (coreOf t k).arch.scratch = c.arch.scratch ∧ (coreOf t k).dict = c.dict ∧ (∀ i, i ≠ k → coreOf t i = coreOf s i) ∧
      t.agenda = s.agenda ∧ (x.started = false → (physWord t x.recPa).toNat / 2 ^ 60 = 2))) ∧
  (∀ (s : State) (d num k : Nat) (x : Launch) (o : Img) (start : Word), lKind x.words = 1 →
    let l := x.words
    let w := imgDesc s o k
    let t := installFresh s d x o num k start
    let c := coreOf t (96 * d + num)
    c.run = .loading ∧ c.launch = some x.id ∧ c.mode = lMode l ∧ c.level = 0 ∧ c.ie = true ∧ c.intrap = false ∧
    c.dom = BitVec.ofNat 16 (lDom l) ∧ c.htb = l.getD 4 0 ∧ c.pbound = BitVec.ofNat 32 (lPbound l) ∧
    c.lbound = BitVec.ofNat 32 (lLbound l) ∧ c.ktvb = BitVec.ofNat 64 ((l.getD 5 0).toNat / 512 * 512) ∧
    c.dict = ((imgDict s o w).zipIdx.map fun b => (b.2, b.1)) ++ ((kernelPart s d).getD []).zipIdx.map (fun b => (0xF00 + b.2, b.1)) ∧
    c.codeImg = cellsAt 0 (imgBytes s o (wBits w 1 0 48) (2 * wBits w 2 32 32)) ∧ c.imgLen = wBits w 2 32 32 ∧ c.queue = [] ∧ c.landing = [] ∧
    c.arch.pri.live = true ∧ c.arch.pri.pcbase = wBits w 2 0 32 ∧ c.arch.pri.next = wBits w 2 0 32 ∧
    (∀ i, tblGet (0 : Word) c.arch.pri.s i = 0 ∧ tblGet (0 : VReg) c.arch.v i = 0 ∧ tblGet (0 : PReg) c.arch.p i = 0 ∧
      tblGet (0 : Word) c.arch.h i = 0) ∧
    c.arch.secOn = (lSec l && !(lMode l) && decide (wBits w 3 0 1 = 1)) ∧
    (∀ i < 7, tblGet (1 : Word) c.arch.seeds i =
      let v := physWord s (wBits l 9 0 48 + 64 * k + 8 * i)
      if v = 0 then 1 else v) ∧
    (∀ i < 8, memRead c.arch.scratch (8 * i) 8 = ((launchBlock s d l w num k start).getD i 0).toNat) ∧
    t.mem = s.mem ∧ ∀ i, i ≠ 96 * d + num → coreOf t i = coreOf s i)

/-- GANG_HOLD_SEND, HOLD, GANG_ABORT, GANG_ABORT_MESSAGE and RENDEZVOUS_HOLD (R438 to R440, R466, R504, R505): a member that is not to start
in this frame sends a hold; every member on the package that a hold reaches has then counted it for its sender and frame, once; a hold
moves a core's rendezvous by 4,096; a member that aborts, or hears of it, has no launch of the gang left; where no core is behind, no
hold is sent, and a launch without a gang holds its own cores. -/
def Obligations.Gangs : Prop :=
  ∀ (s : State) (l : List Word) (x : Launch),
    let d := s.ev.die
    let g := s.ev.w.toNat % 2 ^ 32
    let sender := s.ev.w.toNat / 2 ^ 32 % 2 ^ 14
    let gone (t : State) (e n : Nat) : Prop :=
      (∀ y ∈ (dieOf t e).launches, lGang y.words ≠ n) ∧ ∀ y ∈ (dieOf t e).gangs, y.gang ≠ n
    ((∀ n ∈ gangsOf s d, holdsNow s d n = none) → exec .gangHoldSend s = .next s) ∧
    (∀ n, gangsOf s d = [n] → holdsNow s d n = some l → exec .gangHoldSend s = .next (sendHold s d l)) ∧
    Runs .hold s (fun t => t.mem = s.mem ∧ ∀ e < 4, gangRecs s e g ≠ [] →
      (sender, frameNow s) ∈ (gangOf (dieOf t e) g).heard ∧
      ((sender, frameNow s) ∉ (gangOf (dieOf s e) g).heard → (gangOf (dieOf t e) g).count = (gangOf (dieOf s e) g).count + 1) ∧
      ((sender, frameNow s) ∈ (gangOf (dieOf s e) g).heard → (gangOf (dieOf t e) g).count = (gangOf (dieOf s e) g).count)) ∧
    (∀ k, OnlyCore s (shiftCore s k) k fun c => { c with holdShift := c.holdShift + 4096, nrv := c.nrv.map fun t => t + 4096 }) ∧
    (d < 4 → Runs .gangAbort s fun t => gone t d s.ev.n) ∧
    Runs .gangAbortMessage s (fun t => ∀ e < 4, gangRecs s e g ≠ [] → ∀ y ∈ (dieOf t e).launches, lGang y.words ≠ g) ∧
    ((∀ y ∈ (dieOf s d).launches, ∀ c ∈ leftOf s d y, coreBehind s (96 * d + c.1) = false) → exec .rendezvousHold s = .next s) ∧
    ((dieOf s d).launches = [x] → (∃ c ∈ leftOf s d x, coreBehind s (96 * d + c.1) = true) →
      (lGang x.words = 0 → exec .rendezvousHold s = .next (((leftOf s d x).map fun c => 96 * d + c.1).foldl shiftCore s)) ∧
      (lGang x.words ≠ 0 → exec .rendezvousHold s = .next (sendHold s d x.words)))

/-! ## The fabric -/

/-- R448, R455, R464: a flit that arrives at a port that is not up is lost; one whose crc fails is counted and named by a NAK of the slot it
was sent in, due four cycles on, and the 64th in a row fails the port; a good one gives its credits and its NAK. An idle flit does no
more. A control flit's number and messages count: each message is a step of its kind.

SCHEDULED_FLIT_ARRIVAL and FLIT_FORWARD (R446, R451, R452): a flit on a forward entry is forwarded in its outgoing slot, at least eight
cycles on; one whose entry does not own it, or that is no event flit, is a counted discard; one that a core's receive expects in that
very slot is written 20 cycles after its arrival into the sub-block of the receive's tile, and the receive expects one flit less. -/
def Obligations.LinkArrivals : Prop :=
  (∀ (s : State) (f : Flit),
    let p := s.ev.port
    let x := portOf s p
    let src := f.csrc.toNat
    let named : BitVec 11 := BitVec.ofNat 11 (sentSlot x s.ev.slot)
    let naks := if x.naks.any (fun y => decide (y.1 = named)) then x.naks else x.naks ++ [(named, s.tick + 4, none)]
    let bad := { x with crcerr := x.crcerr + 1, badRun := x.badRun + 1, naks := naks }
    let good := { x with
      badRun := 0
      credits := tblPut x.credits src (tblGet 0 x.credits src + f.ccnt.toNat)
      taken := tblSet 0 x.taken src ((tblGet 0 x.taken src + f.ccnt.toNat) % 256)
      naks := if f.rp then x.naks.filter (fun y => decide (y.1 ≠ f.oslot)) else x.naks }
    (s.ev.flit = none → ∀ i ∈ [Instr.idleFlitArrival, .controlFlit, .scheduledFlitArrival], exec i s = .next s) ∧
    (s.ev.flit = some f → x.state ≠ 2 → ∀ i ∈ [Instr.idleFlitArrival, .controlFlit, .scheduledFlitArrival], exec i s = .next s) ∧
    (s.ev.flit = some f → x.state = 2 → f.crc ≠ flitCrc f → x.badRun + 1 < 64 →
      ∀ i ∈ [Instr.idleFlitArrival, .controlFlit, .scheduledFlitArrival], Runs i s fun t => OnlyPort s t p fun _ => bad) ∧
    (s.ev.flit = some f → x.state = 2 → f.crc ≠ flitCrc f → 64 ≤ x.badRun + 1 →
      ∀ i ∈ [Instr.idleFlitArrival, .controlFlit, .scheduledFlitArrival], Runs i s fun t => portOf t p = bad ∧
        t.agenda = s.agenda ++ [{ due := s.tick, instr := .portFail, ev := { Ev.none with port := p } }]) ∧
    (s.ev.flit = some f → x.state = 2 → f.crc = flitCrc f →
      Runs .idleFlitArrival s (fun t => portOf t p = good ∧ t.cores = s.cores ∧ t.mem = s.mem ∧
        t.agenda = s.agenda ++ (if f.nv then
          [{ due := s.tick, instr := .nakReceived, ev := { Ev.none with port := p, slot := f.nslot.toNat } }] else [])) ∧
      Runs .controlFlit s (fun t => (portOf t p).cacc = f.seq ∧ t.cores = s.cores ∧ t.mem = s.mem ∧
        ∀ i < 15, ∀ r, ctlRow ((payloadWord f.payload i).toNat / 2 ^ 60) = some r →
          { due := s.tick, instr := r, ev := { Ev.none with port := p, w := payloadWord f.payload i } } ∈ t.agenda))) ∧
  (∀ (s : State) (f : Flit) (l : Nat) (r : Recv) (x : RecvSlot),
    let p := s.ev.port
    let u := (linkIn s).1
    let sl := if f.rp then (f.oslot.toNat + (portOf u p).lat.toNat) % 2048 else s.ev.slot % 2048
    let e := frameEff u (frameKey l 1 sl)
    let k := 96 * fDie e + fCore e
    let c := coreOf s k
    ((linkIn s).2 = some f → logOf s p = some l →
      (fUse e = 2 → exec .scheduledFlitArrival s =
        .next (post u u.tick .flitForward { u.ev with slot := sl, flag := false, flit := some f })) ∧
      (fUse e ≠ 2 → f.cls ≠ 1 ∨ fUse e ≠ 1 ∨ f.dpkg ≠ u.pkg ∨ f.ddie.toNat ≠ fDie e ∨ f.dcore.toNat ≠ fCore e →
        exec .scheduledFlitArrival s = .next (rxErr u p)) ∧
      (f.cls = 1 → fUse e = 1 → f.dpkg = u.pkg → f.ddie.toNat = fDie e → f.dcore.toNat = fCore e → fCore e ≠ 127 →
        (recvOf u k l sl f.rp = none → exec .scheduledFlitArrival s = .next (rxErr u p)) ∧
        (recvOf u k l sl f.rp = some (r, x) → r.comb = none → Runs .scheduledFlitArrival s fun t =>
          t.cores = (updCore s k fun _ => { dropRecv c r x with
            stores := c.stores ++ [{
              due := s.tick + 20, group := 2, order := 8 * x.port + 1024 * (s.gcyc.toNat % 4096), sec := false
              k := .subBlock r.tile x.sub (tBase (tileOf c r.tile.toNat).ctl + 128 * x.sub)
                (if r.arms then some (f.seq.toNat % 4096) else none)
                (bytesOf f.payload.toNat 128) }]
            statLate := if f.rp then c.statLate + 1 else c.statLate
            statLast := if f.rp then s.gcyc else c.statLast }).cores ∧ t.mem = s.mem))) ∧
    (s.ev.flit = none → exec .flitForward s = .next s) ∧
    (s.ev.flit = some f → s.ev.flag = false → logOf s p = some l → Runs .flitForward s fun t =>
      ∃ due, s.tick + 8 ≤ due ∧ due < s.tick + 8 + 4096 ∧
        (s.gcyc.toNat + (due - s.tick)) % 4096 = 2 * (frameEff s (frameKey l 1 s.ev.slot) / 2 ^ 34 % 2048) ∧
        t = { s with agenda := s.agenda ++ [{ due := due, instr := .flitForward, ev := { s.ev with
          port := physOf s (frameEff s (frameKey l 1 s.ev.slot) / 2 ^ 7 % 256), id := p, flag := true } }] }) ∧
    (s.ev.flit = some f → s.ev.flag = true → logOf s p = some l →
      ((portOf s p).state = 2 → fUse (frameEff s (frameKey l 0 (slotNow s))) = 2 → exec .flitForward s =
        .next (sendFlit s p { f with oslot := BitVec.ofNat 11 (slotNow s), rp := false } none)) ∧
      ((portOf s p).state ≠ 2 ∨ fUse (frameEff s (frameKey l 0 (slotNow s))) ≠ 2 → Runs .flitForward s fun t =>
        OnlyPort s t s.ev.id fun y => { y with rxerr := y.rxerr + 1 })))

/-- NAK_RECEIVED, LINK_REPLAY_RESEND and LINK_ACKNOWLEDGEMENT (R455 to R457): a NAK makes the flit of its slot wait for a replay slot eight
cycles on, a second one while it waits, or before its resend can have arrived, is ignored, the fourth fails the port, and one of a slot
that is not kept does nothing; the resend has rp set and counts at the port and its core; a flit that is acknowledged has no NAKs, and
the core's send is over.

END_TO_END_ACKNOWLEDGEMENT, E2E_ACK_SEND and E2E_TIMER_EXPIRY (R459, R460): an acknowledgement retires the packets of the pair that its
base and map cover; an acknowledgement is sent on the first live path, or not at all; a packet whose timer expires goes out again on the
next path, and the eighth expiry ends the request that it carried, or is told to the requester of the request that it forwarded, or
raises cause 51; a timer of a packet that is no more does nothing.

MARKER, MARKER_ACK_SEND and MARKER_ACKNOWLEDGEMENT (R309, R462, R463): a marker of a core waits until the earlier operations of the core
toward the package have been sent, and then leaves down each minimal path to every die of the package; an acknowledgement waits until
every packet up to its number has performed, and then goes out; with the fourth of an FMARK its report comes, once the earlier
operations have performed; the others are noted. -/
def Obligations.LinkReliability : Prop :=
  (∀ (s : State) (k : Kept),
    let p := s.ev.port
    let x := portOf s p
    let named := x.kept.find? fun k => decide (k.oslot.toNat = s.ev.slot)
    let early := k.flit.rp = true ∧ s.tick ≤ k.sent + 4 * x.lat.toNat + 2
    let sent := x.kept.find? fun k => decide (k.oslot.toNat = s.ev.slot) && decide (k.sent = s.ev.n) && !k.waiting
    (named = none → exec .nakReceived s = .next s) ∧
    (named = some k →
      (k.waiting = true ∨ early → exec .nakReceived s = .next s) ∧
      (k.waiting = false → ¬early → k.naks < 3 → Runs .nakReceived s fun t => OnlyPort s t p fun x =>
        { x with kept := x.kept.filter (fun y => decide (y.oslot ≠ k.oslot)) ++
          [{ k with naks := k.naks + 1, waiting := true, ready := s.tick + 8 }] }) ∧
      (k.waiting = false → ¬early → 3 ≤ k.naks → exec .nakReceived s =
        .next (post s s.tick .portFail { Ev.none with port := p }))) ∧
    (replayReady s p = none → exec .linkReplayResend s = .next s) ∧
    (replayReady s p = some k → k.flit.cls ≠ 3 → Runs .linkReplayResend s fun t =>
      (portOf t p).replays = x.replays + 1 ∧ t.mem = s.mem ∧
      (∃ f, (portOf t p).wire = some f ∧ f.rp = true ∧ f.oslot = k.flit.oslot ∧ f.payload = k.flit.payload ∧ f.cls = k.flit.cls ∧
        f.dpkg = k.flit.dpkg ∧ f.seq = k.flit.seq) ∧
      (∀ c n, k.owner = some (c, n) → (coreOf t c).statReplay = (coreOf s c).statReplay + 1)) ∧
    (sent = none → exec .linkAcknowledgement s = .next s) ∧
    (sent = some k →
      (k.owner = none → Runs .linkAcknowledgement s fun t => OnlyPort s t p fun x =>
        { x with kept := x.kept.map fun y => if y.oslot = k.oslot then { y with naks := 0 } else y }) ∧
      ∀ c n, k.owner = some (c, n) → Runs .linkAcknowledgement s fun t =>
        (coreOf t c).sends = (coreOf s c).sends.filter (fun m => decide (m ≠ n)) ∧ t.mem = s.mem ∧ t.agenda = s.agenda)) ∧
  (∀ (s : State) (f : Flit) (q : Pkt) (l : Nat) (r : List Nat),
    let e := s.ev
    let base := (payloadWord f.payload 0).extractLsb' 0 24
    let hit (q : Pkt) : Bool := decide (q.die = f.ddie.toNat) && decide (q.dpkg = f.spkg) && decide (q.ddie = f.sdie) &&
      covers base (f.payload.extractLsb' 64 256) q.seq
    let timed := s.pkts.find? fun q => decide (q.die = e.die) && decide (4 * q.dpkg.toNat + q.ddie.toNat = e.id) &&
      decide (q.seq.toNat = e.n) && decide (q.sent = e.slot) && decide (q.next > 0)
    let paths := pathPorts s.pkg.toNat q.dpkg.toNat
    (e.flag2 = true ∨ e.flag = true → e.flit = some f →
      exec .endToEndAcknowledgement s = .next { s with pkts := s.pkts.filter fun q => !(hit q) }) ∧
    (livePaths s (e.n / 4) = [] → exec .e2eAckSend s = .next s) ∧
    (livePaths s (e.n / 4) = l :: r → Runs .e2eAckSend s fun t => ∃ g, OnlyPort s t (physOf s l) (fun p =>
        { p with outq := p.outq ++ [(5, g, none)] }) ∧ g.kind = 9 ∧ g.dpkg.toNat = e.n / 4 % 4096 ∧ g.ddie.toNat = e.n % 4 ∧ g.cls = 2) ∧
    (timed = none → exec .e2eTimerExpiry s = .next s) ∧
    (timed = some q → q.expiries < 7 → Runs .e2eTimerExpiry s fun t => t = { s with
      pkts := s.pkts.map fun x => if samePkt q x then
        { x with expiries := x.expiries + 1, path := (x.path + 1) % max 1 paths.length, next := 0 } else x }) ∧
    (timed = some q → 7 ≤ q.expiries →
      (∀ x, q.req.bind (reqFind s) = some x → exec .e2eTimerExpiry s =
        .next (endUnreachable { s with pkts := s.pkts.filter fun y => !(samePkt q y || decide (y.req = q.req)) } x q.dpkg.toNat)) ∧
      (q.req.bind (reqFind s) = none → let u := { s with pkts := s.pkts.filter fun y => !(samePkt q y) }
        (∀ g, q.flits.head? = some g → g.kind = 8 → exec .e2eTimerExpiry s =
          .next (answerStatus (raise51 u (noticeCore s q.die) 0 2 q.dpkg.toNat) (wireOf g) 5 q.dpkg.toNat)) ∧
        ((∀ g, q.flits.head? = some g → g.kind ≠ 8) → Runs .e2eTimerExpiry s fun t =>
          OnlyCore u t (noticeCore s q.die) fun c => { c with pend := c.pend ++
            [{ cause := 51, info0 := 51, info2 := BitVec.ofNat 64 (0 + 2 * 256 + q.dpkg.toNat * 2 ^ 52), info3 := s.gcyc }] })))) ∧
  (∀ (s : State) (m : Mark),
    let e := s.ev
    let w := e.w.toNat
    let die := w / 2 ^ 21 % 4
    let mine (m : Mark) : Bool := decide (coreNum m.core = w % 128) && decide (coreDie m.core = w / 2 ^ 7 % 4) &&
      decide (m.pkg.toNat = w / 2 ^ 9 % 4096) && !(m.acks.getLsbD die)
    let acks := m.acks ||| BitVec.ofNat 4 (2 ^ die)
    (e.flit = none → e.flag = false → exec .marker s = .next s) ∧
    (e.flit = none → e.flag = true → markAhead s e.core e.id e.w.toNat (!e.flag2) = true →
      exec .marker s = .next (post s (s.tick + 1) .marker e)) ∧
    (e.flit = none → e.flag = true → e.flag2 = true → markAhead s e.core e.id e.w.toNat false = false →
      exec .marker s = .next (reportDone s e.core e.tile e.n false)) ∧
    (e.flit = none → e.flag = true → e.flag2 = false → markAhead s e.core e.id e.w.toNat true = false → Runs .marker s fun t => t.cores = s.cores ∧ t.mem = s.mem ∧ t.agenda = s.agenda ∧
      t.marks = s.marks ++ [{ core := e.core, tile := e.tile, chunk := e.n, pkg := BitVec.ofNat 12 e.id, upto := e.w.toNat, acks := 0 }] ∧
      ∀ l ∈ minimalPaths s e.id, ∀ d < 4, ∃ o ∈ (portOf t (physOf s l)).outq,
        o.2.1.kind = 10 ∧ o.2.1.ddie.toNat = d ∧ o.2.1.dpkg.toNat = e.id % 4096) ∧
    (performedTo s e.die (e.id / 4) (e.id % 4) e.n = false → exec .markerAckSend s = .next (post s (s.tick + 1) .markerAckSend e)) ∧
    (∀ l r, performedTo s e.die (e.id / 4) (e.id % 4) e.n = true → minimalPaths s (e.id / 4) = l :: r →
      Runs .markerAckSend s fun t => t.cores = s.cores ∧ t.mem = s.mem ∧ (portOf t (physOf s l)).ctlq =
        (portOf s (physOf s l)).ctlq ++ [BitVec.ofNat 64 (4 * 2 ^ 60 + e.slot % 128 + e.id % 4 * 2 ^ 7 + s.pkg.toNat * 2 ^ 9 +
          e.die * 2 ^ 21)]) ∧
    (s.marks.find? mine = none → exec .markerAcknowledgement s = .next s) ∧
    (s.marks.find? mine = some m →
      (acks = BitVec.allOnes 4 → exec .markerAcknowledgement s =
        .next (post { s with marks := s.marks.erase m } s.tick .marker { Ev.none with
          core := m.core, tile := m.tile, n := m.chunk, id := m.pkg.toNat, w := BitVec.ofNat 64 m.upto, flag := true, flag2 := true })) ∧
      (acks ≠ BitVec.allOnes 4 → exec .markerAcknowledgement s =
        .next { s with marks := s.marks.map fun x => if x = m then { m with acks := acks } else x })))

/-- R453, R454, R458, R459: an open flit that is not of the open class is a counted discard; one for this package owes its buffer's credit
to the source that sent it and reaches its die's units 24 cycles later; one for another goes on on the port toward it and keeps its
buffer till it leaves there. At its die a numbered packet whose number was had is acknowledged again, one beyond the window is dropped;
the next one of one flit is taken: the base passes it, it is handed over in this cycle, and an acknowledgement falls due within 512
cycles.

R160, R359, R363, R365, R380, R393, R401, R454, R588: what a packet handed over asks of its die. A write that overtook an earlier one of
its core waits; a failed check of the entry, the bounds or the extents is reported to the requester; a request whose data lies at
another package goes on to it, or is reported where that cannot be reached. READ_REQUEST is answered in packets of 128 bytes to its
endpoint, WRITE_BACK_DATA is written in the cache of each location's home die, an engine's once the other dies' copies are gone,
ATOMIC_REQUEST is applied and answered with the value before it, or asks for an entry, ACQUIRE_REQUEST waits for its version and is then
answered, VIEW_UPDATE raises the system view, FORWARDED_RESOLUTION is served with the entry that it brought; a write that meets a moving
extent waits for the move. An answer to this package itself (the model's choice, log entry 88) is handed over here, as a step of its
kind.

R264, R342, R365, R393, R454, R587: READ_RESPONSE gives the codes of its 128 bytes to the read of its die that waits, and each of their
chunks lands; ATOMIC_RESPONSE gives an atomic its old value and a wait its word, two cycles before the wait may go on, ends a store with
the last of its packets, and a report of a failure is the late fault, or of a missing residency the parking, that it would be at home;
ACQUIRE_RESPONSE drops the die's clean copies and reports. An answer that nothing waits for does nothing. -/
def Obligations.OpenTraffic : Prop :=
  (∀ (s : State) (f : Flit) (l : Nat) (row : Instr),
    let rows : List Instr := [.readRequest, .readResponse, .writeBackData, .atomicRequest, .atomicResponse, .acquireRequest,
      .acquireResponse, .viewUpdate, .forwardedResolution, .endToEndAcknowledgement]
    let numbered : List Instr := [.readRequest, .readResponse, .writeBackData, .atomicRequest, .atomicResponse, .acquireRequest,
      .acquireResponse, .viewUpdate, .forwardedResolution]
    let p := s.ev.port
    let u := (linkIn s).1
    let src := flitSource s l f
    let owes (x : Port) : Port := { x with owe := tblSet 0 x.owe src (tblGet 0 x.owe src + 1) }
    let y := rxOf s f
    let off := (f.seq - y.base).toNat
    (s.ev.flag = false → s.ev.flag2 = false → ∀ i ∈ rows,
      ((linkIn s).2 = none → exec i s = .next u) ∧
      ((linkIn s).2 = some f → logOf u p = some l →
        (f.cls ≠ 2 → exec i s = .next (rxErr u p)) ∧
        (f.cls = 2 → openRow f.kind.toNat = some row → f.dpkg = s.pkg → Runs i s fun t =>
          portOf t p = owes (portOf u p) ∧ t.cores = s.cores ∧ t.mem = s.mem ∧
          t.agenda = u.agenda ++ [{ due := s.tick + 24, instr := row, ev := { Ev.none with
            port := p, slot := s.ev.slot % 2048, flag := true, flit := some f } }]) ∧
        (∀ m, f.cls = 2 → openRow f.kind.toNat = some row → f.dpkg ≠ s.pkg →
          transitPort u f = some m → Runs i s fun t => OnlyPort u t (physOf u m) fun q =>
            { q with outq := q.outq ++ [(4, { f with rp := false }, some (p, src))] }))) ∧
    (s.ev.flag = true → s.ev.flag2 = false → s.ev.flit = some f → ∀ i ∈ numbered,
      (2 ^ 23 ≤ off ∨ (off < 256 ∧ y.map.getLsbD off = true) → exec i s = .next (ackLater s f)) ∧
      (256 ≤ off → off < 2 ^ 23 → exec i s = .next s) ∧
      (off = 0 → y.map = 0 → y.held = [] → packetLen f = 1 → openRow f.kind.toNat = some row → Runs i s fun t =>
        (rxOf t f).base = y.base + 1 ∧ (rxOf t f).map = 0 ∧ (rxOf t f).held = [] ∧ t.cores = s.cores ∧ t.mem = s.mem ∧
        { due := s.tick, instr := row, ev := { Ev.none with die := f.ddie.toNat, flag2 := true, flit := some f } } ∈ t.agenda ∧
        ∃ a ∈ t.agenda, a.instr = .e2eAckSend ∧ s.tick < a.due ∧ a.due ≤ s.tick + 512 ∧ a.ev.die = f.ddie.toNat))) ∧
  (∀ (s : State) (f : Flit) (o o' : Obj) (x : Atom) (i : Instr) (pkg : Nat) (ent : List Word), s.ev.flag2 = true → s.ev.flit = some f →
    let w := wireOf f
    let again (i : Instr) : Prop := exec i s = .next (post s (s.tick + 1) i s.ev)
    let onMove (i : Instr) : Prop := exec i s = .next (postMv s i s.ev (wKey w))
    let units := wN w.ws 0 % 256
    let width := wireWidth o
    let els := wantedEls w width
    let answered (t : State) (n kind : Nat) : Prop := t.mem = s.mem ∧ t.cores = s.cores ∧
      (w.pkg ≠ s.pkg.toNat → ∃ ps, t.pkts = s.pkts ++ ps ∧ ps.length = n ∧
        ∀ q ∈ ps, q.die = w.die ∧ q.dpkg.toNat = w.pkg % 4096 ∧ q.ddie.toNat = w.sdie % 4 ∧ q.flits.length = 1 ∧
          ∀ g ∈ q.flits, g.kind.toNat = kind) ∧
      (w.pkg = s.pkg.toNat → t.pkts = s.pkts ∧ ∃ es, t.agenda = s.agenda ++ es ∧ es.length = n ∧
        ∀ e ∈ es, e.due = s.tick + 1 ∧ openRow kind = some e.instr ∧ e.ev.die = w.sdie ∧ e.ev.flag2 = true)
    let reads (i : Instr) : Prop :=
      (∀ c off, serveEls s w o false width els = .over c off → exec i s = .next (answerStatus s w c off)) ∧
      ((∀ c off, serveEls s w o false width els ≠ .over c off) →
        (servePoison s o width els = true → exec i s = .next (answerStatus s w 2 0)) ∧
        (servePoison s o width els = false → Runs i s fun t => answered t ((units + 1) / 2) 1))
    (openRow f.kind.toNat = some i →
      i ∈ [Instr.readRequest, .writeBackData, .atomicRequest, .acquireRequest, .viewUpdate, .forwardedResolution] →
      (w.kind = 2 → w.ws.getD 2 0 ≠ 1) → (w.kind = 3 → wN w.ws 4 ≠ 1024) →
      (servesEarlier s f w = true → again i) ∧
      (servesEarlier s f w = false → (∀ c off, serveObj s w = .over c off → exec i s = .next (answerStatus s w c off)) ∧
        (serveObj s w = .peer pkg ent → w.kind ≠ 5 → w.kind ≠ 7 →
          (unreachable s pkg = true → exec i s = .next (answerStatus s w 5 pkg)) ∧
          (unreachable s pkg = false → Runs i s fun t => t.mem = s.mem ∧ t.cores = s.cores ∧ ∃ q, t.pkts = s.pkts ++ [q] ∧
            q.dpkg.toNat = pkg % 4096 ∧ ∀ g ∈ q.flits, g.kind = 8)))) ∧
    (f.kind = 0 → w.ws.getD 2 0 = 0 → serveObj s w = .ok o → reads .readRequest) ∧
    (f.kind = 8 → w.kind = 0 → w.ws.getD 2 0 = 0 → serveObj s w = .ok o → reads .forwardedResolution) ∧
    (f.kind = 2 → w.ws.getD 2 0 ≠ 1 → servesEarlier s f w = false → serveObj s w = .ok o →
      let b0 := 8 * wN w.ws 1 + wN w.ws 3 / 2 ^ 32 % 8
      let n := wN w.ws 3 % 2 ^ 32
      let p := if !(eIdentity o.e) then eWidth o.e else if b0 % 8 = 0 ∧ n % 8 = 0 then 8 else 1
      let els : List Int := (List.range (n / p)).map fun i => ((b0 / p + i : Nat) : Int)
      let l := (List.range (n / p)).filterMap fun i => (elemBit o p ((b0 / p + i : Nat) : Int)).map fun b =>
        (b, natOfBytes s.ev.bytes / 2 ^ (p * i) % 2 ^ p)
      let u := if wEng w then flushBlocks s o (elemBlocks o p els) else s
      (serveEls s w o true p els = .moving → onMove .writeBackData) ∧
      (serveEls s w o true p els = .ok o' → wEng w = true → blocksHeld u o (elemBlocks o p els) = true →
        exec .writeBackData s = .next (post u (u.tick + 1) .writeBackData s.ev)) ∧
      (serveEls s w o true p els = .ok o' → wEng w = false ∨ blocksHeld u o (elemBlocks o p els) = false →
        exec .writeBackData s = .next (answerStatus (l.foldl (fun s x => homeWrite s o w.ent x.1 p x.2) u) w 0 0))) ∧
    (f.kind = 3 → servesEarlier s f w = false → serveObj s w = .ok o → wireAtom w = some x →
      let chk := extChk s w.die (wDom w) o true 8 [((atomSpan x).1 : Int)]
      (atomInside o x = false → exec .atomicRequest s = .next (answerStatus s w 25 (atomSpan x).1)) ∧
      (atomInside o x = true → chk = .moving → onMove .atomicRequest) ∧
      (atomInside o x = true → chk = .ok → let y := applyAtom s o w.ent x
        exec .atomicRequest s = .next (answer y.1 w 4 (payloadOf [BitVec.ofNat 64 y.2, w.ws.getD 5 0])))) ∧
    (f.kind = 3 → wN w.ws 4 = 1024 → Runs .atomicRequest s fun t => answered t 1 4) ∧
    (f.kind = 5 → serveObj s w = .ok o → (sysView s (wKey w)).ver.toNat < wN w.ws 1 → again .acquireRequest) ∧
    (f.kind = 5 → serveObj s w = .ok o → wN w.ws 1 ≤ (sysView s (wKey w)).ver.toNat → (sysView s (wKey w)).hold = 0 →
      Runs .acquireRequest s fun t => answered t 1 6) ∧
    (f.kind = 7 → serveObj s w = .ok o → exec .viewUpdate s =
      .next (answerStatus (wakeAcquires (raiseSys s (wKey w) (w.ws.getD 1 0) 0) (wKey w)) w 0 0))) ∧
  (∀ (s : State) (f : Flit) (r : Req), s.ev.flag2 = true → s.ev.flit = some f →
    let word (i : Nat) := payloadWord f.payload i
    (awaiting s f = none → exec .readResponse s = .next s) ∧
    (∀ spec step t k a b v, awaiting s f = some r → r.op = .ldt spec step t → r.want = (k, a, b) :: v → r.bad = none →
      let lo := max a (1024 * k)
      let hi := min b (1024 * k + 1024)
      let codes := (elemsIn r lo hi).map fun x => (x.1, BitVec.ofNat 32 (f.payload.toNat / 2 ^ (x.2.toNat * r.w - 1024 * k) % 2 ^ r.w))
      let ks := (codes.map fun x => chunkAt (tileOf (coreOf s r.core) t.toNat).ctl x.1).eraseDups
      Runs .readResponse s fun u => u.cores = s.cores ∧ u.mem = s.mem ∧
        u.reqs = s.reqs.map (fun q => if q.id = r.id then
          { dropElems r lo hi with want := v, data := r.data ++ codes, left := r.left ++ ks } else q) ∧
        u.agenda = s.agenda ++ ks.map fun k => { due := max r.ready (s.tick + 1), instr := .tileChunkLands, ev := { Ev.none with
          core := r.core, id := r.id, tile := t, n := k } }) ∧
    (askedBy s f (word 1) = none → exec .atomicResponse s = .next s) ∧
    (askedBy s f (word 1) = some r → r.st = .remote →
      (∀ op w64 off a b t w, r.op = .amo op w64 false off a b t w → word 2 = 0 → Runs .atomicResponse s fun u =>
        u.cores = s.cores ∧ u.mem = s.mem ∧ u.reqs = s.reqs.filter (fun q => decide (q.id ≠ r.id)) ∧
        u.agenda = s.agenda ++ [{ due := s.tick + 1, instr := .reportLands, ev := { Ev.none with
          core := r.core, id := r.id, tile := t, n := w / 64
          w := BitVec.ofNat 64 (tBase (tileOf (coreOf s r.core) t.toNat).ctl + 8 * w), bytes := bytesOf (word 0).toNat 8 } }]) ∧
      (∀ el ph, r.op = .waitb el ph ∨ r.op = .mwaitb el ph → word 2 = 0 → Runs .atomicResponse s fun u =>
        u = { s with reqs := s.reqs.map fun q => if q.id = r.id then { r with st := .answered (word 0), ready := s.tick + 2 } else q }) ∧
      (∀ t, r.op = .stt t → r.asks = 1 → r.bad = none → word 2 = 0 → exec .atomicResponse s =
        .next { s with reqs := s.reqs.filter fun q => decide (q.id ≠ r.id) }) ∧
      (∀ op w64 nr off a b t w, r.op = .amo op w64 nr off a b t w →
        (word 2 ∈ [23#64, 24, 25, 26] → exec .atomicResponse s = .next (lateFault s r (word 2).toNat (word 3))) ∧
        (word 2 = 1 → exec .atomicResponse s = .next (parkReq s r 0 (word 3).toNat)) ∧
        (word 2 = 5 → exec .atomicResponse s = .next (endUnreachable s r (word 3).toNat))) ∧
      (∀ spec step t, r.op = .ldt spec step t → r.want ≠ [] → r.bad = none → word 2 = 24 →
        let lo := 8 * (word 4).toNat + (word 5).toNat / 2 ^ 32
        let hi := 8 * (word 4).toNat + (word 5).toNat % 2 ^ 32
        (∀ x ∈ r.want, x.2 = (lo, hi)) → ∃ r', r'.op = r.op ∧ r'.id = r.id ∧ r'.handle = r.handle ∧ r'.core = r.core ∧
          exec .atomicResponse s = .next (if reqLive s r' then
            loadFault s r' spec 24 (BitVec.ofNat 64 (elemByte r (word 3).toNat)) else endLoad s r'))) ∧
    (askedBy s f (word 5) = none → exec .acquireResponse s = .next s) ∧
    (∀ sc v t k, askedBy s f (word 5) = some r → r.st = .remote → r.op = .acqv sc v t k → exec .acquireResponse s =
      .next (reqDel (reportDone (dropClean s r.die (r.handle.toNat / 2 ^ 28)) r.core t k false) r.id)))

/-- PORT_FAIL, PORT_STATE_WRITE, PORT_EN_WRITE, PORT_TRAINING, READY and ERROR_REPORT (R442, R444, R467 to R469): a port that fails has
state 3 and keeps nothing, and its entries are disabled; a write of 3 fails it, en 0 holds it down, en 1 begins training; training notes
the latency, the peer and the skew, and brings the port up with 32 credits a source where the counters agree and the peer is the one
expected; READY is kept for its port, and makes a waiting binding of the right pair effective.

FLIT_SLOT_SEND, PORT_MAP_WRITE and FRAME_TABLE_WRITE (R442, R444, R445, R449): a port that is neither up nor in training sends nothing;
one in training sends its training flit; one that is up and bound to no logical port, or to one that is not ready, sends idle flits but
for its control and replay slots; a write of the port map binds the logical port, which waits for the peer's ready message; an entry of
a slot that is not a replay slot takes its value, the old one in effect till the next frame. -/
def Obligations.Ports : Prop :=
  (∀ (s : State) (o : Nat),
    let e := s.ev
    let p := e.port
    let x := portOf s p
    let lat := min 1000 (max 1 e.n)
    let diff := e.w + BitVec.ofNat 64 (2 * lat) - s.gcyc
    let wrong : Bool := match logOf s p with
      | some l => decide (portPeer s.pkg.toNat l ≠ e.id)
      | none => false
    let noted := { x with lat := BitVec.ofNat 10 lat, ppkg := BitVec.ofNat 12 e.id, pport := e.code.extractLsb' 0 8, skew := diff.extractLsb' 0 32, pmerr := wrong }
    let readys := s.readys.filter (fun y => decide (y ≠ (p, e.w))) ++ [(p, e.w)]
    let ok (b : Nat × Nat) (y : Nat × Word) : Bool := decide (b.2 = y.1) && decide (y.2.toNat / 256 % 2 = 1) &&
      decide (y.2.toNat / 2 ^ 9 % 4096 = portPeer s.pkg.toNat b.1) && decide (portPeer (y.2.toNat / 2 ^ 9 % 4096) (y.2.toNat % 256) = s.pkg.toNat)
    let failed (t : State) (p : Nat) : Prop := (portOf t p).state = 3 ∧ t.mem = s.mem ∧ ∀ l, logOf s p = some l →
      (portOf t p).kept = [] ∧
        ∀ i < 0x1000, i % 16 ≠ 0 → (tblGet (0 : Word) t.frame (frameKey l 0 i)) = tblGet (0 : Word) s.frame (frameKey l 0 i) ||| 0xC000000000000000#64
    Runs .portFail s (fun t => failed t p) ∧
    (∀ q, blockAt e.id = some (.port q, o) →
      Runs .portStateWrite s (fun t => failed t q) ∧
      (e.w.getLsbD 8 = true → Runs .portEnWrite s fun t => OnlyPort s t q fun x =>
        { x with en := true, state := if x.en || x.state = 3 then x.state else 1 }) ∧
      (e.w.getLsbD 8 = false → Runs .portEnWrite s fun t =>
        (portOf t q).en = false ∧ (portOf t q).state = 0 ∧ t.mem = s.mem ∧
        ((portOf s q).state ≠ 2 → OnlyPort { s with readys := s.readys.filter fun y => decide (y.1 ≠ q) } t q fun x => { x with en := false, state := 0 }))) ∧
    (x.en = false ∨ x.state ≠ 1 → exec .portTraining s = .next s) ∧
    (x.en = true → x.state = 1 → diff ≠ 0 ∨ wrong = true → Runs .portTraining s fun t =>
      OnlyPort s t p fun _ => { noted with state := 1 }) ∧
    (x.en = true → x.state = 1 → diff = 0 → wrong = false → (∀ b ∈ s.lbind, b.2 ≠ p) → Runs .portTraining s fun t =>
      OnlyPort s t p fun _ => { noted with
        state := 2, credits := (List.range 6).map (fun i => (i, 32)), taken := [], gave := [], owe := [], kept := [], naks := []
        badRun := 0, wire := none, train := none }) ∧
    (x.state = 2 → exec .ready s = .next { s with
      readys := readys, lbind := s.lbind.filter fun b => !(decide ((portOf s b.2).state = 2) && readys.any (ok b)) }) ∧
    (x.state ≠ 2 → exec .ready s = .next s) ∧
    Runs .errorReport s (fun t => t.mem = s.mem ∧ t.ports = s.ports ∧ t.dies = s.dies ∧
      ∀ l < 133, portPeer s.pkg.toNat l = e.w.toNat / 2 ^ 12 % 4096 → (portOf s (physOf s l)).ppkg.toNat = e.w.toNat / 2 ^ 12 % 4096 →
        l = e.w.toNat % 256 → ∀ k ∈ coresOn s l, ∃ q ∈ (coreOf t k).pend, q.cause = 51)) ∧
  (∀ (s : State) (o p : Nat) (x : Port),
    let e := s.ev
    let n := e.w.toNat % 256
    let put (k : Nat) (v : Word) (t : State) : Prop := tblGet (0 : Word) t.frame k = v ∧
      (∀ j, j ≠ k → tblGet (0 : Word) t.frame j = tblGet (0 : Word) s.frame j) ∧ (∀ j, j ≠ k → frameEff t j = frameEff s j) ∧
      frameEff t k = frameEff s k
    ((∀ x ∈ s.ports, x.2.state ≠ 2 ∧ (x.2.state = 1 → x.2.en = false)) → exec .flitSlotSend s = .next s) ∧
    (s.ports = [(p, x)] → x.state = 1 → x.en = true → Runs .flitSlotSend s fun t => OnlyPort s t p fun y =>
      { y with train := some (s.gcyc, s.pkg.toNat, logOf s p) }) ∧
    (s.ports = [(p, x)] → x.state = 2 → logOf s p = none → exec .flitSlotSend s =
      .next (if slotNow s % 16 = 0 then slotSend s p 0 else sendFlit s p (idleFlit s) none)) ∧
    (∀ l, s.ports = [(p, x)] → x.state = 2 → logOf s p = some l → exec .flitSlotSend s =
      .next (if portUp s l = true ∨ slotNow s % 16 = 0 then slotSend s p l else sendFlit s p (idleFlit s) none)) ∧
    (blockAt e.id = some (.portMap, o) →
      (143 < n ∨ n = physOf s (o / 8) → exec .portMapWrite s = .next s) ∧
      (n ≤ 143 → n ≠ physOf s (o / 8) → Runs .portMapWrite s fun t =>
        physOf t (o / 8) = n ∧ (∀ l, l ≠ o / 8 → physOf t l = physOf s l) ∧
        ((o / 8, n) ∈ t.lbind ↔ (portOf s n).state ≠ 2 ∨ ∀ y ∈ s.readys, readyFor s (o / 8, n) y = false) ∧ t.cores = s.cores ∧ t.mem = s.mem)) ∧
    (blockAt e.id = some (.frame, o) →
      (frameSlot o = false → exec .frameTableWrite s = .next s) ∧
      (frameSlot o = true → Runs .frameTableWrite s fun t =>
        put (o / 8) (BitVec.ofNat 64 (e.w.toNat / 128 * 128)) t ∧ t.cores = s.cores ∧ t.mem = s.mem ∧ t.ports = s.ports)))

/-! ## Package -/

/-- MGO, MOVE_EXTENT, MSPUT and MPPUT (R401, R402): a go while a move runs is ignored, one that names no live object homed here fails with
reason 1, else the move runs; a move that is no more does nothing, one whose extent cannot be moved fails with its reason, its first
phase sets mv in the extent's entry and writes its dirty lines back, again while some stay dirty, its second copies; a pushed address
stands on its stack, below the stack's size.

R506, R507: JCYC_WRITE arms the trigger for a cycle at least 4,096 ahead, an earlier one leaves it as it was; JACK_TRIGGER latches every
compute core's snapshot, disarms and marks the trigger done at its cycle, and the arming core takes cause 54. -/
def Obligations.ObjectManager : Prop :=
  (∀ (s : State) (o : Obj),
    let e := s.ev
    let g := regDie e.id
    let busy (d : Nat) : Bool := (dieOf s d).mstat.getLsbD 63
    let d := e.die
    let a := moveAt (dieOf s d)
    let w := (extMem s o a.1 a.2).1
    let marked := physPut s (extAddr o a.1 a.2) (BitVec.ofNat 64 (w - w / 2 ^ 61 % 2 * 2 ^ 61 + 2 ^ 61))
    let u := (List.range 4).foldl (fun u e => (extLines u e o a.1 a.2).foldl (fun u l => writeBack u e l true) u) marked
    let dirty := (List.range 4).any fun e => (extLines u e o a.1 a.2).any fun l => decide (l.mask ≠ 0)
    let room (base n : Word) : Prop := n.toNat < 2 ^ (base.toNat % 64)
    let y := dieOf s g
    (busy g = true → exec .mgo s = .next s) ∧
    (busy g = false → moveObj (updDie s g fun y => { y with mstat := 0, mCur := 0 }) g = none → Runs .mgo s fun t =>
      OnlyDie s t g fun y => { y with mstat := BitVec.ofNat 64 (2 ^ 62 + 2 ^ 56), mCur := 0 }) ∧
    (busy g = false → moveObj (updDie s g fun y => { y with mstat := 0, mCur := 0 }) g = some o → Runs .mgo s fun t =>
      dieOf t g = { y with mstat := BitVec.ofNat 64 (2 ^ 63), mCur := 0 } ∧ t.cores = s.cores ∧ t.mem = s.mem ∧
      t.agenda = s.agenda ++ [{ due := later s 1 (8000 + g), instr := .moveExtent, ev := { Ev.none with die := g } }]) ∧
    (busy d = false → exec .moveExtent s = .next s) ∧
    (busy d = true → moveObj s d = none → exec .moveExtent s = .next (moveFail s d 1)) ∧
    (∀ why, busy d = true → moveObj s d = some o → moveWhy s d o = some why → exec .moveExtent s = .next (moveFail s d why)) ∧
    (busy d = true → moveObj s d = some o → moveWhy s d o = none →
      (e.flag = false → exec .moveExtent s = .next (moveOn u d (!dirty))) ∧
      (e.flag = true → exec .moveExtent s = .next (moveCopy s d o))) ∧
    (room y.msstk y.msfree → Runs .msput s fun t =>
      (dieOf t g).msfree = y.msfree + 1 ∧ t.cores = s.cores ∧
      physWord t (y.msstk.toNat / 4096 * 4096 + 8 * y.msfree.toNat) = BitVec.ofNat 64 (e.w.toNat % 2 ^ 48 / 128 * 128) ∧
      t.agenda = s.agenda ++ [{ due := later s 1 g, instr := .writebackRetry, ev := { Ev.none with die := g } }]) ∧
    (¬room y.msstk y.msfree → Runs .msput s fun t => (dieOf t g).msfree = y.msfree ∧ t.mem = s.mem ∧ t.cores = s.cores) ∧
    (room y.mpstk y.mpfree → Runs .mpput s fun t =>
      (dieOf t g).mpfree = y.mpfree + 1 ∧ t.cores = s.cores ∧ t.agenda = s.agenda ∧
      physWord t (y.mpstk.toNat / 4096 * 4096 + 8 * y.mpfree.toNat) = BitVec.ofNat 64 (e.w.toNat % 2 ^ 48 / 65536 * 65536)) ∧
    (¬room y.mpstk y.mpfree → Runs .mpput s fun t => OnlyDie s t g fun y => y)) ∧
  (∀ (s : State),
    let e := s.ev
    (e.w.toNat < s.gcyc.toNat + 4096 → exec .jcycWrite s = .next s) ∧
    (s.gcyc.toNat + 4096 ≤ e.w.toNat → exec .jcycWrite s = .next
      { s with jcyc := e.w, jarmed := true, jcore := if e.core < 449 then some e.core else none }) ∧
    (s.jcore = none → Runs .jackTrigger s fun t =>
      t = { s with dies := t.dies, psnap := t.psnap, jarmed := false, jdone := true, lcyc := s.gcyc } ∧
      ∀ d < 4, ∀ k < 96, ∀ i < 8, tblGet (0 : Word) (dieOf t d).snap (8 * k + i) = (coreSnap s (96 * d + k)).getD i 0) ∧
    (∀ k, s.jcore = some k → Runs .jackTrigger s fun t =>
      t = { s with cores := t.cores, dies := t.dies, psnap := t.psnap, jarmed := false, jdone := true, lcyc := s.gcyc, jcore := none } ∧
      (coreOf t k).pend = (coreOf s k).pend ++ [{ cause := 54, info0 := 54, info2 := s.jcyc, info3 := 0 }]))

/-- SENSOR_SAMPLE, ZONE_FILL, ZONE_DRAIN, ZONE_OFF, ZONE_CLEAR, FILL_TIMEOUT, DRAIN_STEP_COMPLETE, DRAIN_STEP_TIMEOUT, ALLOC_WRITE,
MINF_WRITE, REGULATOR_STEP and RAIL_FAULT (R511, R513 to R516, R521, R523, R525) each complete with their effect where the zone's state
takes them.

SENSOR_SAMPLE, REGULATOR_STEP and RAIL_FAULT (R511, R514, R518 to R520, R523, R525): a sample notes every zone's readings and moves its
flow toward its allocation by at most its ramp; a crossing makes a live zone limited and clamps it; a trap sets its bit and is delivered
to the enabled core, once; a regulator moves each powered compute or system zone by at most 5 mV toward its setting; a rail fault stops
the package.

ZONE_FILL, ZONE_DRAIN, ZONE_OFF, ZONE_CLEAR, FILL_TIMEOUT, ALLOC_WRITE and MINF_WRITE (R513 to R516): a command of a zone in a state
that takes it has its effect, else cerr is set, as it is for a zone above 79; a filling that lasts 3,000,000,000 cycles ends with dflt
where it came from; an allocation must cover what is granted, and while the zone is powered its minimum, and leave the sum at 16,000.

DRAIN_STEP_COMPLETE and DRAIN_STEP_TIMEOUT (R521): the answer of the step that a draining zone is in begins the next step, or after step
7 leaves the zone dry; step 1 is over only once its cores are free; past its limit step 1 ends by force, and any other step is a fault
that gates the zone and leaves it draining; answers and limits of other steps do nothing. -/
def Obligations.Coolant : Prop :=
  (∀ (s : State),
    let z := s.ev.w.toNat % 128
    let x := zoneOf s z
    let n := s.ev.n
    let y := zoneOf s n
    let q := sluiceZone s.ev.id
    let c := zoneOf s q
    let v := s.ev.w.toNat / 2 ^ 48
    let m := s.ev.w.toNat / 2 ^ 32 % 65536
    (s.ev.flag = false → ∃ t, exec .sensorSample s = .next t ∧ ∀ i < 80, (zoneOf t i).tj = (sampleOf s i).tj.toNat) ∧
    (z < 80 → x.state = 0 → 0 < x.minf → x.minf ≤ x.alloc → ∃ t, exec .zoneFill s = .next t ∧ (zoneOf t z).state = 1) ∧
    (z < 80 → x.state ≤ 3 → ∃ t, exec .zoneDrain s = .next t ∧ (zoneOf t z).state = 4) ∧
    (z < 80 → x.state = 2 ∨ x.state = 3 → x.granted = 0 → ∃ t, exec .zoneOff s = .next t ∧ (zoneOf t z).state = 0) ∧
    (z < 80 → x.state = 3 → crossings x = [] → ∃ t, exec .zoneClear s = .next t ∧ (zoneOf t z).state = 2) ∧
    (y.state = 1 → y.stepTick = s.ev.id → ∃ t, exec .fillTimeout s = .next t ∧ (zoneOf t n).dflt = true) ∧
    (y.state = 4 → y.dflt = false → s.ev.slot = y.dstep → s.ev.id = y.stepTick → 1 < y.dstep → y.dstep < 7 →
      ∃ t, exec .drainStepComplete s = .next t ∧ (zoneOf t n).dstep = y.dstep + 1) ∧
    (y.state = 4 → y.dflt = false → s.ev.slot = y.dstep → s.ev.id = y.stepTick → 1 < y.dstep →
      ∃ t, exec .drainStepTimeout s = .next t ∧ (zoneOf t n).dflt = true ∧ (zoneOf t n).power = false) ∧
    (c.granted ≤ v → c.minf ≤ v → allocOthers s q + v ≤ 16000 → ∃ t, exec .allocWrite s = .next t ∧ (zoneOf t q).alloc = v) ∧
    (m ≤ c.alloc → ∃ t, exec .minfWrite s = .next t ∧ (zoneOf t q).minf = m) ∧
    (∃ t, exec .regulatorStep s = .next t ∧ ∀ i < 64, (zoneOf s i).power = true → (zoneOf s i).volt = 450 →
      500 ≤ (zoneOf s i).vset.toNat → (zoneOf t i).volt = 455) ∧
    (∃ t, exec .railFault s = .next t ∧ t.stopped = true)) ∧
  (∀ (s : State),
    let e := s.ev
    let z := e.n
    let x := zoneOf s z
    let cc := s.ccore.toNat
    let target := 384 + 16 * (cc / 16 % 4) + cc % 16
    (e.flag = false → Runs .sensorSample s fun t => t.cores = s.cores ∧ t.mem = s.mem ∧ ∀ y < 80,
      let a := zoneOf s y
      let b := zoneOf t y
      let m := sampleOf s y
      b.tin = m.tin.toNat ∧ b.tout = m.tout.toNat ∧ b.flow = m.flow.toNat ∧ b.tj = m.tj.toNat ∧ b.press = m.press.toNat ∧
      b.leak = (a.leak || m.leak) ∧ b.alloc = a.alloc ∧ b.granted = a.granted ∧ b.minf = a.minf ∧
      (a.tflow ≤ a.alloc → a.tflow ≤ b.tflow ∧ b.tflow ≤ a.alloc ∧ b.tflow ≤ a.tflow + max 1 a.ramp) ∧
      (a.alloc ≤ a.tflow → a.alloc ≤ b.tflow ∧ b.tflow ≤ a.tflow ∧ a.tflow ≤ b.tflow + max 1 a.ramp) ∧
      (a.state = 2 → (a.tolim < m.tout.toNat ∨ a.tjlim < m.tj.toNat ∨ m.flow.toNat < a.flolo) → b.state = 3 ∧ b.clamp = 1)) ∧
    (e.flag = true → e.flag2 = false → x.tst.getLsbD e.slot = true → exec .sensorSample s = .next s) ∧
    (e.flag = true → e.flag2 = false → e.slot < 8 → x.tst.getLsbD e.slot = false → Runs .sensorSample s fun t =>
      zoneOf t z = { x with tst := x.tst ||| BitVec.ofNat 8 (2 ^ e.slot) } ∧ t.mem = s.mem ∧
      (s.ccore.getLsbD 6 = false → t.cores = s.cores) ∧
      (s.ccore.getLsbD 6 = true → (coreOf t target).pend = (coreOf s target).pend ++
        [{ cause := 50, info0 := 50, info2 := BitVec.ofNat 64 (z + e.slot * 256 + e.w.toNat % 65536 * 65536), info3 := e.w2 }])) ∧
    (e.flag = true → e.flag2 = true → e.slot = 4 → 1 ≤ x.state → x.state ≤ 3 → Runs .sensorSample s fun t =>
      (zoneOf t z).state = 0 ∧ (zoneOf t z).power = false ∧ (zoneOf t z).clamp = 0 ∧
      ∀ k ∈ zoneCores z, (coreOf s k).run = .running → (coreOf t k).run ≠ .running) ∧
    (e.flag = true → e.flag2 = true → e.slot = 5 → x.state ≤ 3 → Runs .sensorSample s fun t =>
      (zoneOf t z).state = 4 ∧ (zoneOf t z).dstep = 1 ∧ (zoneOf t z).lk = true) ∧
    Runs .regulatorStep s (fun t => t = { s with zones := t.zones } ∧ ∀ y < 80,
      let a := zoneOf s y
      let goal := min 550 (max 450 a.vset.toNat)
      (zoneOwner y ≤ 1 → a.power = true → ∃ v, zoneOf t y = { a with volt := v } ∧
        (a.volt < goal → v = min goal (a.volt + 5)) ∧ (goal ≤ a.volt → v = max goal (a.volt - 5))) ∧
      (1 < zoneOwner y ∨ a.power = false → zoneOf t y = a)) ∧
    Runs .railFault s (fun t => t.stopped = true ∧ t.host.uncorrectable = true ∧ t.host.bstat = 0xF ∧ t.mem = s.mem ∧
      (∀ c ∈ t.cores, c.2.run = .stopped) ∧ ∀ p < 144, (portOf t p).state = 3)) ∧
  (∀ (s : State),
    let z := s.ev.w.toNat % 128
    let x := zoneOf s z
    let err : State := { s with cerr := true }
    let fills := (x.state = 0 ∨ (x.state = 5 ∧ x.dstep = 8)) ∧ x.minf ≤ x.alloc ∧ 0 < x.minf
    let offs := (x.state = 2 ∨ x.state = 3) ∧ x.granted = 0
    let clears := x.state = 3 ∧ crossings x = []
    let n := s.ev.n
    let y := zoneOf s n
    let q := sluiceZone s.ev.id
    let v := s.ev.w.toNat / 2 ^ 48
    let m := s.ev.w.toNat / 2 ^ 32 % 65536
    let c := zoneOf s q
    let powered := 1 ≤ c.state ∧ c.state ≤ 3
    let refused := v < c.granted ∨ (powered ∧ v < c.minf) ∨ 16000 < allocOthers s q + v
    (79 < z → ∀ i ∈ [Instr.zoneFill, .zoneDrain, .zoneOff, .zoneClear], exec i s = .next err) ∧
    (z ≤ 79 →
      (fills → Runs .zoneFill s fun t =>
        zoneOf t z = { x with
          state := 1, outlet := true, dstep := 0, dflt := false, fromDry := decide (x.state = 5)
          leak := if x.state = 5 then false else x.leak, lk := false, runTicks := 0, stepTick := s.tick } ∧
        t.agenda = s.agenda ++ [{ due := s.tick + 3000000000, instr := .fillTimeout, ev := { Ev.none with n := z, id := s.tick } }] ∧
        t.cores = s.cores ∧ t.mem = s.mem) ∧
      (¬fills → exec .zoneFill s = .next err) ∧
      (x.state ≤ 3 → Runs .zoneDrain s fun t => (zoneOf t z).state = 4 ∧ (zoneOf t z).dstep = 1 ∧ (zoneOf t z).lk = false ∧
        (zoneOf t z).clamp = 0 ∧ (zoneOf t z).dcyc = s.gcyc.extractLsb' 0 48) ∧
      (x.state = 4 → x.dflt = true → exec .zoneDrain s = .next (beginStep s z x.dstep)) ∧
      (3 < x.state → ¬(x.state = 4 ∧ x.dflt = true) → exec .zoneDrain s = .next err) ∧
      (offs → Runs .zoneOff s fun t => (zoneOf t z).state = 0 ∧ (zoneOf t z).power = false) ∧
      (¬offs → exec .zoneOff s = .next err) ∧
      (clears → Runs .zoneClear s fun t => OnlyZone s t z fun x => { x with state := 2, clamp := 0, crossRun := 0 }) ∧
      (¬clears → exec .zoneClear s = .next err)) ∧
    (y.state = 1 → y.stepTick = s.ev.id → Runs .fillTimeout s fun t => t.cores = s.cores ∧ t.mem = s.mem ∧
      zoneOf t n = { y with dflt := true, vpos := 0, state := if y.fromDry then 5 else 0, dstep := if y.fromDry then 8 else 0 }) ∧
    (¬(y.state = 1 ∧ y.stepTick = s.ev.id) → exec .fillTimeout s = .next s) ∧
    (refused → exec .allocWrite s = .next err) ∧
    (¬refused → Runs .allocWrite s fun t => OnlyZone s t q fun x => { x with alloc := v }) ∧
    (powered → c.alloc < m → exec .minfWrite s = .next err) ∧
    (¬(powered ∧ c.alloc < m) → Runs .minfWrite s fun t => OnlyZone s t q fun x => { x with minf := m })) ∧
  (∀ (s : State),
    let e := s.ev
    let z := e.n
    let x := zoneOf s z
    let current := e.slot = x.dstep ∧ e.id = x.stepTick
    (x.state ≠ 4 ∨ x.dflt = true → exec .drainStepComplete s = .next s ∧ exec .drainStepTimeout s = .next s) ∧
    (x.state = 4 → x.dflt = false →
      (x.dstep = 1 → e.slot ≤ 1 → parked s z = false → exec .drainStepComplete s = .next s) ∧
      (x.dstep = 1 → e.slot ≤ 1 → parked s z = true → Runs .drainStepComplete s fun t =>
        (zoneOf t z).dstep = 2 ∧ (zoneOf t z).state = 4 ∧ (zoneOf t z).power = false) ∧
      (1 < x.dstep → x.dstep < 7 → current → Runs .drainStepComplete s fun t =>
        (zoneOf t z).dstep = x.dstep + 1 ∧ (zoneOf t z).state = 4 ∧ (zoneOf t z).stepTick = s.tick ∧
        (x.dstep = 3 → (zoneOf t z).vpos = 0) ∧ (x.dstep = 4 → (zoneOf t z).purge = true)) ∧
      (x.dstep = 7 → current → Runs .drainStepComplete s fun t =>
        (zoneOf t z).state = 5 ∧ (zoneOf t z).dstep = 8 ∧ (zoneOf t z).outlet = false ∧ (zoneOf t z).purge = false ∧ t.cores = s.cores) ∧
      (1 < x.dstep → ¬current → exec .drainStepComplete s = .next s) ∧
      (¬current → exec .drainStepTimeout s = .next s) ∧
      (x.dstep = 1 → current → Runs .drainStepTimeout s fun t =>
        (zoneOf t z).dstep = 2 ∧ (zoneOf t z).state = 4 ∧ (zoneOf t z).power = false ∧
        ∀ k ∈ zoneCores z, (coreOf s k).run = .running → (coreOf t k).run ≠ .running) ∧
      (x.dstep ≠ 1 → current → Runs .drainStepTimeout s fun t =>
        zoneOf t z = { x with dflt := true, power := false, vpos := if 3 ≤ x.dstep then 0 else x.vpos } ∧ t.cores = s.cores ∧ t.mem = s.mem)))

/-- PACKAGE_RESET, RSTREQ and SYSTEM_CORE_START (R71, R534 to R536, R538, R571): a reset leaves every register at its reset value but the
fuses, the package's number and the boot flash; the ROM then extends register 0, tries the image at offset 0 and then the one at
2000000h, and enters the one it accepts on the root core, or ends with bstat 14; the kernel's image starts the system cores in step 5
only where the root accepts it and every entry of its dictionary passes; the first entry that fails is reported.

GARM_WRITE, GSYNC_EDGE, HPROD_WRITE, DCONS_WRITE, BULK_ACCESS, SPDM_REQUEST, RSPLEN_WRITE and REGISTER_WRITE (R9, R537, R538, R574): an
armed edge clears gcyc once; a ring number moves only forward and within its ring; a bulk write through an invalid page is dropped and
counted, a read of one gives ones; a request is placed where none is held, else waits; a response goes out on its transport and frees
the request; a plain register takes what is written. -/
def Obligations.BringUp : Prop :=
  (∀ (s : State),
    let e := s.ev
    let a := e.w.toNat % 2 ^ 48
    let fresh (t : State) : Prop := t.cores = State.reset.cores ∧ t.dies = State.reset.dies ∧ t.mem = State.reset.mem ∧
      t.ports = State.reset.ports ∧ t.zones = State.reset.zones ∧ t.keys = State.reset.keys ∧ t.gcyc = 0 ∧ t.flash = s.flash ∧ t.pkg = s.pkg ∧
      t.secure.devid = s.secure.devid ∧ t.secure.uds = s.secure.uds ∧ t.secure.meas = [] ∧ t.secure.mlock = 0 ∧ t.host.bstat = 1
    (e.slot < 2 ∨ 5 < e.slot → Runs .packageReset s fresh) ∧
    (e.slot = 2 → Runs .packageReset s fun t => t.host.bstat = 2 ∧ t.cores = s.cores ∧ t.mem = s.mem ∧
      tblGet (0 : BitVec 384) t.secure.meas 0 = digestOf (sha384 (digestBytes (tblGet (0 : BitVec 384) s.secure.meas 0) ++
        sha384 (bytesOf s.secure.devid.toNat 16 ++ bytesOf s.secure.lc.toNat 1 ++ bytesOf s.secure.thermo.toNat 8 ++ List.replicate 7 0)))) ∧
    (e.slot = 3 → firstOk s e.n = true → Runs .packageReset s fun t => t.host.bstat = 3 ∧ t.cores = s.cores ∧
      ∃ due, t.agenda = s.agenda ++ [{ due := due, instr := .packageReset, ev := { Ev.none with slot := 4, n := e.n } }]) ∧
    (e.slot = 3 → firstOk s e.n = false → e.n = 0 → Runs .packageReset s fun t => t.host.bstat = 3 ∧
      ∃ due, t.agenda = s.agenda ++ [{ due := due, instr := .packageReset, ev := { Ev.none with slot := 3, n := 0x2000000 } }]) ∧
    (e.slot = 3 → firstOk s e.n = false → e.n ≠ 0 → Runs .packageReset s fun t => t = { s with host := { s.host with bstat := 0xE } }) ∧
    (e.slot = 4 → Runs .packageReset s fun t => t.host.bstat = 4 ∧ t.secure.mlock = 3 ∧ t.cores = s.cores ∧ t.mem = s.mem ∧
      ∃ due, t.agenda = s.agenda ++ [{ due := due, instr := .packageReset, ev := { Ev.none with slot := 5, n := e.n } }]) ∧
    (e.slot = 5 → Runs .packageReset s fun t => t.host.bstat = 5 ∧ t.secure = s.secure ∧ (coreOf t 448).run = .running ∧
      (coreOf t 448).arch.pri.next = memRead s.flash (e.n + 0x18) 4 ∧ (coreOf t 448).ktvb = romVectors ∧
      (∀ k, k ≠ 448 → coreOf t k = coreOf s k) ∧ t.mem = s.mem) ∧
    (e.w.getLsbD 0 = false → exec .rstreq s = .next s) ∧
    (e.w.getLsbD 0 = true → Runs .rstreq s fresh) ∧
    (s.host.bstat ≠ 5 ∨ imageOk s.secure s.mem a 2 1 = false → exec .systemCoreStart s = .next s) ∧
    (s.host.bstat = 5 → imageOk s.secure s.mem a 2 1 = true → bodyOk 384 s.mem a = false →
      exec .systemCoreStart s = .next (putReport s 0 (bodyReport s.mem a))) ∧
    (s.host.bstat = 5 → imageOk s.secure s.mem a 2 1 = true → bodyOk 384 s.mem a = true → Runs .systemCoreStart s fun t =>
      t.host.bstat = 6 ∧ t.mem = s.mem ∧
      (∀ i < 64, (coreOf t (384 + i)).run = .running ∧ (coreOf t (384 + i)).mode = true ∧ (coreOf t (384 + i)).arch.pri.next = memRead s.mem (a + 0x18) 4) ∧
      ∀ k, k < 384 ∨ 448 ≤ k → coreOf t k = coreOf s k)) ∧
  (∀ (s : State) (b : Block) (o : Nat),
    let e := s.ev
    let h := s.host
    let v := e.w.toNat
    let host (h : HostPort) : State := { s with host := h }
    let bs := e.bytes.take 8191
    let n := v % 8192
    exec .garmWrite s = .next (host { h with garm := true }) ∧
    (h.garm = false → exec .gsyncEdge s = .next s) ∧
    (h.garm = true → exec .gsyncEdge s = .next { s with gcyc := 0, host := { h with garm := false } }) ∧
    (h.hprod.toNat ≤ v → v ≤ h.hcons.toNat + 256 → exec .hprodWrite s = .next (host { h with hprod := e.w })) ∧
    (v < h.hprod.toNat ∨ h.hcons.toNat + 256 < v → exec .hprodWrite s = .next s) ∧
    (h.dcons.toNat ≤ v → v ≤ h.dprod.toNat → exec .dconsWrite s = .next (host { h with dcons := e.w })) ∧
    (v < h.dcons.toNat ∨ h.dprod.toNat < v → exec .dconsWrite s = .next s) ∧
    ((bulkAt s (e.id % 2 ^ 36)).filter mapped = none →
      (e.flag = true → exec .bulkAccess s = .next (host { h with berr := h.berr + 1 })) ∧
      (e.flag = false → exec .bulkAccess s = .next (host { h with readOut := List.replicate e.n 0xFF }))) ∧
    (∀ a, (bulkAt s (e.id % 2 ^ 36)).filter mapped = some a → blockAt a = none →
      let u := flushPhys s (a / 2 ^ 40) a (if e.flag then e.bytes.length else e.n)
      (e.flag = true → Runs .bulkAccess s fun t => t.cores = s.cores ∧ t.mem = memWrite u.mem a e.bytes) ∧
      (e.flag = false → Runs .bulkAccess s fun t => t.cores = s.cores ∧ t.mem = u.mem ∧ t.host.readOut = memBytes u.mem a e.n)) ∧
    (bs = [] → exec .spdmRequest s = .next s) ∧
    (bs ≠ [] → h.rqlen = 0 → exec .spdmRequest s = .next (host
      { h with rqseq := h.rqseq + 1, tp := e.flag, rqlen := bs.length, rqbuf := memWrite [] 0 bs })) ∧
    (bs ≠ [] → h.rqlen ≠ 0 → exec .spdmRequest s = .next (host { h with waiting := h.waiting ++ [(e.flag, bs)] })) ∧
    (h.rqlen = 0 → exec .rsplenWrite s = .next s) ∧
    (h.rqlen ≠ 0 → h.waiting = [] →
      (n = 0 → exec .rsplenWrite s = .next (host { h with rqlen := 0, rqbuf := [] })) ∧
      (n ≠ 0 → exec .rsplenWrite s = .next (host
        { h with rqlen := 0, rqbuf := [], sent := h.sent ++ [(h.tp, memBytes h.rspbuf 0 n)], rspseq := h.rspseq + 1 }))) ∧
    (blockAt e.id = none → exec .registerWrite s = .next s) ∧
    (blockAt e.id = some (b, o) → exec .registerWrite s = .next (writeReg s b o e.w)))

/-- The crypto engine's commands (R526 to R528, R530, R573, R575): a command while one runs is ignored; one runs until it completes with its
result: 0 with its output, 1 for a signature that does not verify, 2 for an operand that maps no memory or a length or selection that
the command does not take, 3 for a device key in lifecycle state returned. SHA_384 gives the digest of its message.

CRYPTO_COMMAND_COMPLETE, KEXT, KEXT_COMPLETE, MLOCK_WRITE, LCADV, SVNADV, LCS_WRITE and DBGEN_WRITE (R526, R530, R531, R533, R543): a
command completes with its result and counts on, an extend of a locked register with 3 and no effect; an extend gives the digest of the
register's old value and the new one; a register is only ever locked more, the lifecycle only moves forward at the next reset, a version
bit once blown stays; lcs takes a 3 with lc 1 or 2; debug opens only with no key held, register 4 extended and the lifecycle open. -/
def Obligations.Security : Prop :=
  (∀ (s : State),
    let x := s.secure
    let msg := operandOk (cSrc s) (cLen s)
    let u := operandSettle s (cSrc s) (cLen s)
    let m := operandBytes u (cSrc s) (cLen s)
    let all : List Instr := [.sha384, .ed25519Verify, .mlDsa65Verify, .signWithDeviceKey, .devicePublicKey, .extendMeasurementRegister, .randomBytes]
    let runs (i : Instr) (u : State) (res : Nat) (out : List Byte) (ext : Option Nat) : Prop := Runs i s fun t =>
      t.secure = { x with busy := true } ∧ t.mem = u.mem ∧ t.cores = s.cores ∧ ∃ due, s.tick < due ∧
        t.agenda = s.agenda ++ [{ due := due, instr := .cryptoCommandComplete, ev := { Ev.none with
          code := BitVec.ofNat 16 res, id := cDst s, bytes := out, flag := ext.isSome, n := ext.getD 0 } }]
    let verified (i : Instr) (nk ns : Nat) (f : List Byte → List Byte → List Byte → Bool) : Prop :=
      (operandOk (cPk s) nk = false ∨ operandOk (cSig s) ns = false → runs i u 2 [] none) ∧
      (operandOk (cPk s) nk = true → operandOk (cSig s) ns = true →
        let w := operandSettle (operandSettle u (cPk s) nk) (cSig s) ns
        runs i w (if f m (operandBytes w (cPk s) nk) (operandBytes w (cSig s) ns) then 0 else 1) [] none)
    (x.busy = true → ∀ i ∈ all, exec i s = .next s) ∧
    (x.busy = false →
      (msg = false → ∀ i ∈ [Instr.sha384, .ed25519Verify, .mlDsa65Verify], runs i s 2 [] none) ∧
      (msg = true →
        (operandOk (cDst s) 48 = true → runs .sha384 u 0 (sha384 m) none) ∧
        (operandOk (cDst s) 48 = false → runs .sha384 u 2 [] none) ∧
        verified .ed25519Verify 32 64 Config.ed25519Verify ∧ verified .mlDsa65Verify 1952 3309 Config.mlDsa65Verify) ∧
      (x.lc = 4 → runs .signWithDeviceKey s 3 [] none ∧ runs .devicePublicKey s 3 [] none) ∧
      (x.lc ≠ 4 → 1 < cSel s → runs .signWithDeviceKey s 2 [] none ∧ runs .devicePublicKey s 2 [] none) ∧
      (x.lc ≠ 4 → cSel s = 0 → operandOk (cDst s) 64 = true → msg = true →
        runs .signWithDeviceKey u 0 (fitBytes 64 (Config.ed25519Sign x.seedEd m)) none) ∧
      (x.lc ≠ 4 → cSel s = 0 → operandOk (cDst s) 32 = true →
        runs .devicePublicKey s 0 (fitBytes 32 (Config.ed25519Public x.seedEd)) none) ∧
      (cLen s ≠ 48 ∨ 15 < cSel s → runs .extendMeasurementRegister s 2 [] none) ∧
      (cLen s = 48 → cSel s ≤ 15 → msg = true → runs .extendMeasurementRegister u 0 m (some (cSel s))) ∧
      (cLen s = 0 ∨ 4096 < cLen s → runs .randomBytes s 2 [] none) ∧
      (0 < cLen s → cLen s ≤ 4096 → operandOk (cDst s) (cLen s) = true → cDst s ≠ dnonceAt →
        runs .randomBytes s 0 (entropyBytes s (cLen s)) none))) ∧
  (∀ (s : State),
    let e := s.ev
    let x := s.secure
    let sec (x : Secure) : State := { s with secure := x }
    let extended (x : Secure) : Tbl (BitVec 384) :=
      tblSet (0 : BitVec 384) x.meas e.n (digestOf (sha384 (digestBytes (tblGet (0 : BitVec 384) x.meas e.n) ++ e.bytes)))
    let locked := e.n < 4 ∧ x.mlock.getLsbD e.n = true
    let denied := e.n = 0 ∨ e.n = 1 ∨ e.n = 2 ∨ e.n = 4 ∨ (e.n = 3 ∧ x.mlock.getLsbD 3 = true)
    let a := e.w.toNat % 2 ^ 48 / 64 * 64
    let lc : BitVec 3 := e.w.extractLsb' 0 3
    let opens := s.keys = [] ∧ tblGet (0 : BitVec 384) x.meas 4 ≠ 0 ∧ (x.lcs = 3 ∨ x.lc = 0 ∨ x.lc = 4)
    (e.flag = true → locked → exec .cryptoCommandComplete s = .next (sec { x with busy := false, res := 3, seq := x.seq + 1 })) ∧
    (e.flag = true → ¬locked → exec .cryptoCommandComplete s =
      .next (sec { x with busy := false, res := BitVec.ofNat 3 e.code.toNat, seq := x.seq + 1, meas := extended x })) ∧
    (e.flag = false → e.code ≠ 0 ∨ e.bytes = [] → exec .cryptoCommandComplete s =
      .next (sec { x with busy := false, res := BitVec.ofNat 3 e.code.toNat, seq := x.seq + 1 })) ∧
    (e.flag = false → e.code = 0 → e.bytes ≠ [] → e.id ≠ dnonceAt → blockAt e.id = none → Runs .cryptoCommandComplete s fun t =>
      t.mem = memWrite (flushPhys s (e.id / 2 ^ 40) e.id e.bytes.length).mem e.id e.bytes ∧ t.cores = s.cores ∧
      t.secure = { x with busy := false, res := 0, seq := x.seq + 1 }) ∧
    (x.kbusy = true → exec .kext s = .next s) ∧
    (x.kbusy = false → operandOk a 48 = true → Runs .kext s fun t => ∃ due, t.secure = { x with kbusy := true } ∧ t.cores = s.cores ∧
      t.agenda = s.agenda ++ [{ due := due, instr := .kextComplete, ev := { Ev.none with
        n := e.w.toNat % 16, flag := true, bytes := operandBytes (operandSettle s a 48) a 48 } }]) ∧
    (denied → exec .kextComplete s = .next (sec { x with kbusy := false, kres := 3, kcnt := x.kcnt + 1 })) ∧
    (¬denied → e.flag = false → exec .kextComplete s = .next (sec { x with kbusy := false, kres := 2, kcnt := x.kcnt + 1 })) ∧
    (¬denied → e.flag = true → exec .kextComplete s =
      .next (sec { x with kbusy := false, kres := 0, kcnt := x.kcnt + 1, meas := extended x })) ∧
    exec .mlockWrite s = .next (sec { x with mlock := x.mlock ||| e.w.extractLsb' 0 4 }) ∧
    (x.lc.toNat < lc.toNat → exec .lcadv s = .next (sec { x with lcNext := lc })) ∧
    (lc.toNat ≤ x.lc.toNat → exec .lcadv s = .next s) ∧
    exec .svnadv s = .next (sec { x with thermo := x.thermo ||| e.w }) ∧
    (lc = 3 → x.lc = 1 ∨ x.lc = 2 → exec .lcsWrite s = .next (sec { x with lcs := 3 })) ∧
    (¬(lc = 3 ∧ (x.lc = 1 ∨ x.lc = 2)) → exec .lcsWrite s = .next s) ∧
    (e.w.getLsbD 0 = true → opens → exec .dbgenWrite s = .next (sec { x with dbgen := true })) ∧
    (e.w.getLsbD 0 = true → ¬opens → exec .dbgenWrite s = .next s) ∧
    (e.w.getLsbD 0 = false → exec .dbgenWrite s = .next (sec { x with dbgen := false })))

/-! ## The machine as a whole -/

/-- What package reset leaves: gcyc 0, no core running, every seed register 1 (R55), every port register 0 (R469), logical port L bound to
physical port L (R442), the end-to-end timer 96,000, every zone off with its limits FFFFh and its voltage target, where it has one, 500
(R512), every measurement register 0 (R529), no key slot valid, and memories in their canonical form. -/
def Obligations.ResetState : Prop :=
  let s := State.reset
  s.gcyc = 0 ∧ s.work = [] ∧ s.keys = [] ∧ MemoriesWf s ∧ s.eto = 96000 ∧
  (∀ k j, (coreOf s k).run = .free ∧ tblGet (1 : Word) (coreOf s k).arch.seeds j = 1) ∧
  (∀ lvl p o, readReg s lvl (.port p) o = 0) ∧
  (∀ lvl l, readReg s lvl .portMap (8 * l) = l) ∧
  (∀ lvl o, readReg s lvl .meas o = 0) ∧
  ∀ lvl z, readReg s lvl .sluice (64 * z) = zoneOwner z * 2 ^ 59 ∧ readReg s lvl .sluice (64 * z + 8) = 0 ∧
    readReg s lvl .sluice (64 * z + 16) = 2 ^ 64 - 1 ∧ readReg s lvl .sluice (64 * z + 24) = 0 ∧
    readReg s lvl .sluice (64 * z + 48) = 0 ∧ readReg s lvl .sluice (64 * z + 56) = if zoneOwner z < 2 then 500 else 0

/-- Words that the manual's own examples write out (the bundle encoded in its chapter 2, and the programs of its chapters 17 to 20) decode
to the instructions that they stand for; an XTRN, an MCALLW and an FRDV are put together from R82 and R87. The all-zero field and a
reserved opcode decode to nothing. -/
def Obligations.DecodedWords : Prop :=
  let o (vd va vb : BitVec 9) (mb : BitVec 3) (g : Option Guard) : VOp := { vd := vd, va := va, vb := vb, ma := 0, mb := mb, g := g }
  decodeField (.sa 0x0618600001) = some (.addi 3 3 1) ∧
  decodeField (.sa 0x2E70000003) = some (.movi 14 3) ∧
  decodeField (.sa 0x1041068000) = some (.and 8 8 13) ∧
  decodeField (.sa 0x1A18607801) = some (.shr 3 3 (.imm 60)) ∧
  decodeField (.sa 0x5048100000) = some (.mfc 9 2) ∧
  decodeField (.v 0x08040281801102) = some (.vfma .fp32 .rne (o 4 5 6 0 (some { gp := 2, gn := false, gz := false }))) ∧
  decodeField (.v 0x0D048241410000) = some (.vmax .fp32 (o 260 260 261 1 none)) ∧
  decodeField (.v 0x43031080008780) = some (.vbcast .i32 (o 259 33 0 0 (some { gp := 16, gn := true, gz := true }))) ∧
  decodeField (.v 0x36010140808303) = some (.vcas .fp32 3 (o 1 2 258 0 (some { gp := 16, gn := false, gz := true }))) ∧
  decodeField (.v 0x90020080800000) = some (.vld (o 2 1 2 0 none)) ∧
  decodeField (.xf 0x184180) = some (.xtrn 2 3) ∧
  decodeField (.mem 0x02080A280000) =
    some (.ldt false false { td := 1, hh := 0, sx := 10, sy := 10, gg := 0, tr := false, cst := 0 }) ∧
  decodeField (.mem 0x061072288000) = some (.stt { td := 2, hh := 1, sx := 50, sy := 10, gg := 1, tr := false, cst := 0 }) ∧
  decodeField (.mem 0x080811280000) = some (.chkpT 1 17 10) ∧
  decodeField (.mem 0x10808A441000) = some (.amo .add true false 2 10 17 1 0) ∧
  decodeField (.mem 0x20F000000000) = some (.xcopy 30) ∧
  decodeField (.mem 0x300034880000) = some (.qput 52 34 0) ∧
  decodeField (.mx 0x10080000) = some (.mcallw 2) ∧
  decodeField (.fab 0x51001400) = some (.frdv 4 5) ∧
  decodeField (.ctl 0x1C00800006) = some (.loopi 32 6) ∧
  decodeField (.ctl 0x20E1000000) = some (.lbrk .ne 14) ∧
  decodeField (.ctl 0x3C00000001) = some (.trap 1) ∧
  decodeField (.ctl 0x8000000000) = some .kret ∧
  decodeField (.micro 0x0C005000000003F80000000000000000) = some (.mma { ix := true, mpx := 0 } 0 10 0 0 0 127 false) ∧
  decodeField (.micro 0x3C800001000000000000000000000000) = some (.macc { ix := true, mpx := 1 } 1 0 0 0) ∧
  decodeField (.micro 0x2802C80001800C01B000000000000000) =
    some (.mdrain { ix := false, mpx := 0 } 1 25 0 .rne true 1 true 27) ∧
  decodeField (.sa 0) = none ∧ decodeField (.sa 0x3C00000000) = none ∧ decodeField (.ctl 0x4400000000) = none

/-- Decode and encode agree: decoding the encoding of a well-formed instruction of any slot, or of a micro-instruction, gives that
instruction with all its operands; and what is not well-formed is not decoded. -/
def Obligations.RoundTrip : Prop :=
  (∀ (i : Instr) (f : Field), i.WellFormed → encode i = some f → decodeField f = some i) ∧
  ∀ (i : Instr) (f : Field), decodeField f = some i → i.WellFormed

/-- A step runs what stands first in the cycle's work: a slot runs the instruction that its field of its next bundle decodes to, the
sequencer the micro-operation at its micro-address, an event its own arm with its arguments; with no work left, the first event that is
due. A slot whose instruction has issued, a KRET apart, then notes it and, at CTL, goes on past the bundle where nothing else was
chosen. -/
def Obligations.StepRuns : Prop :=
  (∀ (s : State) (k j : Nat) (d : Disp) (i : Instr) (r : List Work),
    let c := coreOf s k
    let u := actAt { s with work := r } k j (nextIdx c j) d
    s.work = .issue k j :: r → c.run = .running → c.queue[nextIdx c j]? = some d → skips c d j = false → c.issueFrom ≤ s.tick →
    slotOn d.bits j = true → decodeField (slotField d.bits j) = some i →
    (∀ t, exec i u = .next t → hasIssued t = false ∨ i = .kret → step s = .next t) ∧
    (∀ t, exec i u = .next t → hasIssued t = true → i ≠ .kret → step s = .next (afterIssue u t (some i)))) ∧
  (∀ (s : State) (k : Nat) (i : Instr) (r : List Work),
    let q := (coreOf s k).arch.seq
    s.work = .micro k :: r → q.upc ≤ 511 → decodeMicro (tblGet (0 : MicroWord) (coreOf s k).ustore q.upc) = some i →
    step s = exec i { s with work := r, cur := { Ctx.none with core := k, sec := q.bySec, slot := 6 } }) ∧
  (∀ (s : State) (e : Event) (r : List Work), s.work = .event e :: r →
    step s = exec e.instr { s with work := r, ev := e.ev, cur := { Ctx.none with core := e.ev.core } }) ∧
  ∀ (s : State) (e : Event) (r : List Event), s.work = [] → takeDue s.tick s.agenda = some (e, r) →
    step s = exec e.instr { s with agenda := r, ev := e.ev, cur := { Ctx.none with core := e.ev.core } }

/-- Nothing is refused and nothing stops the machine: every arm answers a next state in every state, and so does every step; a slot that
issues a field of no assigned encoding asks for an illegal-instruction trap (R72, R74).

The memory key slots (R339): no instruction and no event changes them but KEYZ, which only level 3 executes, and the package reset; so
the level below never removes a key. KEYW's own write comes two cycles after it issues, with the cycle's other samples. -/
def Obligations.StepsAnswer : Prop :=
  ((∀ (i : Instr) (s : State), ∃ t, exec i s = .next t) ∧
  (∀ s : State, ∃ t, step s = .next t) ∧
  ∀ (s : State) (k j : Nat) (d : Disp) (r : List Work),
    let c := coreOf s k
    s.work = .issue k j :: r → c.run = .running → c.queue[nextIdx c j]? = some d → skips c d j = false → c.issueFrom ≤ s.tick →
    slotOn d.bits j = true → decodeField (slotField d.bits j) = none →
    step s = .next (precise (actAt { s with work := r } k j (nextIdx c j) d) 3 0 0)) ∧
  (∀ (i : Instr) (s t : State), exec i s = .next t → t.keys = s.keys ∨
    (∃ all sx, i = .keyz all sx ∧ 3 ≤ levelOf s.cur.core (cc s)) ∨ (i = .packageReset ∨ i = .rstreq) ∧ t.keys = [])

/-- Every step keeps the memories in their canonical form: addresses strictly rising and no byte listed that is 0, what an unlisted one
reads as. So two memories that read alike at every address are equal. -/
def Obligations.StepsKeepMemories : Prop :=
  (∀ s t : State, MemoriesWf s → step s = .next t → MemoriesWf t) ∧
  ∀ m n : Mem, Memory.wf m = true → Memory.wf n = true → (∀ a, memGet m a = memGet n a) → m = n
end

