-- ==== Sys2Proof/Laws/Elements.lean ====
section
/-! SUPPORT. Elements of a register: what a register built from its elements holds in each. -/

namespace Sys2Proof.Machine

theorem build_lt (w n : Nat) (f : Nat → Nat) : build w n f < 2 ^ (w * n) := by
  induction n with
  | zero => simp [build]
  | succ n ih =>
    have h1 : f n % 2 ^ w < 2 ^ w := Nat.mod_lt _ (Nat.two_pow_pos w)
    have h2 : f n % 2 ^ w * 2 ^ (w * n) ≤ (2 ^ w - 1) * 2 ^ (w * n) := Nat.mul_le_mul_right _ (by omega)
    have h3 : 2 ^ (w * n) ≤ 2 ^ w * 2 ^ (w * n) := Nat.le_mul_of_pos_left _ (Nat.two_pow_pos w)
    rw [Nat.sub_mul] at h2
    simp only [build, Nat.mul_succ, Nat.pow_add]
    rw [Nat.mul_comm (2 ^ (w * n))]
    omega

/-- Element e of a register built from n elements is the low w bits of what was given for it. -/
theorem elemAt_build (w n : Nat) (f : Nat → Nat) {e : Nat} (h : e < n) : elemAt w (build w n f) e = f e % 2 ^ w := by
  induction n with
  | zero => omega
  | succ n ih =>
    simp only [build, elemAt] at *
    by_cases he : e = n
    · subst he
      rw [Nat.add_mul_div_right _ _ (Nat.two_pow_pos _), Nat.div_eq_of_lt (build_lt w e f), Nat.zero_add, Nat.mod_mod]
    · obtain ⟨d, rfl⟩ : ∃ d, n = e + 1 + d := ⟨n - (e + 1), by omega⟩
      have hk : 2 ^ (w * (e + 1 + d)) = 2 ^ (w * d) * 2 ^ w * 2 ^ (w * e) := by
        rw [← Nat.pow_add, ← Nat.pow_add, ← Nat.mul_succ, ← Nat.mul_add]
        congr 2
        omega
      rw [hk, ← Nat.mul_assoc, ← Nat.mul_assoc, Nat.add_mul_div_right _ _ (Nat.two_pow_pos _), Nat.add_mul_mod_self_right,
        ih (by omega)]

/-- A register as a bit vector, element by element. -/
theorem elemAt_ofNat_build (w n : Nat) (f : Nat → Nat) {e : Nat} (h : e < n) (hw : w * n = 16384) :
    elemAt w (BitVec.ofNat 16384 (build w n f)).toNat e = f e % 2 ^ w := by
  have hb := build_lt w n f
  rw [hw] at hb
  rw [BitVec.toNat_ofNat, Nat.mod_eq_of_lt hb, elemAt_build w n f h]

end Sys2Proof.Machine
end

