-- ==== Sys2Proof/Laws/Tbl.lean ====
section
/-! SUPPORT. Sparse tables: a read after a write, and the canonical form that every write keeps. -/

namespace Sys2Proof.Machine

variable {α : Type}

/-! ## Reading after writing -/

theorem tblGet_tblDel_self (d : α) (t : Tbl α) (k : Nat) : tblGet d (tblDel t k) k = d := by
  induction t with
  | nil => rfl
  | cons x r ih =>
    obtain ⟨j, v⟩ := x
    by_cases h : j = k
    · simp [tblDel, h, ih]
    · simp [tblDel, h, tblGet, ih]

theorem tblGet_tblDel_ne (d : α) (t : Tbl α) {k i : Nat} (hi : i ≠ k) : tblGet d (tblDel t k) i = tblGet d t i := by
  induction t with
  | nil => rfl
  | cons x r ih =>
    obtain ⟨j, v⟩ := x
    by_cases h : j = k
    · subst h
      simp [tblDel, tblGet, ih, Ne.symm hi]
    · by_cases hj : j = i
      · subst hj
        simp [tblDel, h, tblGet]
      · simp [tblDel, h, tblGet, hj, ih]

theorem tblGet_tblIns_self (d : α) (t : Tbl α) (k : Nat) (v : α) (h : ∀ x ∈ t, x.1 ≠ k) :
    tblGet d (tblIns t k v) k = v := by
  induction t with
  | nil => simp [tblIns, tblGet]
  | cons x r ih =>
    obtain ⟨j, w⟩ := x
    have hj : j ≠ k := h (j, w) (by simp)
    by_cases hk : k < j
    · simp [tblIns, hk, tblGet]
    · simp [tblIns, hk, tblGet, hj, ih fun y hy => h y (by simp [hy])]

theorem tblGet_tblIns_ne (d : α) (t : Tbl α) {k i : Nat} (v : α) (hi : i ≠ k) : tblGet d (tblIns t k v) i = tblGet d t i := by
  induction t with
  | nil => simp [tblIns, tblGet, Ne.symm hi]
  | cons x r ih =>
    obtain ⟨j, w⟩ := x
    by_cases hk : k < j
    · simp [tblIns, hk, tblGet, Ne.symm hi]
    · simp [tblIns, hk, tblGet, ih]

theorem tblDel_keys (t : Tbl α) (k : Nat) : ∀ x ∈ tblDel t k, x.1 ≠ k := by
  induction t with
  | nil => simp [tblDel]
  | cons y r ih =>
    obtain ⟨j, v⟩ := y
    by_cases h : j = k
    · simpa [tblDel, h] using ih
    · intro x hx
      simp only [tblDel, h, if_false, List.mem_cons] at hx
      rcases hx with rfl | hx
      · exact h
      · exact ih x hx

@[simp] theorem tblGet_tblPut_self (d : α) (t : Tbl α) (k : Nat) (v : α) : tblGet d (tblPut t k v) k = v :=
  tblGet_tblIns_self d _ k v (tblDel_keys t k)

@[simp] theorem tblGet_tblPut_ne (d : α) (t : Tbl α) {k i : Nat} (v : α) (hi : i ≠ k) :
    tblGet d (tblPut t k v) i = tblGet d t i := by
  simp [tblPut, tblGet_tblIns_ne d _ v hi, tblGet_tblDel_ne d t hi]

@[simp] theorem tblGet_tblSet_self [DecidableEq α] (d : α) (t : Tbl α) (k : Nat) (v : α) :
    tblGet d (tblSet d t k v) k = v := by
  by_cases h : v = d
  · simp [tblSet, h, tblGet_tblDel_self]
  · simp [tblSet, h]

@[simp] theorem tblGet_tblSet_ne [DecidableEq α] (d : α) (t : Tbl α) {k i : Nat} (v : α) (hi : i ≠ k) :
    tblGet d (tblSet d t k v) i = tblGet d t i := by
  by_cases h : v = d
  · simp [tblSet, h, tblGet_tblDel_ne d t hi]
  · simp [tblSet, h, hi]

theorem tblGet_tblSet [DecidableEq α] (d : α) (t : Tbl α) (k i : Nat) (v : α) :
    tblGet d (tblSet d t k v) i = if i = k then v else tblGet d t i := by
  by_cases h : i = k
  · subst h; simp
  · simp [h]

theorem tblGet_tblPut (d : α) (t : Tbl α) (k i : Nat) (v : α) :
    tblGet d (tblPut t k v) i = if i = k then v else tblGet d t i := by
  by_cases h : i = k
  · subst h; simp
  · simp [h]

/-! ## The canonical form -/

theorem tblWfFrom_weaken [DecidableEq α] {d : α} {lo : Option Nat} {t : Tbl α} (h : tblWfFrom d lo t = true) :
    tblWfFrom d none t = true := by
  cases t with
  | nil => rfl
  | cons x r =>
    obtain ⟨k, v⟩ := x
    simp only [tblWfFrom, Bool.and_eq_true] at h ⊢
    exact ⟨⟨trivial, h.1.2⟩, h.2⟩

theorem tblWfFrom_lower [DecidableEq α] {d : α} {a b : Nat} {t : Tbl α} (hab : a ≤ b) (h : tblWfFrom d (some b) t = true) :
    tblWfFrom d (some a) t = true := by
  cases t with
  | nil => rfl
  | cons x r =>
    obtain ⟨k, v⟩ := x
    simp only [tblWfFrom, Bool.and_eq_true, decide_eq_true_eq] at h ⊢
    exact ⟨⟨by omega, h.1.2⟩, h.2⟩

theorem tblDel_wfFrom [DecidableEq α] {d : α} {t : Tbl α} (k : Nat) :
    ∀ {lo : Option Nat}, tblWfFrom d lo t = true → tblWfFrom d lo (tblDel t k) = true := by
  induction t with
  | nil => intros; rfl
  | cons x r ih =>
    obtain ⟨j, v⟩ := x
    intro lo h
    simp only [tblWfFrom, Bool.and_eq_true, decide_eq_true_eq] at h
    by_cases hj : j = k
    · simp only [tblDel, hj, if_true]
      cases lo with
      | none => exact tblWfFrom_weaken (ih h.2)
      | some l =>
        have hl : l < j := by simpa using h.1.1
        exact tblWfFrom_lower (Nat.le_of_lt hl) (ih h.2)
    · simp only [tblDel, hj, if_false, tblWfFrom, Bool.and_eq_true, decide_eq_true_eq]
      exact ⟨h.1, ih h.2⟩

theorem tblIns_wfFrom [DecidableEq α] {d : α} {t : Tbl α} {k : Nat} {v : α} (hv : v ≠ d) (hk : ∀ x ∈ t, x.1 ≠ k) :
    ∀ {lo : Option Nat}, tblWfFrom d lo t = true → (∀ l ∈ lo, l < k) → tblWfFrom d lo (tblIns t k v) = true := by
  induction t with
  | nil =>
    intro lo _ hlo
    cases lo with
    | none => simp [tblIns, tblWfFrom, hv]
    | some l => simp [tblIns, tblWfFrom, hv, hlo l rfl]
  | cons x r ih =>
    obtain ⟨j, w⟩ := x
    intro lo h hlo
    have hjk : j ≠ k := hk (j, w) (by simp)
    simp only [tblWfFrom, Bool.and_eq_true, decide_eq_true_eq] at h
    by_cases hlt : k < j
    · simp only [tblIns, hlt, if_true, tblWfFrom, Bool.and_eq_true, decide_eq_true_eq]
      refine ⟨⟨?_, hv⟩, ⟨trivial, h.1.2⟩, h.2⟩
      cases lo with
      | none => rfl
      | some l => simp [hlo l rfl]
    · simp only [tblIns, hlt, if_false, tblWfFrom, Bool.and_eq_true, decide_eq_true_eq]
      exact ⟨h.1, ih (fun y hy => hk y (by simp [hy])) h.2 (by simp; omega)⟩

/-- A write keeps the canonical form. -/
theorem tblSet_wf [DecidableEq α] {d : α} {t : Tbl α} (k : Nat) (v : α) (h : tblWf d t = true) :
    tblWf d (tblSet d t k v) = true := by
  unfold tblWf at *
  by_cases hv : v = d
  · simpa [tblSet, hv] using tblDel_wfFrom k h
  · simp only [tblSet, hv, if_false, tblPut]
    exact tblIns_wfFrom hv (tblDel_keys t k) (tblDel_wfFrom k h) (by simp)

end Sys2Proof.Machine
end

