-- ==== Sys2Proof/Laws/State.lean ====
section
/-! SUPPORT. What the updates of State leave as it was: one lemma for each field and update; and reading a core, die or zone after
one was written. -/

namespace Sys2Proof.Machine

/-! ## setCore -/

@[simp] theorem setCore_tick (s : State) (k : Nat) (c : Core) : (setCore s k c).tick = s.tick := rfl
@[simp] theorem setCore_gcyc (s : State) (k : Nat) (c : Core) : (setCore s k c).gcyc = s.gcyc := rfl
@[simp] theorem setCore_pkg (s : State) (k : Nat) (c : Core) : (setCore s k c).pkg = s.pkg := rfl
@[simp] theorem setCore_cur (s : State) (k : Nat) (c : Core) : (setCore s k c).cur = s.cur := rfl
@[simp] theorem setCore_ev (s : State) (k : Nat) (c : Core) : (setCore s k c).ev = s.ev := rfl
@[simp] theorem setCore_work (s : State) (k : Nat) (c : Core) : (setCore s k c).work = s.work := rfl
@[simp] theorem setCore_agenda (s : State) (k : Nat) (c : Core) : (setCore s k c).agenda = s.agenda := rfl
@[simp] theorem setCore_dies (s : State) (k : Nat) (c : Core) : (setCore s k c).dies = s.dies := rfl
@[simp] theorem setCore_mem (s : State) (k : Nat) (c : Core) : (setCore s k c).mem = s.mem := rfl
@[simp] theorem setCore_keys (s : State) (k : Nat) (c : Core) : (setCore s k c).keys = s.keys := rfl
@[simp] theorem setCore_reqs (s : State) (k : Nat) (c : Core) : (setCore s k c).reqs = s.reqs := rfl
@[simp] theorem setCore_nextId (s : State) (k : Nat) (c : Core) : (setCore s k c).nextId = s.nextId := rfl
@[simp] theorem setCore_ports (s : State) (k : Nat) (c : Core) : (setCore s k c).ports = s.ports := rfl
@[simp] theorem setCore_lmap (s : State) (k : Nat) (c : Core) : (setCore s k c).lmap = s.lmap := rfl
@[simp] theorem setCore_lbind (s : State) (k : Nat) (c : Core) : (setCore s k c).lbind = s.lbind := rfl
@[simp] theorem setCore_readys (s : State) (k : Nat) (c : Core) : (setCore s k c).readys = s.readys := rfl
@[simp] theorem setCore_frame (s : State) (k : Nat) (c : Core) : (setCore s k c).frame = s.frame := rfl
@[simp] theorem setCore_frameOld (s : State) (k : Nat) (c : Core) : (setCore s k c).frameOld = s.frameOld := rfl
@[simp] theorem setCore_eto (s : State) (k : Nat) (c : Core) : (setCore s k c).eto = s.eto := rfl
@[simp] theorem setCore_txNext (s : State) (k : Nat) (c : Core) : (setCore s k c).txNext = s.txNext := rfl
@[simp] theorem setCore_pkts (s : State) (k : Nat) (c : Core) : (setCore s k c).pkts = s.pkts := rfl
@[simp] theorem setCore_rxs (s : State) (k : Nat) (c : Core) : (setCore s k c).rxs = s.rxs := rfl
@[simp] theorem setCore_marks (s : State) (k : Nat) (c : Core) : (setCore s k c).marks = s.marks := rfl
@[simp] theorem setCore_markRxs (s : State) (k : Nat) (c : Core) : (setCore s k c).markRxs = s.markRxs := rfl
@[simp] theorem setCore_zones (s : State) (k : Nat) (c : Core) : (setCore s k c).zones = s.zones := rfl
@[simp] theorem setCore_ccore (s : State) (k : Nat) (c : Core) : (setCore s k c).ccore = s.ccore := rfl
@[simp] theorem setCore_cerr (s : State) (k : Nat) (c : Core) : (setCore s k c).cerr = s.cerr := rfl
@[simp] theorem setCore_ctab (s : State) (k : Nat) (c : Core) : (setCore s k c).ctab = s.ctab := rfl
@[simp] theorem setCore_jcyc (s : State) (k : Nat) (c : Core) : (setCore s k c).jcyc = s.jcyc := rfl
@[simp] theorem setCore_jearm (s : State) (k : Nat) (c : Core) : (setCore s k c).jearm = s.jearm := rfl
@[simp] theorem setCore_jdone (s : State) (k : Nat) (c : Core) : (setCore s k c).jdone = s.jdone := rfl
@[simp] theorem setCore_jarmed (s : State) (k : Nat) (c : Core) : (setCore s k c).jarmed = s.jarmed := rfl
@[simp] theorem setCore_jcore (s : State) (k : Nat) (c : Core) : (setCore s k c).jcore = s.jcore := rfl
@[simp] theorem setCore_lcyc (s : State) (k : Nat) (c : Core) : (setCore s k c).lcyc = s.lcyc := rfl
@[simp] theorem setCore_psnap (s : State) (k : Nat) (c : Core) : (setCore s k c).psnap = s.psnap := rfl
@[simp] theorem setCore_secure (s : State) (k : Nat) (c : Core) : (setCore s k c).secure = s.secure := rfl
@[simp] theorem setCore_host (s : State) (k : Nat) (c : Core) : (setCore s k c).host = s.host := rfl
@[simp] theorem setCore_stopped (s : State) (k : Nat) (c : Core) : (setCore s k c).stopped = s.stopped := rfl
@[simp] theorem setCore_flash (s : State) (k : Nat) (c : Core) : (setCore s k c).flash = s.flash := rfl
@[simp] theorem setCore_token (s : State) (k : Nat) (c : Core) : (setCore s k c).token = s.token := rfl
@[simp] theorem setCore_uncorr (s : State) (k : Nat) (c : Core) : (setCore s k c).uncorr = s.uncorr := rfl
@[simp] theorem setCore_barLog (s : State) (k : Nat) (c : Core) : (setCore s k c).barLog = s.barLog := rfl

/-! ## updCore -/

@[simp] theorem updCore_tick (s : State) (k : Nat) (f : Core → Core) : (updCore s k f).tick = s.tick := rfl
@[simp] theorem updCore_gcyc (s : State) (k : Nat) (f : Core → Core) : (updCore s k f).gcyc = s.gcyc := rfl
@[simp] theorem updCore_pkg (s : State) (k : Nat) (f : Core → Core) : (updCore s k f).pkg = s.pkg := rfl
@[simp] theorem updCore_cur (s : State) (k : Nat) (f : Core → Core) : (updCore s k f).cur = s.cur := rfl
@[simp] theorem updCore_ev (s : State) (k : Nat) (f : Core → Core) : (updCore s k f).ev = s.ev := rfl
@[simp] theorem updCore_work (s : State) (k : Nat) (f : Core → Core) : (updCore s k f).work = s.work := rfl
@[simp] theorem updCore_agenda (s : State) (k : Nat) (f : Core → Core) : (updCore s k f).agenda = s.agenda := rfl
@[simp] theorem updCore_dies (s : State) (k : Nat) (f : Core → Core) : (updCore s k f).dies = s.dies := rfl
@[simp] theorem updCore_mem (s : State) (k : Nat) (f : Core → Core) : (updCore s k f).mem = s.mem := rfl
@[simp] theorem updCore_keys (s : State) (k : Nat) (f : Core → Core) : (updCore s k f).keys = s.keys := rfl
@[simp] theorem updCore_reqs (s : State) (k : Nat) (f : Core → Core) : (updCore s k f).reqs = s.reqs := rfl
@[simp] theorem updCore_nextId (s : State) (k : Nat) (f : Core → Core) : (updCore s k f).nextId = s.nextId := rfl
@[simp] theorem updCore_ports (s : State) (k : Nat) (f : Core → Core) : (updCore s k f).ports = s.ports := rfl
@[simp] theorem updCore_lmap (s : State) (k : Nat) (f : Core → Core) : (updCore s k f).lmap = s.lmap := rfl
@[simp] theorem updCore_lbind (s : State) (k : Nat) (f : Core → Core) : (updCore s k f).lbind = s.lbind := rfl
@[simp] theorem updCore_readys (s : State) (k : Nat) (f : Core → Core) : (updCore s k f).readys = s.readys := rfl
@[simp] theorem updCore_frame (s : State) (k : Nat) (f : Core → Core) : (updCore s k f).frame = s.frame := rfl
@[simp] theorem updCore_frameOld (s : State) (k : Nat) (f : Core → Core) : (updCore s k f).frameOld = s.frameOld := rfl
@[simp] theorem updCore_eto (s : State) (k : Nat) (f : Core → Core) : (updCore s k f).eto = s.eto := rfl
@[simp] theorem updCore_txNext (s : State) (k : Nat) (f : Core → Core) : (updCore s k f).txNext = s.txNext := rfl
@[simp] theorem updCore_pkts (s : State) (k : Nat) (f : Core → Core) : (updCore s k f).pkts = s.pkts := rfl
@[simp] theorem updCore_rxs (s : State) (k : Nat) (f : Core → Core) : (updCore s k f).rxs = s.rxs := rfl
@[simp] theorem updCore_marks (s : State) (k : Nat) (f : Core → Core) : (updCore s k f).marks = s.marks := rfl
@[simp] theorem updCore_markRxs (s : State) (k : Nat) (f : Core → Core) : (updCore s k f).markRxs = s.markRxs := rfl
@[simp] theorem updCore_zones (s : State) (k : Nat) (f : Core → Core) : (updCore s k f).zones = s.zones := rfl
@[simp] theorem updCore_ccore (s : State) (k : Nat) (f : Core → Core) : (updCore s k f).ccore = s.ccore := rfl
@[simp] theorem updCore_cerr (s : State) (k : Nat) (f : Core → Core) : (updCore s k f).cerr = s.cerr := rfl
@[simp] theorem updCore_ctab (s : State) (k : Nat) (f : Core → Core) : (updCore s k f).ctab = s.ctab := rfl
@[simp] theorem updCore_jcyc (s : State) (k : Nat) (f : Core → Core) : (updCore s k f).jcyc = s.jcyc := rfl
@[simp] theorem updCore_jearm (s : State) (k : Nat) (f : Core → Core) : (updCore s k f).jearm = s.jearm := rfl
@[simp] theorem updCore_jdone (s : State) (k : Nat) (f : Core → Core) : (updCore s k f).jdone = s.jdone := rfl
@[simp] theorem updCore_jarmed (s : State) (k : Nat) (f : Core → Core) : (updCore s k f).jarmed = s.jarmed := rfl
@[simp] theorem updCore_jcore (s : State) (k : Nat) (f : Core → Core) : (updCore s k f).jcore = s.jcore := rfl
@[simp] theorem updCore_lcyc (s : State) (k : Nat) (f : Core → Core) : (updCore s k f).lcyc = s.lcyc := rfl
@[simp] theorem updCore_psnap (s : State) (k : Nat) (f : Core → Core) : (updCore s k f).psnap = s.psnap := rfl
@[simp] theorem updCore_secure (s : State) (k : Nat) (f : Core → Core) : (updCore s k f).secure = s.secure := rfl
@[simp] theorem updCore_host (s : State) (k : Nat) (f : Core → Core) : (updCore s k f).host = s.host := rfl
@[simp] theorem updCore_stopped (s : State) (k : Nat) (f : Core → Core) : (updCore s k f).stopped = s.stopped := rfl
@[simp] theorem updCore_flash (s : State) (k : Nat) (f : Core → Core) : (updCore s k f).flash = s.flash := rfl
@[simp] theorem updCore_token (s : State) (k : Nat) (f : Core → Core) : (updCore s k f).token = s.token := rfl
@[simp] theorem updCore_uncorr (s : State) (k : Nat) (f : Core → Core) : (updCore s k f).uncorr = s.uncorr := rfl
@[simp] theorem updCore_barLog (s : State) (k : Nat) (f : Core → Core) : (updCore s k f).barLog = s.barLog := rfl

/-! ## updCur -/

@[simp] theorem updCur_tick (s : State) (f : Core → Core) : (updCur s f).tick = s.tick := rfl
@[simp] theorem updCur_gcyc (s : State) (f : Core → Core) : (updCur s f).gcyc = s.gcyc := rfl
@[simp] theorem updCur_pkg (s : State) (f : Core → Core) : (updCur s f).pkg = s.pkg := rfl
@[simp] theorem updCur_cur (s : State) (f : Core → Core) : (updCur s f).cur = s.cur := rfl
@[simp] theorem updCur_ev (s : State) (f : Core → Core) : (updCur s f).ev = s.ev := rfl
@[simp] theorem updCur_work (s : State) (f : Core → Core) : (updCur s f).work = s.work := rfl
@[simp] theorem updCur_agenda (s : State) (f : Core → Core) : (updCur s f).agenda = s.agenda := rfl
@[simp] theorem updCur_dies (s : State) (f : Core → Core) : (updCur s f).dies = s.dies := rfl
@[simp] theorem updCur_mem (s : State) (f : Core → Core) : (updCur s f).mem = s.mem := rfl
@[simp] theorem updCur_keys (s : State) (f : Core → Core) : (updCur s f).keys = s.keys := rfl
@[simp] theorem updCur_reqs (s : State) (f : Core → Core) : (updCur s f).reqs = s.reqs := rfl
@[simp] theorem updCur_nextId (s : State) (f : Core → Core) : (updCur s f).nextId = s.nextId := rfl
@[simp] theorem updCur_ports (s : State) (f : Core → Core) : (updCur s f).ports = s.ports := rfl
@[simp] theorem updCur_lmap (s : State) (f : Core → Core) : (updCur s f).lmap = s.lmap := rfl
@[simp] theorem updCur_lbind (s : State) (f : Core → Core) : (updCur s f).lbind = s.lbind := rfl
@[simp] theorem updCur_readys (s : State) (f : Core → Core) : (updCur s f).readys = s.readys := rfl
@[simp] theorem updCur_frame (s : State) (f : Core → Core) : (updCur s f).frame = s.frame := rfl
@[simp] theorem updCur_frameOld (s : State) (f : Core → Core) : (updCur s f).frameOld = s.frameOld := rfl
@[simp] theorem updCur_eto (s : State) (f : Core → Core) : (updCur s f).eto = s.eto := rfl
@[simp] theorem updCur_txNext (s : State) (f : Core → Core) : (updCur s f).txNext = s.txNext := rfl
@[simp] theorem updCur_pkts (s : State) (f : Core → Core) : (updCur s f).pkts = s.pkts := rfl
@[simp] theorem updCur_rxs (s : State) (f : Core → Core) : (updCur s f).rxs = s.rxs := rfl
@[simp] theorem updCur_marks (s : State) (f : Core → Core) : (updCur s f).marks = s.marks := rfl
@[simp] theorem updCur_markRxs (s : State) (f : Core → Core) : (updCur s f).markRxs = s.markRxs := rfl
@[simp] theorem updCur_zones (s : State) (f : Core → Core) : (updCur s f).zones = s.zones := rfl
@[simp] theorem updCur_ccore (s : State) (f : Core → Core) : (updCur s f).ccore = s.ccore := rfl
@[simp] theorem updCur_cerr (s : State) (f : Core → Core) : (updCur s f).cerr = s.cerr := rfl
@[simp] theorem updCur_ctab (s : State) (f : Core → Core) : (updCur s f).ctab = s.ctab := rfl
@[simp] theorem updCur_jcyc (s : State) (f : Core → Core) : (updCur s f).jcyc = s.jcyc := rfl
@[simp] theorem updCur_jearm (s : State) (f : Core → Core) : (updCur s f).jearm = s.jearm := rfl
@[simp] theorem updCur_jdone (s : State) (f : Core → Core) : (updCur s f).jdone = s.jdone := rfl
@[simp] theorem updCur_jarmed (s : State) (f : Core → Core) : (updCur s f).jarmed = s.jarmed := rfl
@[simp] theorem updCur_jcore (s : State) (f : Core → Core) : (updCur s f).jcore = s.jcore := rfl
@[simp] theorem updCur_lcyc (s : State) (f : Core → Core) : (updCur s f).lcyc = s.lcyc := rfl
@[simp] theorem updCur_psnap (s : State) (f : Core → Core) : (updCur s f).psnap = s.psnap := rfl
@[simp] theorem updCur_secure (s : State) (f : Core → Core) : (updCur s f).secure = s.secure := rfl
@[simp] theorem updCur_host (s : State) (f : Core → Core) : (updCur s f).host = s.host := rfl
@[simp] theorem updCur_stopped (s : State) (f : Core → Core) : (updCur s f).stopped = s.stopped := rfl
@[simp] theorem updCur_flash (s : State) (f : Core → Core) : (updCur s f).flash = s.flash := rfl
@[simp] theorem updCur_token (s : State) (f : Core → Core) : (updCur s f).token = s.token := rfl
@[simp] theorem updCur_uncorr (s : State) (f : Core → Core) : (updCur s f).uncorr = s.uncorr := rfl
@[simp] theorem updCur_barLog (s : State) (f : Core → Core) : (updCur s f).barLog = s.barLog := rfl

/-! ## setDie -/

@[simp] theorem setDie_tick (s : State) (d : Nat) (x : Die) : (setDie s d x).tick = s.tick := rfl
@[simp] theorem setDie_gcyc (s : State) (d : Nat) (x : Die) : (setDie s d x).gcyc = s.gcyc := rfl
@[simp] theorem setDie_pkg (s : State) (d : Nat) (x : Die) : (setDie s d x).pkg = s.pkg := rfl
@[simp] theorem setDie_cur (s : State) (d : Nat) (x : Die) : (setDie s d x).cur = s.cur := rfl
@[simp] theorem setDie_ev (s : State) (d : Nat) (x : Die) : (setDie s d x).ev = s.ev := rfl
@[simp] theorem setDie_work (s : State) (d : Nat) (x : Die) : (setDie s d x).work = s.work := rfl
@[simp] theorem setDie_agenda (s : State) (d : Nat) (x : Die) : (setDie s d x).agenda = s.agenda := rfl
@[simp] theorem setDie_cores (s : State) (d : Nat) (x : Die) : (setDie s d x).cores = s.cores := rfl
@[simp] theorem setDie_mem (s : State) (d : Nat) (x : Die) : (setDie s d x).mem = s.mem := rfl
@[simp] theorem setDie_keys (s : State) (d : Nat) (x : Die) : (setDie s d x).keys = s.keys := rfl
@[simp] theorem setDie_reqs (s : State) (d : Nat) (x : Die) : (setDie s d x).reqs = s.reqs := rfl
@[simp] theorem setDie_nextId (s : State) (d : Nat) (x : Die) : (setDie s d x).nextId = s.nextId := rfl
@[simp] theorem setDie_ports (s : State) (d : Nat) (x : Die) : (setDie s d x).ports = s.ports := rfl
@[simp] theorem setDie_lmap (s : State) (d : Nat) (x : Die) : (setDie s d x).lmap = s.lmap := rfl
@[simp] theorem setDie_lbind (s : State) (d : Nat) (x : Die) : (setDie s d x).lbind = s.lbind := rfl
@[simp] theorem setDie_readys (s : State) (d : Nat) (x : Die) : (setDie s d x).readys = s.readys := rfl
@[simp] theorem setDie_frame (s : State) (d : Nat) (x : Die) : (setDie s d x).frame = s.frame := rfl
@[simp] theorem setDie_frameOld (s : State) (d : Nat) (x : Die) : (setDie s d x).frameOld = s.frameOld := rfl
@[simp] theorem setDie_eto (s : State) (d : Nat) (x : Die) : (setDie s d x).eto = s.eto := rfl
@[simp] theorem setDie_txNext (s : State) (d : Nat) (x : Die) : (setDie s d x).txNext = s.txNext := rfl
@[simp] theorem setDie_pkts (s : State) (d : Nat) (x : Die) : (setDie s d x).pkts = s.pkts := rfl
@[simp] theorem setDie_rxs (s : State) (d : Nat) (x : Die) : (setDie s d x).rxs = s.rxs := rfl
@[simp] theorem setDie_marks (s : State) (d : Nat) (x : Die) : (setDie s d x).marks = s.marks := rfl
@[simp] theorem setDie_markRxs (s : State) (d : Nat) (x : Die) : (setDie s d x).markRxs = s.markRxs := rfl
@[simp] theorem setDie_zones (s : State) (d : Nat) (x : Die) : (setDie s d x).zones = s.zones := rfl
@[simp] theorem setDie_ccore (s : State) (d : Nat) (x : Die) : (setDie s d x).ccore = s.ccore := rfl
@[simp] theorem setDie_cerr (s : State) (d : Nat) (x : Die) : (setDie s d x).cerr = s.cerr := rfl
@[simp] theorem setDie_ctab (s : State) (d : Nat) (x : Die) : (setDie s d x).ctab = s.ctab := rfl
@[simp] theorem setDie_jcyc (s : State) (d : Nat) (x : Die) : (setDie s d x).jcyc = s.jcyc := rfl
@[simp] theorem setDie_jearm (s : State) (d : Nat) (x : Die) : (setDie s d x).jearm = s.jearm := rfl
@[simp] theorem setDie_jdone (s : State) (d : Nat) (x : Die) : (setDie s d x).jdone = s.jdone := rfl
@[simp] theorem setDie_jarmed (s : State) (d : Nat) (x : Die) : (setDie s d x).jarmed = s.jarmed := rfl
@[simp] theorem setDie_jcore (s : State) (d : Nat) (x : Die) : (setDie s d x).jcore = s.jcore := rfl
@[simp] theorem setDie_lcyc (s : State) (d : Nat) (x : Die) : (setDie s d x).lcyc = s.lcyc := rfl
@[simp] theorem setDie_psnap (s : State) (d : Nat) (x : Die) : (setDie s d x).psnap = s.psnap := rfl
@[simp] theorem setDie_secure (s : State) (d : Nat) (x : Die) : (setDie s d x).secure = s.secure := rfl
@[simp] theorem setDie_host (s : State) (d : Nat) (x : Die) : (setDie s d x).host = s.host := rfl
@[simp] theorem setDie_stopped (s : State) (d : Nat) (x : Die) : (setDie s d x).stopped = s.stopped := rfl
@[simp] theorem setDie_flash (s : State) (d : Nat) (x : Die) : (setDie s d x).flash = s.flash := rfl
@[simp] theorem setDie_token (s : State) (d : Nat) (x : Die) : (setDie s d x).token = s.token := rfl
@[simp] theorem setDie_uncorr (s : State) (d : Nat) (x : Die) : (setDie s d x).uncorr = s.uncorr := rfl
@[simp] theorem setDie_barLog (s : State) (d : Nat) (x : Die) : (setDie s d x).barLog = s.barLog := rfl

/-! ## updDie -/

@[simp] theorem updDie_tick (s : State) (d : Nat) (f : Die → Die) : (updDie s d f).tick = s.tick := rfl
@[simp] theorem updDie_gcyc (s : State) (d : Nat) (f : Die → Die) : (updDie s d f).gcyc = s.gcyc := rfl
@[simp] theorem updDie_pkg (s : State) (d : Nat) (f : Die → Die) : (updDie s d f).pkg = s.pkg := rfl
@[simp] theorem updDie_cur (s : State) (d : Nat) (f : Die → Die) : (updDie s d f).cur = s.cur := rfl
@[simp] theorem updDie_ev (s : State) (d : Nat) (f : Die → Die) : (updDie s d f).ev = s.ev := rfl
@[simp] theorem updDie_work (s : State) (d : Nat) (f : Die → Die) : (updDie s d f).work = s.work := rfl
@[simp] theorem updDie_agenda (s : State) (d : Nat) (f : Die → Die) : (updDie s d f).agenda = s.agenda := rfl
@[simp] theorem updDie_cores (s : State) (d : Nat) (f : Die → Die) : (updDie s d f).cores = s.cores := rfl
@[simp] theorem updDie_mem (s : State) (d : Nat) (f : Die → Die) : (updDie s d f).mem = s.mem := rfl
@[simp] theorem updDie_keys (s : State) (d : Nat) (f : Die → Die) : (updDie s d f).keys = s.keys := rfl
@[simp] theorem updDie_reqs (s : State) (d : Nat) (f : Die → Die) : (updDie s d f).reqs = s.reqs := rfl
@[simp] theorem updDie_nextId (s : State) (d : Nat) (f : Die → Die) : (updDie s d f).nextId = s.nextId := rfl
@[simp] theorem updDie_ports (s : State) (d : Nat) (f : Die → Die) : (updDie s d f).ports = s.ports := rfl
@[simp] theorem updDie_lmap (s : State) (d : Nat) (f : Die → Die) : (updDie s d f).lmap = s.lmap := rfl
@[simp] theorem updDie_lbind (s : State) (d : Nat) (f : Die → Die) : (updDie s d f).lbind = s.lbind := rfl
@[simp] theorem updDie_readys (s : State) (d : Nat) (f : Die → Die) : (updDie s d f).readys = s.readys := rfl
@[simp] theorem updDie_frame (s : State) (d : Nat) (f : Die → Die) : (updDie s d f).frame = s.frame := rfl
@[simp] theorem updDie_frameOld (s : State) (d : Nat) (f : Die → Die) : (updDie s d f).frameOld = s.frameOld := rfl
@[simp] theorem updDie_eto (s : State) (d : Nat) (f : Die → Die) : (updDie s d f).eto = s.eto := rfl
@[simp] theorem updDie_txNext (s : State) (d : Nat) (f : Die → Die) : (updDie s d f).txNext = s.txNext := rfl
@[simp] theorem updDie_pkts (s : State) (d : Nat) (f : Die → Die) : (updDie s d f).pkts = s.pkts := rfl
@[simp] theorem updDie_rxs (s : State) (d : Nat) (f : Die → Die) : (updDie s d f).rxs = s.rxs := rfl
@[simp] theorem updDie_marks (s : State) (d : Nat) (f : Die → Die) : (updDie s d f).marks = s.marks := rfl
@[simp] theorem updDie_markRxs (s : State) (d : Nat) (f : Die → Die) : (updDie s d f).markRxs = s.markRxs := rfl
@[simp] theorem updDie_zones (s : State) (d : Nat) (f : Die → Die) : (updDie s d f).zones = s.zones := rfl
@[simp] theorem updDie_ccore (s : State) (d : Nat) (f : Die → Die) : (updDie s d f).ccore = s.ccore := rfl
@[simp] theorem updDie_cerr (s : State) (d : Nat) (f : Die → Die) : (updDie s d f).cerr = s.cerr := rfl
@[simp] theorem updDie_ctab (s : State) (d : Nat) (f : Die → Die) : (updDie s d f).ctab = s.ctab := rfl
@[simp] theorem updDie_jcyc (s : State) (d : Nat) (f : Die → Die) : (updDie s d f).jcyc = s.jcyc := rfl
@[simp] theorem updDie_jearm (s : State) (d : Nat) (f : Die → Die) : (updDie s d f).jearm = s.jearm := rfl
@[simp] theorem updDie_jdone (s : State) (d : Nat) (f : Die → Die) : (updDie s d f).jdone = s.jdone := rfl
@[simp] theorem updDie_jarmed (s : State) (d : Nat) (f : Die → Die) : (updDie s d f).jarmed = s.jarmed := rfl
@[simp] theorem updDie_jcore (s : State) (d : Nat) (f : Die → Die) : (updDie s d f).jcore = s.jcore := rfl
@[simp] theorem updDie_lcyc (s : State) (d : Nat) (f : Die → Die) : (updDie s d f).lcyc = s.lcyc := rfl
@[simp] theorem updDie_psnap (s : State) (d : Nat) (f : Die → Die) : (updDie s d f).psnap = s.psnap := rfl
@[simp] theorem updDie_secure (s : State) (d : Nat) (f : Die → Die) : (updDie s d f).secure = s.secure := rfl
@[simp] theorem updDie_host (s : State) (d : Nat) (f : Die → Die) : (updDie s d f).host = s.host := rfl
@[simp] theorem updDie_stopped (s : State) (d : Nat) (f : Die → Die) : (updDie s d f).stopped = s.stopped := rfl
@[simp] theorem updDie_flash (s : State) (d : Nat) (f : Die → Die) : (updDie s d f).flash = s.flash := rfl
@[simp] theorem updDie_token (s : State) (d : Nat) (f : Die → Die) : (updDie s d f).token = s.token := rfl
@[simp] theorem updDie_uncorr (s : State) (d : Nat) (f : Die → Die) : (updDie s d f).uncorr = s.uncorr := rfl
@[simp] theorem updDie_barLog (s : State) (d : Nat) (f : Die → Die) : (updDie s d f).barLog = s.barLog := rfl

/-! ## updZone -/

@[simp] theorem updZone_tick (s : State) (z : Nat) (f : Zone → Zone) : (updZone s z f).tick = s.tick := rfl
@[simp] theorem updZone_gcyc (s : State) (z : Nat) (f : Zone → Zone) : (updZone s z f).gcyc = s.gcyc := rfl
@[simp] theorem updZone_pkg (s : State) (z : Nat) (f : Zone → Zone) : (updZone s z f).pkg = s.pkg := rfl
@[simp] theorem updZone_cur (s : State) (z : Nat) (f : Zone → Zone) : (updZone s z f).cur = s.cur := rfl
@[simp] theorem updZone_ev (s : State) (z : Nat) (f : Zone → Zone) : (updZone s z f).ev = s.ev := rfl
@[simp] theorem updZone_work (s : State) (z : Nat) (f : Zone → Zone) : (updZone s z f).work = s.work := rfl
@[simp] theorem updZone_agenda (s : State) (z : Nat) (f : Zone → Zone) : (updZone s z f).agenda = s.agenda := rfl
@[simp] theorem updZone_cores (s : State) (z : Nat) (f : Zone → Zone) : (updZone s z f).cores = s.cores := rfl
@[simp] theorem updZone_dies (s : State) (z : Nat) (f : Zone → Zone) : (updZone s z f).dies = s.dies := rfl
@[simp] theorem updZone_mem (s : State) (z : Nat) (f : Zone → Zone) : (updZone s z f).mem = s.mem := rfl
@[simp] theorem updZone_keys (s : State) (z : Nat) (f : Zone → Zone) : (updZone s z f).keys = s.keys := rfl
@[simp] theorem updZone_reqs (s : State) (z : Nat) (f : Zone → Zone) : (updZone s z f).reqs = s.reqs := rfl
@[simp] theorem updZone_nextId (s : State) (z : Nat) (f : Zone → Zone) : (updZone s z f).nextId = s.nextId := rfl
@[simp] theorem updZone_ports (s : State) (z : Nat) (f : Zone → Zone) : (updZone s z f).ports = s.ports := rfl
@[simp] theorem updZone_lmap (s : State) (z : Nat) (f : Zone → Zone) : (updZone s z f).lmap = s.lmap := rfl
@[simp] theorem updZone_lbind (s : State) (z : Nat) (f : Zone → Zone) : (updZone s z f).lbind = s.lbind := rfl
@[simp] theorem updZone_readys (s : State) (z : Nat) (f : Zone → Zone) : (updZone s z f).readys = s.readys := rfl
@[simp] theorem updZone_frame (s : State) (z : Nat) (f : Zone → Zone) : (updZone s z f).frame = s.frame := rfl
@[simp] theorem updZone_frameOld (s : State) (z : Nat) (f : Zone → Zone) : (updZone s z f).frameOld = s.frameOld := rfl
@[simp] theorem updZone_eto (s : State) (z : Nat) (f : Zone → Zone) : (updZone s z f).eto = s.eto := rfl
@[simp] theorem updZone_txNext (s : State) (z : Nat) (f : Zone → Zone) : (updZone s z f).txNext = s.txNext := rfl
@[simp] theorem updZone_pkts (s : State) (z : Nat) (f : Zone → Zone) : (updZone s z f).pkts = s.pkts := rfl
@[simp] theorem updZone_rxs (s : State) (z : Nat) (f : Zone → Zone) : (updZone s z f).rxs = s.rxs := rfl
@[simp] theorem updZone_marks (s : State) (z : Nat) (f : Zone → Zone) : (updZone s z f).marks = s.marks := rfl
@[simp] theorem updZone_markRxs (s : State) (z : Nat) (f : Zone → Zone) : (updZone s z f).markRxs = s.markRxs := rfl
@[simp] theorem updZone_ccore (s : State) (z : Nat) (f : Zone → Zone) : (updZone s z f).ccore = s.ccore := rfl
@[simp] theorem updZone_cerr (s : State) (z : Nat) (f : Zone → Zone) : (updZone s z f).cerr = s.cerr := rfl
@[simp] theorem updZone_ctab (s : State) (z : Nat) (f : Zone → Zone) : (updZone s z f).ctab = s.ctab := rfl
@[simp] theorem updZone_jcyc (s : State) (z : Nat) (f : Zone → Zone) : (updZone s z f).jcyc = s.jcyc := rfl
@[simp] theorem updZone_jearm (s : State) (z : Nat) (f : Zone → Zone) : (updZone s z f).jearm = s.jearm := rfl
@[simp] theorem updZone_jdone (s : State) (z : Nat) (f : Zone → Zone) : (updZone s z f).jdone = s.jdone := rfl
@[simp] theorem updZone_jarmed (s : State) (z : Nat) (f : Zone → Zone) : (updZone s z f).jarmed = s.jarmed := rfl
@[simp] theorem updZone_jcore (s : State) (z : Nat) (f : Zone → Zone) : (updZone s z f).jcore = s.jcore := rfl
@[simp] theorem updZone_lcyc (s : State) (z : Nat) (f : Zone → Zone) : (updZone s z f).lcyc = s.lcyc := rfl
@[simp] theorem updZone_psnap (s : State) (z : Nat) (f : Zone → Zone) : (updZone s z f).psnap = s.psnap := rfl
@[simp] theorem updZone_secure (s : State) (z : Nat) (f : Zone → Zone) : (updZone s z f).secure = s.secure := rfl
@[simp] theorem updZone_host (s : State) (z : Nat) (f : Zone → Zone) : (updZone s z f).host = s.host := rfl
@[simp] theorem updZone_stopped (s : State) (z : Nat) (f : Zone → Zone) : (updZone s z f).stopped = s.stopped := rfl
@[simp] theorem updZone_flash (s : State) (z : Nat) (f : Zone → Zone) : (updZone s z f).flash = s.flash := rfl
@[simp] theorem updZone_token (s : State) (z : Nat) (f : Zone → Zone) : (updZone s z f).token = s.token := rfl
@[simp] theorem updZone_uncorr (s : State) (z : Nat) (f : Zone → Zone) : (updZone s z f).uncorr = s.uncorr := rfl
@[simp] theorem updZone_barLog (s : State) (z : Nat) (f : Zone → Zone) : (updZone s z f).barLog = s.barLog := rfl

/-! ## physWrite -/

@[simp] theorem physWrite_tick (s : State) (a : Nat) (bs : List Byte) : (physWrite s a bs).tick = s.tick := rfl
@[simp] theorem physWrite_gcyc (s : State) (a : Nat) (bs : List Byte) : (physWrite s a bs).gcyc = s.gcyc := rfl
@[simp] theorem physWrite_pkg (s : State) (a : Nat) (bs : List Byte) : (physWrite s a bs).pkg = s.pkg := rfl
@[simp] theorem physWrite_cur (s : State) (a : Nat) (bs : List Byte) : (physWrite s a bs).cur = s.cur := rfl
@[simp] theorem physWrite_ev (s : State) (a : Nat) (bs : List Byte) : (physWrite s a bs).ev = s.ev := rfl
@[simp] theorem physWrite_work (s : State) (a : Nat) (bs : List Byte) : (physWrite s a bs).work = s.work := rfl
@[simp] theorem physWrite_agenda (s : State) (a : Nat) (bs : List Byte) : (physWrite s a bs).agenda = s.agenda := rfl
@[simp] theorem physWrite_cores (s : State) (a : Nat) (bs : List Byte) : (physWrite s a bs).cores = s.cores := rfl
@[simp] theorem physWrite_dies (s : State) (a : Nat) (bs : List Byte) : (physWrite s a bs).dies = s.dies := rfl
@[simp] theorem physWrite_keys (s : State) (a : Nat) (bs : List Byte) : (physWrite s a bs).keys = s.keys := rfl
@[simp] theorem physWrite_reqs (s : State) (a : Nat) (bs : List Byte) : (physWrite s a bs).reqs = s.reqs := rfl
@[simp] theorem physWrite_nextId (s : State) (a : Nat) (bs : List Byte) : (physWrite s a bs).nextId = s.nextId := rfl
@[simp] theorem physWrite_ports (s : State) (a : Nat) (bs : List Byte) : (physWrite s a bs).ports = s.ports := rfl
@[simp] theorem physWrite_lmap (s : State) (a : Nat) (bs : List Byte) : (physWrite s a bs).lmap = s.lmap := rfl
@[simp] theorem physWrite_lbind (s : State) (a : Nat) (bs : List Byte) : (physWrite s a bs).lbind = s.lbind := rfl
@[simp] theorem physWrite_readys (s : State) (a : Nat) (bs : List Byte) : (physWrite s a bs).readys = s.readys := rfl
@[simp] theorem physWrite_frame (s : State) (a : Nat) (bs : List Byte) : (physWrite s a bs).frame = s.frame := rfl
@[simp] theorem physWrite_frameOld (s : State) (a : Nat) (bs : List Byte) : (physWrite s a bs).frameOld = s.frameOld := rfl
@[simp] theorem physWrite_eto (s : State) (a : Nat) (bs : List Byte) : (physWrite s a bs).eto = s.eto := rfl
@[simp] theorem physWrite_txNext (s : State) (a : Nat) (bs : List Byte) : (physWrite s a bs).txNext = s.txNext := rfl
@[simp] theorem physWrite_pkts (s : State) (a : Nat) (bs : List Byte) : (physWrite s a bs).pkts = s.pkts := rfl
@[simp] theorem physWrite_rxs (s : State) (a : Nat) (bs : List Byte) : (physWrite s a bs).rxs = s.rxs := rfl
@[simp] theorem physWrite_marks (s : State) (a : Nat) (bs : List Byte) : (physWrite s a bs).marks = s.marks := rfl
@[simp] theorem physWrite_markRxs (s : State) (a : Nat) (bs : List Byte) : (physWrite s a bs).markRxs = s.markRxs := rfl
@[simp] theorem physWrite_zones (s : State) (a : Nat) (bs : List Byte) : (physWrite s a bs).zones = s.zones := rfl
@[simp] theorem physWrite_ccore (s : State) (a : Nat) (bs : List Byte) : (physWrite s a bs).ccore = s.ccore := rfl
@[simp] theorem physWrite_cerr (s : State) (a : Nat) (bs : List Byte) : (physWrite s a bs).cerr = s.cerr := rfl
@[simp] theorem physWrite_ctab (s : State) (a : Nat) (bs : List Byte) : (physWrite s a bs).ctab = s.ctab := rfl
@[simp] theorem physWrite_jcyc (s : State) (a : Nat) (bs : List Byte) : (physWrite s a bs).jcyc = s.jcyc := rfl
@[simp] theorem physWrite_jearm (s : State) (a : Nat) (bs : List Byte) : (physWrite s a bs).jearm = s.jearm := rfl
@[simp] theorem physWrite_jdone (s : State) (a : Nat) (bs : List Byte) : (physWrite s a bs).jdone = s.jdone := rfl
@[simp] theorem physWrite_jarmed (s : State) (a : Nat) (bs : List Byte) : (physWrite s a bs).jarmed = s.jarmed := rfl
@[simp] theorem physWrite_jcore (s : State) (a : Nat) (bs : List Byte) : (physWrite s a bs).jcore = s.jcore := rfl
@[simp] theorem physWrite_lcyc (s : State) (a : Nat) (bs : List Byte) : (physWrite s a bs).lcyc = s.lcyc := rfl
@[simp] theorem physWrite_psnap (s : State) (a : Nat) (bs : List Byte) : (physWrite s a bs).psnap = s.psnap := rfl
@[simp] theorem physWrite_secure (s : State) (a : Nat) (bs : List Byte) : (physWrite s a bs).secure = s.secure := rfl
@[simp] theorem physWrite_host (s : State) (a : Nat) (bs : List Byte) : (physWrite s a bs).host = s.host := rfl
@[simp] theorem physWrite_stopped (s : State) (a : Nat) (bs : List Byte) : (physWrite s a bs).stopped = s.stopped := rfl
@[simp] theorem physWrite_flash (s : State) (a : Nat) (bs : List Byte) : (physWrite s a bs).flash = s.flash := rfl
@[simp] theorem physWrite_token (s : State) (a : Nat) (bs : List Byte) : (physWrite s a bs).token = s.token := rfl
@[simp] theorem physWrite_barLog (s : State) (a : Nat) (bs : List Byte) : (physWrite s a bs).barLog = s.barLog := rfl

/-! ## physPut -/

@[simp] theorem physPut_tick (s : State) (a : Nat) (v : Word) : (physPut s a v).tick = s.tick := rfl
@[simp] theorem physPut_gcyc (s : State) (a : Nat) (v : Word) : (physPut s a v).gcyc = s.gcyc := rfl
@[simp] theorem physPut_pkg (s : State) (a : Nat) (v : Word) : (physPut s a v).pkg = s.pkg := rfl
@[simp] theorem physPut_cur (s : State) (a : Nat) (v : Word) : (physPut s a v).cur = s.cur := rfl
@[simp] theorem physPut_ev (s : State) (a : Nat) (v : Word) : (physPut s a v).ev = s.ev := rfl
@[simp] theorem physPut_work (s : State) (a : Nat) (v : Word) : (physPut s a v).work = s.work := rfl
@[simp] theorem physPut_agenda (s : State) (a : Nat) (v : Word) : (physPut s a v).agenda = s.agenda := rfl
@[simp] theorem physPut_cores (s : State) (a : Nat) (v : Word) : (physPut s a v).cores = s.cores := rfl
@[simp] theorem physPut_dies (s : State) (a : Nat) (v : Word) : (physPut s a v).dies = s.dies := rfl
@[simp] theorem physPut_keys (s : State) (a : Nat) (v : Word) : (physPut s a v).keys = s.keys := rfl
@[simp] theorem physPut_reqs (s : State) (a : Nat) (v : Word) : (physPut s a v).reqs = s.reqs := rfl
@[simp] theorem physPut_nextId (s : State) (a : Nat) (v : Word) : (physPut s a v).nextId = s.nextId := rfl
@[simp] theorem physPut_ports (s : State) (a : Nat) (v : Word) : (physPut s a v).ports = s.ports := rfl
@[simp] theorem physPut_lmap (s : State) (a : Nat) (v : Word) : (physPut s a v).lmap = s.lmap := rfl
@[simp] theorem physPut_lbind (s : State) (a : Nat) (v : Word) : (physPut s a v).lbind = s.lbind := rfl
@[simp] theorem physPut_readys (s : State) (a : Nat) (v : Word) : (physPut s a v).readys = s.readys := rfl
@[simp] theorem physPut_frame (s : State) (a : Nat) (v : Word) : (physPut s a v).frame = s.frame := rfl
@[simp] theorem physPut_frameOld (s : State) (a : Nat) (v : Word) : (physPut s a v).frameOld = s.frameOld := rfl
@[simp] theorem physPut_eto (s : State) (a : Nat) (v : Word) : (physPut s a v).eto = s.eto := rfl
@[simp] theorem physPut_txNext (s : State) (a : Nat) (v : Word) : (physPut s a v).txNext = s.txNext := rfl
@[simp] theorem physPut_pkts (s : State) (a : Nat) (v : Word) : (physPut s a v).pkts = s.pkts := rfl
@[simp] theorem physPut_rxs (s : State) (a : Nat) (v : Word) : (physPut s a v).rxs = s.rxs := rfl
@[simp] theorem physPut_marks (s : State) (a : Nat) (v : Word) : (physPut s a v).marks = s.marks := rfl
@[simp] theorem physPut_markRxs (s : State) (a : Nat) (v : Word) : (physPut s a v).markRxs = s.markRxs := rfl
@[simp] theorem physPut_zones (s : State) (a : Nat) (v : Word) : (physPut s a v).zones = s.zones := rfl
@[simp] theorem physPut_ccore (s : State) (a : Nat) (v : Word) : (physPut s a v).ccore = s.ccore := rfl
@[simp] theorem physPut_cerr (s : State) (a : Nat) (v : Word) : (physPut s a v).cerr = s.cerr := rfl
@[simp] theorem physPut_ctab (s : State) (a : Nat) (v : Word) : (physPut s a v).ctab = s.ctab := rfl
@[simp] theorem physPut_jcyc (s : State) (a : Nat) (v : Word) : (physPut s a v).jcyc = s.jcyc := rfl
@[simp] theorem physPut_jearm (s : State) (a : Nat) (v : Word) : (physPut s a v).jearm = s.jearm := rfl
@[simp] theorem physPut_jdone (s : State) (a : Nat) (v : Word) : (physPut s a v).jdone = s.jdone := rfl
@[simp] theorem physPut_jarmed (s : State) (a : Nat) (v : Word) : (physPut s a v).jarmed = s.jarmed := rfl
@[simp] theorem physPut_jcore (s : State) (a : Nat) (v : Word) : (physPut s a v).jcore = s.jcore := rfl
@[simp] theorem physPut_lcyc (s : State) (a : Nat) (v : Word) : (physPut s a v).lcyc = s.lcyc := rfl
@[simp] theorem physPut_psnap (s : State) (a : Nat) (v : Word) : (physPut s a v).psnap = s.psnap := rfl
@[simp] theorem physPut_secure (s : State) (a : Nat) (v : Word) : (physPut s a v).secure = s.secure := rfl
@[simp] theorem physPut_host (s : State) (a : Nat) (v : Word) : (physPut s a v).host = s.host := rfl
@[simp] theorem physPut_stopped (s : State) (a : Nat) (v : Word) : (physPut s a v).stopped = s.stopped := rfl
@[simp] theorem physPut_flash (s : State) (a : Nat) (v : Word) : (physPut s a v).flash = s.flash := rfl
@[simp] theorem physPut_token (s : State) (a : Nat) (v : Word) : (physPut s a v).token = s.token := rfl
@[simp] theorem physPut_barLog (s : State) (a : Nat) (v : Word) : (physPut s a v).barLog = s.barLog := rfl

/-! ## post -/

@[simp] theorem post_tick (s : State) (due : Nat) (i : Instr) (e : Ev) : (post s due i e).tick = s.tick := rfl
@[simp] theorem post_gcyc (s : State) (due : Nat) (i : Instr) (e : Ev) : (post s due i e).gcyc = s.gcyc := rfl
@[simp] theorem post_pkg (s : State) (due : Nat) (i : Instr) (e : Ev) : (post s due i e).pkg = s.pkg := rfl
@[simp] theorem post_cur (s : State) (due : Nat) (i : Instr) (e : Ev) : (post s due i e).cur = s.cur := rfl
@[simp] theorem post_ev (s : State) (due : Nat) (i : Instr) (e : Ev) : (post s due i e).ev = s.ev := rfl
@[simp] theorem post_work (s : State) (due : Nat) (i : Instr) (e : Ev) : (post s due i e).work = s.work := rfl
@[simp] theorem post_cores (s : State) (due : Nat) (i : Instr) (e : Ev) : (post s due i e).cores = s.cores := rfl
@[simp] theorem post_dies (s : State) (due : Nat) (i : Instr) (e : Ev) : (post s due i e).dies = s.dies := rfl
@[simp] theorem post_mem (s : State) (due : Nat) (i : Instr) (e : Ev) : (post s due i e).mem = s.mem := rfl
@[simp] theorem post_keys (s : State) (due : Nat) (i : Instr) (e : Ev) : (post s due i e).keys = s.keys := rfl
@[simp] theorem post_reqs (s : State) (due : Nat) (i : Instr) (e : Ev) : (post s due i e).reqs = s.reqs := rfl
@[simp] theorem post_nextId (s : State) (due : Nat) (i : Instr) (e : Ev) : (post s due i e).nextId = s.nextId := rfl
@[simp] theorem post_ports (s : State) (due : Nat) (i : Instr) (e : Ev) : (post s due i e).ports = s.ports := rfl
@[simp] theorem post_lmap (s : State) (due : Nat) (i : Instr) (e : Ev) : (post s due i e).lmap = s.lmap := rfl
@[simp] theorem post_lbind (s : State) (due : Nat) (i : Instr) (e : Ev) : (post s due i e).lbind = s.lbind := rfl
@[simp] theorem post_readys (s : State) (due : Nat) (i : Instr) (e : Ev) : (post s due i e).readys = s.readys := rfl
@[simp] theorem post_frame (s : State) (due : Nat) (i : Instr) (e : Ev) : (post s due i e).frame = s.frame := rfl
@[simp] theorem post_frameOld (s : State) (due : Nat) (i : Instr) (e : Ev) : (post s due i e).frameOld = s.frameOld := rfl
@[simp] theorem post_eto (s : State) (due : Nat) (i : Instr) (e : Ev) : (post s due i e).eto = s.eto := rfl
@[simp] theorem post_txNext (s : State) (due : Nat) (i : Instr) (e : Ev) : (post s due i e).txNext = s.txNext := rfl
@[simp] theorem post_pkts (s : State) (due : Nat) (i : Instr) (e : Ev) : (post s due i e).pkts = s.pkts := rfl
@[simp] theorem post_rxs (s : State) (due : Nat) (i : Instr) (e : Ev) : (post s due i e).rxs = s.rxs := rfl
@[simp] theorem post_marks (s : State) (due : Nat) (i : Instr) (e : Ev) : (post s due i e).marks = s.marks := rfl
@[simp] theorem post_markRxs (s : State) (due : Nat) (i : Instr) (e : Ev) : (post s due i e).markRxs = s.markRxs := rfl
@[simp] theorem post_zones (s : State) (due : Nat) (i : Instr) (e : Ev) : (post s due i e).zones = s.zones := rfl
@[simp] theorem post_ccore (s : State) (due : Nat) (i : Instr) (e : Ev) : (post s due i e).ccore = s.ccore := rfl
@[simp] theorem post_cerr (s : State) (due : Nat) (i : Instr) (e : Ev) : (post s due i e).cerr = s.cerr := rfl
@[simp] theorem post_ctab (s : State) (due : Nat) (i : Instr) (e : Ev) : (post s due i e).ctab = s.ctab := rfl
@[simp] theorem post_jcyc (s : State) (due : Nat) (i : Instr) (e : Ev) : (post s due i e).jcyc = s.jcyc := rfl
@[simp] theorem post_jearm (s : State) (due : Nat) (i : Instr) (e : Ev) : (post s due i e).jearm = s.jearm := rfl
@[simp] theorem post_jdone (s : State) (due : Nat) (i : Instr) (e : Ev) : (post s due i e).jdone = s.jdone := rfl
@[simp] theorem post_jarmed (s : State) (due : Nat) (i : Instr) (e : Ev) : (post s due i e).jarmed = s.jarmed := rfl
@[simp] theorem post_jcore (s : State) (due : Nat) (i : Instr) (e : Ev) : (post s due i e).jcore = s.jcore := rfl
@[simp] theorem post_lcyc (s : State) (due : Nat) (i : Instr) (e : Ev) : (post s due i e).lcyc = s.lcyc := rfl
@[simp] theorem post_psnap (s : State) (due : Nat) (i : Instr) (e : Ev) : (post s due i e).psnap = s.psnap := rfl
@[simp] theorem post_secure (s : State) (due : Nat) (i : Instr) (e : Ev) : (post s due i e).secure = s.secure := rfl
@[simp] theorem post_host (s : State) (due : Nat) (i : Instr) (e : Ev) : (post s due i e).host = s.host := rfl
@[simp] theorem post_stopped (s : State) (due : Nat) (i : Instr) (e : Ev) : (post s due i e).stopped = s.stopped := rfl
@[simp] theorem post_flash (s : State) (due : Nat) (i : Instr) (e : Ev) : (post s due i e).flash = s.flash := rfl
@[simp] theorem post_token (s : State) (due : Nat) (i : Instr) (e : Ev) : (post s due i e).token = s.token := rfl
@[simp] theorem post_uncorr (s : State) (due : Nat) (i : Instr) (e : Ev) : (post s due i e).uncorr = s.uncorr := rfl
@[simp] theorem post_barLog (s : State) (due : Nat) (i : Instr) (e : Ev) : (post s due i e).barLog = s.barLog := rfl

/-! ## land -/

@[simp] theorem land_tick (s : State) (l : Nat) (w : RegWrite) : (land s l w).tick = s.tick := rfl
@[simp] theorem land_gcyc (s : State) (l : Nat) (w : RegWrite) : (land s l w).gcyc = s.gcyc := rfl
@[simp] theorem land_pkg (s : State) (l : Nat) (w : RegWrite) : (land s l w).pkg = s.pkg := rfl
@[simp] theorem land_cur (s : State) (l : Nat) (w : RegWrite) : (land s l w).cur = s.cur := rfl
@[simp] theorem land_ev (s : State) (l : Nat) (w : RegWrite) : (land s l w).ev = s.ev := rfl
@[simp] theorem land_work (s : State) (l : Nat) (w : RegWrite) : (land s l w).work = s.work := rfl
@[simp] theorem land_agenda (s : State) (l : Nat) (w : RegWrite) : (land s l w).agenda = s.agenda := rfl
@[simp] theorem land_dies (s : State) (l : Nat) (w : RegWrite) : (land s l w).dies = s.dies := rfl
@[simp] theorem land_mem (s : State) (l : Nat) (w : RegWrite) : (land s l w).mem = s.mem := rfl
@[simp] theorem land_keys (s : State) (l : Nat) (w : RegWrite) : (land s l w).keys = s.keys := rfl
@[simp] theorem land_reqs (s : State) (l : Nat) (w : RegWrite) : (land s l w).reqs = s.reqs := rfl
@[simp] theorem land_nextId (s : State) (l : Nat) (w : RegWrite) : (land s l w).nextId = s.nextId := rfl
@[simp] theorem land_ports (s : State) (l : Nat) (w : RegWrite) : (land s l w).ports = s.ports := rfl
@[simp] theorem land_lmap (s : State) (l : Nat) (w : RegWrite) : (land s l w).lmap = s.lmap := rfl
@[simp] theorem land_lbind (s : State) (l : Nat) (w : RegWrite) : (land s l w).lbind = s.lbind := rfl
@[simp] theorem land_readys (s : State) (l : Nat) (w : RegWrite) : (land s l w).readys = s.readys := rfl
@[simp] theorem land_frame (s : State) (l : Nat) (w : RegWrite) : (land s l w).frame = s.frame := rfl
@[simp] theorem land_frameOld (s : State) (l : Nat) (w : RegWrite) : (land s l w).frameOld = s.frameOld := rfl
@[simp] theorem land_eto (s : State) (l : Nat) (w : RegWrite) : (land s l w).eto = s.eto := rfl
@[simp] theorem land_txNext (s : State) (l : Nat) (w : RegWrite) : (land s l w).txNext = s.txNext := rfl
@[simp] theorem land_pkts (s : State) (l : Nat) (w : RegWrite) : (land s l w).pkts = s.pkts := rfl
@[simp] theorem land_rxs (s : State) (l : Nat) (w : RegWrite) : (land s l w).rxs = s.rxs := rfl
@[simp] theorem land_marks (s : State) (l : Nat) (w : RegWrite) : (land s l w).marks = s.marks := rfl
@[simp] theorem land_markRxs (s : State) (l : Nat) (w : RegWrite) : (land s l w).markRxs = s.markRxs := rfl
@[simp] theorem land_zones (s : State) (l : Nat) (w : RegWrite) : (land s l w).zones = s.zones := rfl
@[simp] theorem land_ccore (s : State) (l : Nat) (w : RegWrite) : (land s l w).ccore = s.ccore := rfl
@[simp] theorem land_cerr (s : State) (l : Nat) (w : RegWrite) : (land s l w).cerr = s.cerr := rfl
@[simp] theorem land_ctab (s : State) (l : Nat) (w : RegWrite) : (land s l w).ctab = s.ctab := rfl
@[simp] theorem land_jcyc (s : State) (l : Nat) (w : RegWrite) : (land s l w).jcyc = s.jcyc := rfl
@[simp] theorem land_jearm (s : State) (l : Nat) (w : RegWrite) : (land s l w).jearm = s.jearm := rfl
@[simp] theorem land_jdone (s : State) (l : Nat) (w : RegWrite) : (land s l w).jdone = s.jdone := rfl
@[simp] theorem land_jarmed (s : State) (l : Nat) (w : RegWrite) : (land s l w).jarmed = s.jarmed := rfl
@[simp] theorem land_jcore (s : State) (l : Nat) (w : RegWrite) : (land s l w).jcore = s.jcore := rfl
@[simp] theorem land_lcyc (s : State) (l : Nat) (w : RegWrite) : (land s l w).lcyc = s.lcyc := rfl
@[simp] theorem land_psnap (s : State) (l : Nat) (w : RegWrite) : (land s l w).psnap = s.psnap := rfl
@[simp] theorem land_secure (s : State) (l : Nat) (w : RegWrite) : (land s l w).secure = s.secure := rfl
@[simp] theorem land_host (s : State) (l : Nat) (w : RegWrite) : (land s l w).host = s.host := rfl
@[simp] theorem land_stopped (s : State) (l : Nat) (w : RegWrite) : (land s l w).stopped = s.stopped := rfl
@[simp] theorem land_flash (s : State) (l : Nat) (w : RegWrite) : (land s l w).flash = s.flash := rfl
@[simp] theorem land_token (s : State) (l : Nat) (w : RegWrite) : (land s l w).token = s.token := rfl
@[simp] theorem land_uncorr (s : State) (l : Nat) (w : RegWrite) : (land s l w).uncorr = s.uncorr := rfl
@[simp] theorem land_barLog (s : State) (l : Nat) (w : RegWrite) : (land s l w).barLog = s.barLog := rfl

/-! ## landS -/

@[simp] theorem landS_tick (s : State) (l : Nat) (rd : BitVec 6) (v : Word) : (landS s l rd v).tick = s.tick := rfl
@[simp] theorem landS_gcyc (s : State) (l : Nat) (rd : BitVec 6) (v : Word) : (landS s l rd v).gcyc = s.gcyc := rfl
@[simp] theorem landS_pkg (s : State) (l : Nat) (rd : BitVec 6) (v : Word) : (landS s l rd v).pkg = s.pkg := rfl
@[simp] theorem landS_cur (s : State) (l : Nat) (rd : BitVec 6) (v : Word) : (landS s l rd v).cur = s.cur := rfl
@[simp] theorem landS_ev (s : State) (l : Nat) (rd : BitVec 6) (v : Word) : (landS s l rd v).ev = s.ev := rfl
@[simp] theorem landS_work (s : State) (l : Nat) (rd : BitVec 6) (v : Word) : (landS s l rd v).work = s.work := rfl
@[simp] theorem landS_agenda (s : State) (l : Nat) (rd : BitVec 6) (v : Word) : (landS s l rd v).agenda = s.agenda := rfl
@[simp] theorem landS_dies (s : State) (l : Nat) (rd : BitVec 6) (v : Word) : (landS s l rd v).dies = s.dies := rfl
@[simp] theorem landS_mem (s : State) (l : Nat) (rd : BitVec 6) (v : Word) : (landS s l rd v).mem = s.mem := rfl
@[simp] theorem landS_keys (s : State) (l : Nat) (rd : BitVec 6) (v : Word) : (landS s l rd v).keys = s.keys := rfl
@[simp] theorem landS_reqs (s : State) (l : Nat) (rd : BitVec 6) (v : Word) : (landS s l rd v).reqs = s.reqs := rfl
@[simp] theorem landS_nextId (s : State) (l : Nat) (rd : BitVec 6) (v : Word) : (landS s l rd v).nextId = s.nextId := rfl
@[simp] theorem landS_ports (s : State) (l : Nat) (rd : BitVec 6) (v : Word) : (landS s l rd v).ports = s.ports := rfl
@[simp] theorem landS_lmap (s : State) (l : Nat) (rd : BitVec 6) (v : Word) : (landS s l rd v).lmap = s.lmap := rfl
@[simp] theorem landS_lbind (s : State) (l : Nat) (rd : BitVec 6) (v : Word) : (landS s l rd v).lbind = s.lbind := rfl
@[simp] theorem landS_readys (s : State) (l : Nat) (rd : BitVec 6) (v : Word) : (landS s l rd v).readys = s.readys := rfl
@[simp] theorem landS_frame (s : State) (l : Nat) (rd : BitVec 6) (v : Word) : (landS s l rd v).frame = s.frame := rfl
@[simp] theorem landS_frameOld (s : State) (l : Nat) (rd : BitVec 6) (v : Word) : (landS s l rd v).frameOld = s.frameOld := rfl
@[simp] theorem landS_eto (s : State) (l : Nat) (rd : BitVec 6) (v : Word) : (landS s l rd v).eto = s.eto := rfl
@[simp] theorem landS_txNext (s : State) (l : Nat) (rd : BitVec 6) (v : Word) : (landS s l rd v).txNext = s.txNext := rfl
@[simp] theorem landS_pkts (s : State) (l : Nat) (rd : BitVec 6) (v : Word) : (landS s l rd v).pkts = s.pkts := rfl
@[simp] theorem landS_rxs (s : State) (l : Nat) (rd : BitVec 6) (v : Word) : (landS s l rd v).rxs = s.rxs := rfl
@[simp] theorem landS_marks (s : State) (l : Nat) (rd : BitVec 6) (v : Word) : (landS s l rd v).marks = s.marks := rfl
@[simp] theorem landS_markRxs (s : State) (l : Nat) (rd : BitVec 6) (v : Word) : (landS s l rd v).markRxs = s.markRxs := rfl
@[simp] theorem landS_zones (s : State) (l : Nat) (rd : BitVec 6) (v : Word) : (landS s l rd v).zones = s.zones := rfl
@[simp] theorem landS_ccore (s : State) (l : Nat) (rd : BitVec 6) (v : Word) : (landS s l rd v).ccore = s.ccore := rfl
@[simp] theorem landS_cerr (s : State) (l : Nat) (rd : BitVec 6) (v : Word) : (landS s l rd v).cerr = s.cerr := rfl
@[simp] theorem landS_ctab (s : State) (l : Nat) (rd : BitVec 6) (v : Word) : (landS s l rd v).ctab = s.ctab := rfl
@[simp] theorem landS_jcyc (s : State) (l : Nat) (rd : BitVec 6) (v : Word) : (landS s l rd v).jcyc = s.jcyc := rfl
@[simp] theorem landS_jearm (s : State) (l : Nat) (rd : BitVec 6) (v : Word) : (landS s l rd v).jearm = s.jearm := rfl
@[simp] theorem landS_jdone (s : State) (l : Nat) (rd : BitVec 6) (v : Word) : (landS s l rd v).jdone = s.jdone := rfl
@[simp] theorem landS_jarmed (s : State) (l : Nat) (rd : BitVec 6) (v : Word) : (landS s l rd v).jarmed = s.jarmed := rfl
@[simp] theorem landS_jcore (s : State) (l : Nat) (rd : BitVec 6) (v : Word) : (landS s l rd v).jcore = s.jcore := rfl
@[simp] theorem landS_lcyc (s : State) (l : Nat) (rd : BitVec 6) (v : Word) : (landS s l rd v).lcyc = s.lcyc := rfl
@[simp] theorem landS_psnap (s : State) (l : Nat) (rd : BitVec 6) (v : Word) : (landS s l rd v).psnap = s.psnap := rfl
@[simp] theorem landS_secure (s : State) (l : Nat) (rd : BitVec 6) (v : Word) : (landS s l rd v).secure = s.secure := rfl
@[simp] theorem landS_host (s : State) (l : Nat) (rd : BitVec 6) (v : Word) : (landS s l rd v).host = s.host := rfl
@[simp] theorem landS_stopped (s : State) (l : Nat) (rd : BitVec 6) (v : Word) : (landS s l rd v).stopped = s.stopped := rfl
@[simp] theorem landS_flash (s : State) (l : Nat) (rd : BitVec 6) (v : Word) : (landS s l rd v).flash = s.flash := rfl
@[simp] theorem landS_token (s : State) (l : Nat) (rd : BitVec 6) (v : Word) : (landS s l rd v).token = s.token := rfl
@[simp] theorem landS_uncorr (s : State) (l : Nat) (rd : BitVec 6) (v : Word) : (landS s l rd v).uncorr = s.uncorr := rfl
@[simp] theorem landS_barLog (s : State) (l : Nat) (rd : BitVec 6) (v : Word) : (landS s l rd v).barLog = s.barLog := rfl

/-! ## issued -/

@[simp] theorem issued_tick (s : State) : (issued s).tick = s.tick := rfl
@[simp] theorem issued_gcyc (s : State) : (issued s).gcyc = s.gcyc := rfl
@[simp] theorem issued_pkg (s : State) : (issued s).pkg = s.pkg := rfl
@[simp] theorem issued_cur (s : State) : (issued s).cur = s.cur := rfl
@[simp] theorem issued_ev (s : State) : (issued s).ev = s.ev := rfl
@[simp] theorem issued_work (s : State) : (issued s).work = s.work := rfl
@[simp] theorem issued_agenda (s : State) : (issued s).agenda = s.agenda := rfl
@[simp] theorem issued_dies (s : State) : (issued s).dies = s.dies := rfl
@[simp] theorem issued_mem (s : State) : (issued s).mem = s.mem := rfl
@[simp] theorem issued_keys (s : State) : (issued s).keys = s.keys := rfl
@[simp] theorem issued_reqs (s : State) : (issued s).reqs = s.reqs := rfl
@[simp] theorem issued_nextId (s : State) : (issued s).nextId = s.nextId := rfl
@[simp] theorem issued_ports (s : State) : (issued s).ports = s.ports := rfl
@[simp] theorem issued_lmap (s : State) : (issued s).lmap = s.lmap := rfl
@[simp] theorem issued_lbind (s : State) : (issued s).lbind = s.lbind := rfl
@[simp] theorem issued_readys (s : State) : (issued s).readys = s.readys := rfl
@[simp] theorem issued_frame (s : State) : (issued s).frame = s.frame := rfl
@[simp] theorem issued_frameOld (s : State) : (issued s).frameOld = s.frameOld := rfl
@[simp] theorem issued_eto (s : State) : (issued s).eto = s.eto := rfl
@[simp] theorem issued_txNext (s : State) : (issued s).txNext = s.txNext := rfl
@[simp] theorem issued_pkts (s : State) : (issued s).pkts = s.pkts := rfl
@[simp] theorem issued_rxs (s : State) : (issued s).rxs = s.rxs := rfl
@[simp] theorem issued_marks (s : State) : (issued s).marks = s.marks := rfl
@[simp] theorem issued_markRxs (s : State) : (issued s).markRxs = s.markRxs := rfl
@[simp] theorem issued_zones (s : State) : (issued s).zones = s.zones := rfl
@[simp] theorem issued_ccore (s : State) : (issued s).ccore = s.ccore := rfl
@[simp] theorem issued_cerr (s : State) : (issued s).cerr = s.cerr := rfl
@[simp] theorem issued_ctab (s : State) : (issued s).ctab = s.ctab := rfl
@[simp] theorem issued_jcyc (s : State) : (issued s).jcyc = s.jcyc := rfl
@[simp] theorem issued_jearm (s : State) : (issued s).jearm = s.jearm := rfl
@[simp] theorem issued_jdone (s : State) : (issued s).jdone = s.jdone := rfl
@[simp] theorem issued_jarmed (s : State) : (issued s).jarmed = s.jarmed := rfl
@[simp] theorem issued_jcore (s : State) : (issued s).jcore = s.jcore := rfl
@[simp] theorem issued_lcyc (s : State) : (issued s).lcyc = s.lcyc := rfl
@[simp] theorem issued_psnap (s : State) : (issued s).psnap = s.psnap := rfl
@[simp] theorem issued_secure (s : State) : (issued s).secure = s.secure := rfl
@[simp] theorem issued_host (s : State) : (issued s).host = s.host := rfl
@[simp] theorem issued_stopped (s : State) : (issued s).stopped = s.stopped := rfl
@[simp] theorem issued_flash (s : State) : (issued s).flash = s.flash := rfl
@[simp] theorem issued_token (s : State) : (issued s).token = s.token := rfl
@[simp] theorem issued_uncorr (s : State) : (issued s).uncorr = s.uncorr := rfl
@[simp] theorem issued_barLog (s : State) : (issued s).barLog = s.barLog := rfl

/-! ## precise -/

@[simp] theorem precise_tick (s : State) (cause : Nat) (i2 i3 : Word) : (precise s cause i2 i3).tick = s.tick := rfl
@[simp] theorem precise_gcyc (s : State) (cause : Nat) (i2 i3 : Word) : (precise s cause i2 i3).gcyc = s.gcyc := rfl
@[simp] theorem precise_pkg (s : State) (cause : Nat) (i2 i3 : Word) : (precise s cause i2 i3).pkg = s.pkg := rfl
@[simp] theorem precise_cur (s : State) (cause : Nat) (i2 i3 : Word) : (precise s cause i2 i3).cur = s.cur := rfl
@[simp] theorem precise_ev (s : State) (cause : Nat) (i2 i3 : Word) : (precise s cause i2 i3).ev = s.ev := rfl
@[simp] theorem precise_work (s : State) (cause : Nat) (i2 i3 : Word) : (precise s cause i2 i3).work = s.work := rfl
@[simp] theorem precise_agenda (s : State) (cause : Nat) (i2 i3 : Word) : (precise s cause i2 i3).agenda = s.agenda := rfl
@[simp] theorem precise_dies (s : State) (cause : Nat) (i2 i3 : Word) : (precise s cause i2 i3).dies = s.dies := rfl
@[simp] theorem precise_mem (s : State) (cause : Nat) (i2 i3 : Word) : (precise s cause i2 i3).mem = s.mem := rfl
@[simp] theorem precise_keys (s : State) (cause : Nat) (i2 i3 : Word) : (precise s cause i2 i3).keys = s.keys := rfl
@[simp] theorem precise_reqs (s : State) (cause : Nat) (i2 i3 : Word) : (precise s cause i2 i3).reqs = s.reqs := rfl
@[simp] theorem precise_nextId (s : State) (cause : Nat) (i2 i3 : Word) : (precise s cause i2 i3).nextId = s.nextId := rfl
@[simp] theorem precise_ports (s : State) (cause : Nat) (i2 i3 : Word) : (precise s cause i2 i3).ports = s.ports := rfl
@[simp] theorem precise_lmap (s : State) (cause : Nat) (i2 i3 : Word) : (precise s cause i2 i3).lmap = s.lmap := rfl
@[simp] theorem precise_lbind (s : State) (cause : Nat) (i2 i3 : Word) : (precise s cause i2 i3).lbind = s.lbind := rfl
@[simp] theorem precise_readys (s : State) (cause : Nat) (i2 i3 : Word) : (precise s cause i2 i3).readys = s.readys := rfl
@[simp] theorem precise_frame (s : State) (cause : Nat) (i2 i3 : Word) : (precise s cause i2 i3).frame = s.frame := rfl
@[simp] theorem precise_frameOld (s : State) (cause : Nat) (i2 i3 : Word) : (precise s cause i2 i3).frameOld = s.frameOld := rfl
@[simp] theorem precise_eto (s : State) (cause : Nat) (i2 i3 : Word) : (precise s cause i2 i3).eto = s.eto := rfl
@[simp] theorem precise_txNext (s : State) (cause : Nat) (i2 i3 : Word) : (precise s cause i2 i3).txNext = s.txNext := rfl
@[simp] theorem precise_pkts (s : State) (cause : Nat) (i2 i3 : Word) : (precise s cause i2 i3).pkts = s.pkts := rfl
@[simp] theorem precise_rxs (s : State) (cause : Nat) (i2 i3 : Word) : (precise s cause i2 i3).rxs = s.rxs := rfl
@[simp] theorem precise_marks (s : State) (cause : Nat) (i2 i3 : Word) : (precise s cause i2 i3).marks = s.marks := rfl
@[simp] theorem precise_markRxs (s : State) (cause : Nat) (i2 i3 : Word) : (precise s cause i2 i3).markRxs = s.markRxs := rfl
@[simp] theorem precise_zones (s : State) (cause : Nat) (i2 i3 : Word) : (precise s cause i2 i3).zones = s.zones := rfl
@[simp] theorem precise_ccore (s : State) (cause : Nat) (i2 i3 : Word) : (precise s cause i2 i3).ccore = s.ccore := rfl
@[simp] theorem precise_cerr (s : State) (cause : Nat) (i2 i3 : Word) : (precise s cause i2 i3).cerr = s.cerr := rfl
@[simp] theorem precise_ctab (s : State) (cause : Nat) (i2 i3 : Word) : (precise s cause i2 i3).ctab = s.ctab := rfl
@[simp] theorem precise_jcyc (s : State) (cause : Nat) (i2 i3 : Word) : (precise s cause i2 i3).jcyc = s.jcyc := rfl
@[simp] theorem precise_jearm (s : State) (cause : Nat) (i2 i3 : Word) : (precise s cause i2 i3).jearm = s.jearm := rfl
@[simp] theorem precise_jdone (s : State) (cause : Nat) (i2 i3 : Word) : (precise s cause i2 i3).jdone = s.jdone := rfl
@[simp] theorem precise_jarmed (s : State) (cause : Nat) (i2 i3 : Word) : (precise s cause i2 i3).jarmed = s.jarmed := rfl
@[simp] theorem precise_jcore (s : State) (cause : Nat) (i2 i3 : Word) : (precise s cause i2 i3).jcore = s.jcore := rfl
@[simp] theorem precise_lcyc (s : State) (cause : Nat) (i2 i3 : Word) : (precise s cause i2 i3).lcyc = s.lcyc := rfl
@[simp] theorem precise_psnap (s : State) (cause : Nat) (i2 i3 : Word) : (precise s cause i2 i3).psnap = s.psnap := rfl
@[simp] theorem precise_secure (s : State) (cause : Nat) (i2 i3 : Word) : (precise s cause i2 i3).secure = s.secure := rfl
@[simp] theorem precise_host (s : State) (cause : Nat) (i2 i3 : Word) : (precise s cause i2 i3).host = s.host := rfl
@[simp] theorem precise_stopped (s : State) (cause : Nat) (i2 i3 : Word) : (precise s cause i2 i3).stopped = s.stopped := rfl
@[simp] theorem precise_flash (s : State) (cause : Nat) (i2 i3 : Word) : (precise s cause i2 i3).flash = s.flash := rfl
@[simp] theorem precise_token (s : State) (cause : Nat) (i2 i3 : Word) : (precise s cause i2 i3).token = s.token := rfl
@[simp] theorem precise_uncorr (s : State) (cause : Nat) (i2 i3 : Word) : (precise s cause i2 i3).uncorr = s.uncorr := rfl
@[simp] theorem precise_barLog (s : State) (cause : Nat) (i2 i3 : Word) : (precise s cause i2 i3).barLog = s.barLog := rfl

/-! ## askRewind -/

@[simp] theorem askRewind_tick (s : State) (k : Nat) (p : Option (Nat × Nat)) : (askRewind s k p).tick = s.tick := rfl
@[simp] theorem askRewind_gcyc (s : State) (k : Nat) (p : Option (Nat × Nat)) : (askRewind s k p).gcyc = s.gcyc := rfl
@[simp] theorem askRewind_pkg (s : State) (k : Nat) (p : Option (Nat × Nat)) : (askRewind s k p).pkg = s.pkg := rfl
@[simp] theorem askRewind_cur (s : State) (k : Nat) (p : Option (Nat × Nat)) : (askRewind s k p).cur = s.cur := rfl
@[simp] theorem askRewind_ev (s : State) (k : Nat) (p : Option (Nat × Nat)) : (askRewind s k p).ev = s.ev := rfl
@[simp] theorem askRewind_work (s : State) (k : Nat) (p : Option (Nat × Nat)) : (askRewind s k p).work = s.work := rfl
@[simp] theorem askRewind_agenda (s : State) (k : Nat) (p : Option (Nat × Nat)) : (askRewind s k p).agenda = s.agenda := rfl
@[simp] theorem askRewind_dies (s : State) (k : Nat) (p : Option (Nat × Nat)) : (askRewind s k p).dies = s.dies := rfl
@[simp] theorem askRewind_mem (s : State) (k : Nat) (p : Option (Nat × Nat)) : (askRewind s k p).mem = s.mem := rfl
@[simp] theorem askRewind_keys (s : State) (k : Nat) (p : Option (Nat × Nat)) : (askRewind s k p).keys = s.keys := rfl
@[simp] theorem askRewind_reqs (s : State) (k : Nat) (p : Option (Nat × Nat)) : (askRewind s k p).reqs = s.reqs := rfl
@[simp] theorem askRewind_nextId (s : State) (k : Nat) (p : Option (Nat × Nat)) : (askRewind s k p).nextId = s.nextId := rfl
@[simp] theorem askRewind_ports (s : State) (k : Nat) (p : Option (Nat × Nat)) : (askRewind s k p).ports = s.ports := rfl
@[simp] theorem askRewind_lmap (s : State) (k : Nat) (p : Option (Nat × Nat)) : (askRewind s k p).lmap = s.lmap := rfl
@[simp] theorem askRewind_lbind (s : State) (k : Nat) (p : Option (Nat × Nat)) : (askRewind s k p).lbind = s.lbind := rfl
@[simp] theorem askRewind_readys (s : State) (k : Nat) (p : Option (Nat × Nat)) : (askRewind s k p).readys = s.readys := rfl
@[simp] theorem askRewind_frame (s : State) (k : Nat) (p : Option (Nat × Nat)) : (askRewind s k p).frame = s.frame := rfl
@[simp] theorem askRewind_frameOld (s : State) (k : Nat) (p : Option (Nat × Nat)) : (askRewind s k p).frameOld = s.frameOld := rfl
@[simp] theorem askRewind_eto (s : State) (k : Nat) (p : Option (Nat × Nat)) : (askRewind s k p).eto = s.eto := rfl
@[simp] theorem askRewind_txNext (s : State) (k : Nat) (p : Option (Nat × Nat)) : (askRewind s k p).txNext = s.txNext := rfl
@[simp] theorem askRewind_pkts (s : State) (k : Nat) (p : Option (Nat × Nat)) : (askRewind s k p).pkts = s.pkts := rfl
@[simp] theorem askRewind_rxs (s : State) (k : Nat) (p : Option (Nat × Nat)) : (askRewind s k p).rxs = s.rxs := rfl
@[simp] theorem askRewind_marks (s : State) (k : Nat) (p : Option (Nat × Nat)) : (askRewind s k p).marks = s.marks := rfl
@[simp] theorem askRewind_markRxs (s : State) (k : Nat) (p : Option (Nat × Nat)) : (askRewind s k p).markRxs = s.markRxs := rfl
@[simp] theorem askRewind_zones (s : State) (k : Nat) (p : Option (Nat × Nat)) : (askRewind s k p).zones = s.zones := rfl
@[simp] theorem askRewind_ccore (s : State) (k : Nat) (p : Option (Nat × Nat)) : (askRewind s k p).ccore = s.ccore := rfl
@[simp] theorem askRewind_cerr (s : State) (k : Nat) (p : Option (Nat × Nat)) : (askRewind s k p).cerr = s.cerr := rfl
@[simp] theorem askRewind_ctab (s : State) (k : Nat) (p : Option (Nat × Nat)) : (askRewind s k p).ctab = s.ctab := rfl
@[simp] theorem askRewind_jcyc (s : State) (k : Nat) (p : Option (Nat × Nat)) : (askRewind s k p).jcyc = s.jcyc := rfl
@[simp] theorem askRewind_jearm (s : State) (k : Nat) (p : Option (Nat × Nat)) : (askRewind s k p).jearm = s.jearm := rfl
@[simp] theorem askRewind_jdone (s : State) (k : Nat) (p : Option (Nat × Nat)) : (askRewind s k p).jdone = s.jdone := rfl
@[simp] theorem askRewind_jarmed (s : State) (k : Nat) (p : Option (Nat × Nat)) : (askRewind s k p).jarmed = s.jarmed := rfl
@[simp] theorem askRewind_jcore (s : State) (k : Nat) (p : Option (Nat × Nat)) : (askRewind s k p).jcore = s.jcore := rfl
@[simp] theorem askRewind_lcyc (s : State) (k : Nat) (p : Option (Nat × Nat)) : (askRewind s k p).lcyc = s.lcyc := rfl
@[simp] theorem askRewind_psnap (s : State) (k : Nat) (p : Option (Nat × Nat)) : (askRewind s k p).psnap = s.psnap := rfl
@[simp] theorem askRewind_secure (s : State) (k : Nat) (p : Option (Nat × Nat)) : (askRewind s k p).secure = s.secure := rfl
@[simp] theorem askRewind_host (s : State) (k : Nat) (p : Option (Nat × Nat)) : (askRewind s k p).host = s.host := rfl
@[simp] theorem askRewind_stopped (s : State) (k : Nat) (p : Option (Nat × Nat)) : (askRewind s k p).stopped = s.stopped := rfl
@[simp] theorem askRewind_flash (s : State) (k : Nat) (p : Option (Nat × Nat)) : (askRewind s k p).flash = s.flash := rfl
@[simp] theorem askRewind_token (s : State) (k : Nat) (p : Option (Nat × Nat)) : (askRewind s k p).token = s.token := rfl
@[simp] theorem askRewind_uncorr (s : State) (k : Nat) (p : Option (Nat × Nat)) : (askRewind s k p).uncorr = s.uncorr := rfl
@[simp] theorem askRewind_barLog (s : State) (k : Nat) (p : Option (Nat × Nat)) : (askRewind s k p).barLog = s.barLog := rfl

/-! ## Reading after writing -/

@[simp] theorem coreOf_setCore_self (s : State) (k : Nat) (c : Core) : coreOf (setCore s k c) k = c := by
  simp [coreOf, setCore]

@[simp] theorem coreOf_setCore_ne (s : State) {k j : Nat} (c : Core) (h : j ≠ k) : coreOf (setCore s k c) j = coreOf s j := by
  simp [coreOf, setCore, h]

@[simp] theorem coreOf_updCore_self (s : State) (k : Nat) (f : Core → Core) : coreOf (updCore s k f) k = f (coreOf s k) := by
  simp [updCore]

@[simp] theorem coreOf_updCore_ne (s : State) {k j : Nat} (f : Core → Core) (h : j ≠ k) :
    coreOf (updCore s k f) j = coreOf s j := by
  simp [updCore, h]

@[simp] theorem dieOf_setDie_self (s : State) (d : Nat) (x : Die) : dieOf (setDie s d x) d = x := by
  simp [dieOf, setDie]

@[simp] theorem dieOf_setDie_ne (s : State) {d e : Nat} (x : Die) (h : e ≠ d) : dieOf (setDie s d x) e = dieOf s e := by
  simp [dieOf, setDie, h]

@[simp] theorem dieOf_updDie_self (s : State) (d : Nat) (f : Die → Die) : dieOf (updDie s d f) d = f (dieOf s d) := by
  simp [updDie]

@[simp] theorem dieOf_updDie_ne (s : State) {d e : Nat} (f : Die → Die) (h : e ≠ d) : dieOf (updDie s d f) e = dieOf s e := by
  simp [updDie, h]

@[simp] theorem zoneOf_updZone_self (s : State) (z : Nat) (f : Zone → Zone) : zoneOf (updZone s z f) z = f (zoneOf s z) := by
  simp [zoneOf, updZone]

@[simp] theorem zoneOf_updZone_ne (s : State) {z y : Nat} (f : Zone → Zone) (h : y ≠ z) : zoneOf (updZone s z f) y = zoneOf s y := by
  simp [zoneOf, updZone, h]

@[simp] theorem coreOf_setDie (s : State) (d : Nat) (x : Die) (k : Nat) : coreOf (setDie s d x) k = coreOf s k := rfl
@[simp] theorem coreOf_updDie (s : State) (d : Nat) (f : Die → Die) (k : Nat) : coreOf (updDie s d f) k = coreOf s k := rfl
@[simp] theorem coreOf_updZone (s : State) (z : Nat) (f : Zone → Zone) (k : Nat) : coreOf (updZone s z f) k = coreOf s k := rfl
@[simp] theorem coreOf_physWrite (s : State) (a : Nat) (bs : List Byte) (k : Nat) : coreOf (physWrite s a bs) k = coreOf s k := rfl
@[simp] theorem coreOf_post (s : State) (due : Nat) (i : Instr) (e : Ev) (k : Nat) : coreOf (post s due i e) k = coreOf s k := rfl
@[simp] theorem dieOf_setCore (s : State) (k : Nat) (c : Core) (d : Nat) : dieOf (setCore s k c) d = dieOf s d := rfl
@[simp] theorem dieOf_updCore (s : State) (k : Nat) (f : Core → Core) (d : Nat) : dieOf (updCore s k f) d = dieOf s d := rfl
@[simp] theorem dieOf_updZone (s : State) (z : Nat) (f : Zone → Zone) (d : Nat) : dieOf (updZone s z f) d = dieOf s d := rfl
@[simp] theorem dieOf_physWrite (s : State) (a : Nat) (bs : List Byte) (d : Nat) : dieOf (physWrite s a bs) d = dieOf s d := rfl
@[simp] theorem dieOf_post (s : State) (due : Nat) (i : Instr) (e : Ev) (d : Nat) : dieOf (post s due i e) d = dieOf s d := rfl
@[simp] theorem zoneOf_updCore (s : State) (k : Nat) (f : Core → Core) (z : Nat) : zoneOf (updCore s k f) z = zoneOf s z := rfl
@[simp] theorem zoneOf_updDie (s : State) (d : Nat) (f : Die → Die) (z : Nat) : zoneOf (updDie s d f) z = zoneOf s z := rfl

end Sys2Proof.Machine
end

