-- ==== Sys2Proof/Laws/Ops.lean ====
section
/-! SUPPORT. What the shared operations can do: one lemma for each, which later proofs cite instead of unfolding it. -/

namespace Sys2Proof.Machine

/-! ## The acting core -/

@[simp] theorem cc_updCur (s : State) (f : Core → Core) : cc (updCur s f) = f (cc s) := by
  simp [cc, updCur]

theorem coreOf_updCur (s : State) (f : Core → Core) (k : Nat) :
    coreOf (updCur s f) k = if k = s.cur.core then f (coreOf s k) else coreOf s k := by
  by_cases h : k = s.cur.core
  · subst h; simp [updCur]
  · simp [updCur, h]

/-- A change of one core changes that core alone. -/
theorem onlyCore_updCore (s : State) (k : Nat) (f : Core → Core) : OnlyCore s (updCore s k f) k f :=
  ⟨rfl, by simp, fun j h => by simp [h]⟩

theorem onlyCore_updCur (s : State) (f : Core → Core) : OnlyCore s (updCur s f) s.cur.core f := onlyCore_updCore s _ f

theorem onlyDie_updDie (s : State) (d : Nat) (f : Die → Die) : OnlyDie s (updDie s d f) d f :=
  ⟨rfl, by simp, fun j h => by simp [h]⟩

theorem onlyZone_updZone (s : State) (z : Nat) (f : Zone → Zone) : OnlyZone s (updZone s z f) z f :=
  ⟨rfl, by simp, fun j h => by simp [h]⟩

/-- Two changes of one core are one change of it. -/
theorem onlyCore_trans {s t u : State} {k : Nat} {f g : Core → Core} (h : OnlyCore s t k f) (h' : OnlyCore t u k g) :
    OnlyCore s u k (fun c => g (f c)) := by
  obtain ⟨h1, h2, h3⟩ := h
  obtain ⟨g1, g2, g3⟩ := h'
  refine ⟨?_, by rw [g2, h2], fun j hj => by rw [g3 j hj, h3 j hj]⟩
  rw [g1, h1]

theorem onlyCore_issued (s : State) : OnlyCore s (issued s) s.cur.core (movedOn s) := onlyCore_updCur s _

theorem onlyCore_land (s : State) (l : Nat) (w : RegWrite) :
    OnlyCore s (land s l w) s.cur.core fun c => { c with landing := c.landing ++ [onItsWay s l w] } := onlyCore_updCur s _

/-! ## Performing under checks -/

/-- What a slot instruction under checks can do: issue with its effect, wait, ask for a rewind, or ask for a trap. -/
theorem perform_cases {s t : State} {k : Chk} {f : State → State} (h : perform s k f = .next t) :
    (k = .ok ∧ t = issued (f s)) ∨ (k = .wait ∧ t = s) ∨ (k = .rewind ∧ t = askRewind s s.cur.core none) ∨
      ∃ cause i2 i3, k = .fault cause i2 i3 ∧ t = precise s cause i2 i3 := by
  cases k with
  | ok => exact .inl ⟨rfl, by simpa [perform] using h.symm⟩
  | wait => exact .inr (.inl ⟨rfl, by simpa [perform] using h.symm⟩)
  | rewind => exact .inr (.inr (.inl ⟨rfl, by simpa [perform] using h.symm⟩))
  | fault c x y => exact .inr (.inr (.inr ⟨c, x, y, rfl, by simpa [perform] using h.symm⟩))

/-- It always answers a next state. -/
theorem perform_next (s : State) (k : Chk) (f : State → State) : ∃ t, perform s k f = .next t := by
  cases k <;> exact ⟨_, rfl⟩

@[simp] theorem perform_ok (s : State) (f : State → State) : perform s .ok f = .next (issued (f s)) := rfl

/-- Where the checks pass and the effect is a change of the acting core by f, the instruction issues with it. -/
theorem perform_onlyCore {s : State} {f : State → State} {g : Core → Core} (h : OnlyCore s (f s) s.cur.core g) :
    ∃ t, perform s .ok f = .next t ∧ OnlyCore s t s.cur.core fun c => movedOn s (g c) := by
  refine ⟨_, rfl, ?_⟩
  have hc : (f s).cur = s.cur := by rw [h.1]
  have := onlyCore_trans h (g := movedOn (f s)) (by rw [← hc]; exact onlyCore_issued (f s))
  simpa [movedOn, hc] using this

/-- An instruction whose checks pass and whose effect is one register write. -/
theorem perform_land (s : State) (l : Nat) (w : RegWrite) :
    ∃ t, perform s .ok (fun s => land s l w) = .next t ∧
      OnlyCore s t s.cur.core fun c => movedOn s { c with landing := c.landing ++ [onItsWay s l w] } :=
  perform_onlyCore (onlyCore_land s l w)

theorem scalarOp_land (s : State) (l : Nat) (rd : BitVec 6) (v : Word) :
    ∃ t, scalarOp s l rd v = .next t ∧
      OnlyCore s t s.cur.core fun c => movedOn s { c with landing := c.landing ++ [onItsWay s l (.s s.cur.sec rd.toNat v)] } :=
  perform_land s l _

/-- A failed check asks for its trap and changes nothing else. -/
theorem perform_fault (s : State) (cause : Nat) (i2 i3 : Word) (f : State → State) :
    ∃ t, perform s (.fault cause i2 i3) f = .next t ∧ OnlyCore s t s.cur.core fun c =>
      match c.ptrap with
      | some p => if faultBefore s.cur.age s.cur.slot p then { c with ptrap := some (preciseTrap s cause i2 i3) } else c
      | none => { c with ptrap := some (preciseTrap s cause i2 i3) } :=
  ⟨_, rfl, onlyCore_updCur s _⟩

/-- From a meaning under checks that pass, with a change of the acting core, to the claim. -/
theorem issuesWith_of_perform {s : State} {i : Instr} {k : Chk} {f : State → State} {g : Core → Core}
    (h : exec i s = perform s k f) (hk : k = .ok) (hf : OnlyCore s (f s) s.cur.core g) : IssuesWith i s g := by
  unfold IssuesWith
  rw [h, hk]
  exact perform_onlyCore hf

/-- From a meaning under checks that pass, with one register write, to the claim. -/
theorem lands_of_perform {s : State} {i : Instr} {k : Chk} {f : State → State} {l : Nat} {w : RegWrite}
    (h : exec i s = perform s k f) (hk : k = .ok) (hf : f s = land s l w) : Lands i s l w := by
  unfold Lands
  rw [h, hk]
  exact perform_onlyCore (by rw [hf]; exact onlyCore_land s l w)

/-- From a meaning under a check that fails to the claim. -/
theorem faults_of_perform {s : State} {i : Instr} {k : Chk} {f : State → State} {cause : Nat} {x y : Word}
    (h : exec i s = perform s k f) (hk : k = .fault cause x y) : Faults i s cause x y := by
  unfold Faults
  rw [h, hk]
  exact perform_fault s cause x y f

/-- From a scalar result to the claim. -/
theorem landsS_of_scalarOp {s : State} {i : Instr} {l : Nat} {rd : BitVec 6} {v : Word} (h : exec i s = scalarOp s l rd v) :
    LandsS i s l rd v := by
  unfold LandsS Lands
  rw [h]
  exact scalarOp_land s l rd v

/-! ## Requests and events of the acting slot -/

theorem sent_onlyCore {s t : State} {f : Core → Core} (h : OnlyCore s t s.cur.core f) : Sent s t f 0 [] [] :=
  ⟨by rw [h.1]; simp, h.2.1, h.2.2⟩

theorem sent_updCur (s : State) (f : Core → Core) : Sent s (updCur s f) f 0 [] [] := sent_onlyCore (onlyCore_updCur s f)

theorem sent_land (s : State) (l : Nat) (w : RegWrite) : Sent s (land s l w) (fun c => withLanding s c l w) 0 [] [] :=
  sent_updCur s _

theorem sent_addSample (s : State) (d l : Nat) (k : Sample) : Sent s (addSample s d l k) (fun c => withSample s c d l k) 0 [] [] :=
  sent_updCur s _

theorem sent_addStore (s : State) (k : StoreKind) : Sent s (addStore s 5 slotGroup k) (fun c => withStore s c k) 0 [] [] :=
  sent_updCur s _

theorem sent_markRead (s : State) (t : BitVec 6) : Sent s (markRead s t) (fun c => readOnce c t) 0 [] [] := sent_updCur s _

theorem sent_post (s : State) (due : Nat) (i : Instr) (e : Ev) :
    Sent s (post s due i e) id 0 [] [{ due := due, instr := i, ev := e }] :=
  ⟨by simp [post], rfl, fun _ _ => rfl⟩

theorem sent_reqAdd (s : State) (r : Req) : Sent s (reqAdd s r) id 1 [r] [] :=
  ⟨by simp [reqAdd], rfl, fun _ _ => rfl⟩

theorem sent_freshKey (s : State) : Sent s (freshKey s) id 1 [] [] :=
  ⟨by simp [freshKey], rfl, fun _ _ => rfl⟩

theorem sent_cur {s t : State} {f : Core → Core} {n : Nat} {rs : List Req} {es : List Event} (h : Sent s t f n rs es) :
    t.cur = s.cur ∧ t.tick = s.tick := by
  rw [h.1]; exact ⟨rfl, rfl⟩

/-- Two effects after each other. -/
theorem sent_trans {s t u : State} {f g : Core → Core} {n m : Nat} {rs qs : List Req} {es ds : List Event}
    (h : Sent s t f n rs es) (h' : Sent t u g m qs ds) : Sent s u (fun c => g (f c)) (n + m) (rs ++ qs) (es ++ ds) := by
  obtain ⟨h1, h2, h3⟩ := h
  obtain ⟨g1, g2, g3⟩ := h'
  have hc : t.cur = s.cur := by rw [h1]
  rw [hc] at g2 g3
  refine ⟨?_, by rw [g2, h2], fun j hj => by rw [g3 j hj, h3 j hj]⟩
  rw [g1, h1]
  simp [Nat.add_assoc]

/-- The acting core's change may be written in another way. -/
theorem sent_congr {s t : State} {f g : Core → Core} {n : Nat} {rs : List Req} {es : List Event} (h : Sent s t f n rs es)
    (e : f (cc s) = g (cc s)) : Sent s t g n rs es :=
  ⟨h.1, by rw [h.2.1]; exact e, h.2.2⟩

/-- From a meaning under checks that pass, with such an effect, to the claim. -/
theorem sends_of_perform {s : State} {i : Instr} {k : Chk} {f : State → State} {g : Core → Core} {n : Nat} {rs : List Req}
    {es : List Event} (h : exec i s = perform s k f) (hk : k = .ok) (hf : Sent s (f s) g n rs es) : Sends i s g n rs es := by
  refine ⟨issued (f s), by rw [h, hk]; rfl, ?_⟩
  have := sent_trans hf (sent_onlyCore (onlyCore_issued (f s)))
  simpa [movedOn, (sent_cur hf).1] using this

/-! ## Bytes -/

@[simp] theorem memGet_memSet (m : Mem) (a x : Nat) (b : Byte) : memGet (memSet m a b) x = if x = a then b else memGet m x :=
  tblGet_tblSet 0 m a x b

/-- A byte after a write: the byte written there, or what it was. -/
theorem memGet_memWrite (m : Mem) (a : Nat) (bs : List Byte) (x : Nat) :
    memGet (memWrite m a bs) x = if a ≤ x ∧ x < a + bs.length then bs.getD (x - a) 0 else memGet m x := by
  induction bs generalizing m a with
  | nil =>
    have h : ¬(a ≤ x ∧ x < a + ([] : List Byte).length) := by simp only [List.length_nil]; omega
    rw [if_neg h]
    rfl
  | cons b r ih =>
    simp only [memWrite, ih, memGet_memSet, List.length_cons]
    by_cases hx : x = a
    · subst hx
      have h : ¬(x + 1 ≤ x ∧ x < x + 1 + r.length) := by omega
      rw [if_neg h]
      simp
    · by_cases h : a ≤ x ∧ x < a + (r.length + 1)
      · have h1 : a + 1 ≤ x ∧ x < a + 1 + r.length := by omega
        have h2 : x - a = (x - (a + 1)) + 1 := by omega
        simp only [h, h1, and_self, if_true, h2, List.getD_cons_succ]
      · have h1 : ¬(a + 1 ≤ x ∧ x < a + 1 + r.length) := by omega
        rw [if_neg h1, if_neg h, if_neg hx]

theorem memSet_wf {m : Mem} (a : Nat) (b : Byte) (h : Memory.wf m = true) : Memory.wf (memSet m a b) = true :=
  tblSet_wf a b h

/-- Every write of memory keeps its canonical form. -/
theorem memWrite_wf {m : Mem} (a : Nat) (bs : List Byte) (h : Memory.wf m = true) : Memory.wf (memWrite m a bs) = true := by
  induction bs generalizing m a with
  | nil => exact h
  | cons b r ih => exact ih (a + 1) (memSet_wf a b h)

theorem physWrite_wf {s : State} (a : Nat) (bs : List Byte) (h : Memory.wf s.mem = true) :
    Memory.wf (physWrite s a bs).mem = true := memWrite_wf a bs h

theorem physPut_wf {s : State} (a : Nat) (v : Word) (h : Memory.wf s.mem = true) : Memory.wf (physPut s a v).mem = true :=
  memWrite_wf a _ h

@[simp] theorem bytesOf_length (v n : Nat) : (bytesOf v n).length = n := by
  induction n generalizing v with
  | zero => rfl
  | succ n ih => simp [bytesOf, ih]

/-- The number that n little-endian bytes of v hold. -/
theorem natOfBytes_bytesOf (v n : Nat) : natOfBytes (bytesOf v n) = v % 256 ^ n := by
  induction n generalizing v with
  | zero => simp [bytesOf, natOfBytes, Nat.mod_one]
  | succ n ih =>
    have h8 : 2 ^ 8 = 256 := rfl
    simp only [bytesOf, natOfBytes, ih, BitVec.toNat_ofNat, h8]
    rw [Nat.pow_succ', Nat.mod_mul]

theorem memRead_lt (m : Mem) (a n : Nat) : memRead m a n < 256 ^ n := by
  induction n generalizing a with
  | zero => simp [memRead]
  | succ n ih =>
    have := ih (a + 1)
    have := (memGet m a).isLt
    simp only [memRead, Nat.pow_succ]
    omega

/-- A read does not see a write that ends before it starts or starts after its end. -/
theorem memRead_memWrite_disjoint (m : Mem) (a n b : Nat) (bs : List Byte) (h : a + n ≤ b ∨ b + bs.length ≤ a) :
    memRead (memWrite m b bs) a n = memRead m a n := by
  induction n generalizing a with
  | zero => rfl
  | succ n ih =>
    have hb : ¬(b ≤ a ∧ a < b + bs.length) := by omega
    simp only [memRead, memGet_memWrite, hb, if_false]
    by_cases hn : n = 0
    · subst hn; rfl
    · rw [ih (a + 1) (by omega)]

/-- A read of the bytes just written gives the number they hold. -/
theorem memRead_memWrite_same (m : Mem) (a : Nat) (bs : List Byte) : memRead (memWrite m a bs) a bs.length = natOfBytes bs := by
  induction bs generalizing m a with
  | nil => rfl
  | cons b r ih =>
    have h : memGet (memWrite m a (b :: r)) a = b := by simp [memGet_memWrite]
    have h2 : memRead (memWrite m a (b :: r)) (a + 1) r.length = natOfBytes r := ih (memSet m a b) (a + 1)
    simp only [List.length_cons, memRead, natOfBytes, h, h2]

/-- A word of physical memory reads as it was last put. -/
theorem physWord_physPut (s : State) (a : Nat) (v : Word) : physWord (physPut s a v) a = v := by
  have h := memRead_memWrite_same s.mem a (bytesOf v.toNat 8)
  simp only [bytesOf_length, natOfBytes_bytesOf] at h
  have hv : v.toNat % 256 ^ 8 = v.toNat := Nat.mod_eq_of_lt v.isLt
  simp only [physWord, physPut, physWrite, h, hv, BitVec.ofNat_toNat, BitVec.setWidth_eq]

end Sys2Proof.Machine
end

