-- ==== Sys2Proof/Laws/Memory.lean ====
section
/-! SUPPORT. The canonical form of the memories: at reset, and after each operation that does not go through a write of bytes. -/

namespace Sys2Proof.Machine

/-- Memory after reset, and the contents of a flash nothing was placed in, are canonical. -/
theorem reset_memories : MemoriesWf State.reset := ⟨rfl, rfl⟩

/-- Any part of a canonical table is canonical. -/
theorem tblWfFrom_filter {α : Type} [DecidableEq α] {d : α} (p : Nat × α → Bool) {t : Tbl α} :
    ∀ {lo : Option Nat}, tblWfFrom d lo t = true → tblWfFrom d lo (t.filter p) = true := by
  induction t with
  | nil => intro _ _; rfl
  | cons x r ih =>
    obtain ⟨k, v⟩ := x
    intro lo h
    simp only [tblWfFrom, Bool.and_eq_true, decide_eq_true_eq] at h
    obtain ⟨⟨h1, h2⟩, h3⟩ := h
    by_cases hp : p (k, v) = true
    · simp only [List.filter_cons, hp, if_true, tblWfFrom, Bool.and_eq_true, decide_eq_true_eq]
      exact ⟨⟨h1, h2⟩, ih h3⟩
    · simp only [List.filter_cons, hp]
      cases lo with
      | none => exact ih (tblWfFrom_weaken h3)
      | some l =>
        simp only [decide_eq_true_eq] at h1
        exact ih (tblWfFrom_lower (Nat.le_of_lt h1) h3)

theorem filter_wf {m : Mem} (p : Host.Cell → Bool) (h : Memory.wf m = true) : Memory.wf (m.filter p) = true :=
  tblWfFrom_filter p h

/-- A canonical table whose keys lie at or above a, moved down by a. -/
theorem tblWfFrom_down {α : Type} [DecidableEq α] {d : α} (a : Nat) {t : Tbl α} :
    ∀ {l : Nat}, a ≤ l → tblWfFrom d (some l) t = true → tblWfFrom d (some (l - a)) (t.map fun c => (c.1 - a, c.2)) = true := by
  induction t with
  | nil => intro _ _ _; rfl
  | cons x r ih =>
    obtain ⟨k, v⟩ := x
    intro l ha h
    simp only [tblWfFrom, Bool.and_eq_true, decide_eq_true_eq] at h
    obtain ⟨⟨h1, h2⟩, h3⟩ := h
    simp only [List.map_cons, tblWfFrom, Bool.and_eq_true, decide_eq_true_eq]
    exact ⟨⟨by omega, h2⟩, ih (by omega) h3⟩

/-- The bytes moved out of an image are canonical. -/
theorem sliceCells_wf {m : Mem} (a n : Nat) (h : Memory.wf m = true) : Memory.wf (sliceCells m a n) = true := by
  unfold sliceCells
  have hf := filter_wf (fun c => decide (a ≤ c.1) && decide (c.1 < a + n)) h
  have ha : ∀ c ∈ m.filter (fun c => decide (a ≤ c.1) && decide (c.1 < a + n)), a ≤ c.1 := by
    intro c hc
    have := (List.mem_filter.1 hc).2
    simp only [Bool.and_eq_true, decide_eq_true_eq] at this
    exact this.1
  revert hf ha
  generalize m.filter (fun c => decide (a ≤ c.1) && decide (c.1 < a + n)) = t
  intro hf ha
  cases t with
  | nil => rfl
  | cons x r =>
    obtain ⟨k, v⟩ := x
    have hk : a ≤ k := ha (k, v) (List.mem_cons_self ..)
    simp only [Memory.wf, tblWf, tblWfFrom, Bool.true_and, Bool.and_eq_true, decide_eq_true_eq] at hf
    simp only [Memory.wf, List.map_cons, tblWf, tblWfFrom, Bool.true_and, Bool.and_eq_true, decide_eq_true_eq]
    exact ⟨hf.1, tblWfFrom_down a hk hf.2⟩

theorem wordCells_wf (a : Nat) (ws : List Word) : Memory.wf (wordCells a ws) = true := memWrite_wf a _ rfl

/-- Memory after a write of bytes. -/
@[simp] theorem mem_physWrite (s : State) (a : Nat) (bs : List Byte) : (physWrite s a bs).mem = memWrite s.mem a bs := rfl

end Sys2Proof.Machine
end

