-- ==== Sys2Proof/Tests/Slice0.lean ====
section
/-! SUPPORT. Tests: words decoded that are put together from the encodings of the spec, ill-formed terms for each check, and single
steps whose results are taken from the tables and worked examples of the spec. -/

namespace Sys2Proof.Machine.Tests

set_option Elab.async false

/-- A vector operation's fields. -/
def vop (vd va vb : BitVec 9) (ma mb : BitVec 3) (g : Option Guard) : VOp := { vd := vd, va := va, vb := vb, ma := ma, mb := mb, g := g }

/-- A vector register with lanes given from lane 0 up. -/
def lanes (l : List Nat) : VReg := BitVec.ofNat 16384 (l.foldr (fun x a => x + 2 ^ 32 * a) 0)

/-! ## Decoding -/

/-- Words put together sub-field by sub-field from R78 to R88, R233 and R234. -/
theorem test_decode_integer_registers :
    decodeSA (0x01#7 ++ 1#6 ++ 2#6 ++ 3#6 ++ 0#6 ++ 0#9) = some (.add 1 2 3) ∧
    decodeSA (0x02#7 ++ 1#6 ++ 2#6 ++ 3#6 ++ 0#6 ++ 0#9) = some (.sub 1 2 3) ∧
    decodeSA (0x03#7 ++ 1#6 ++ 2#6 ++ 0x1FFFFF#21) = some (.addi 1 2 0x1FFFFF) ∧
    decodeSA (0x04#7 ++ 1#6 ++ 2#6 ++ 3#6 ++ 0#6 ++ 0#9) = some (.mul 1 2 3) ∧
    decodeSA (0x05#7 ++ 1#6 ++ 2#6 ++ 3#6 ++ 0#6 ++ 0#9) = some (.mulh false 1 2 3) ∧
    decodeSA (0x06#7 ++ 1#6 ++ 2#6 ++ 3#6 ++ 0#6 ++ 1#9) = some (.div true 1 2 3) ∧
    decodeSA (0x07#7 ++ 1#6 ++ 2#6 ++ 3#6 ++ 0#6 ++ 1#9) = some (.rem true 1 2 3) ∧
    decodeSA (0x08#7 ++ 1#6 ++ 2#6 ++ 3#6 ++ 0#6 ++ 0#9) = some (.and 1 2 3) ∧
    decodeSA (0x09#7 ++ 1#6 ++ 2#6 ++ 3#6 ++ 0#6 ++ 0#9) = some (.or 1 2 3) ∧
    decodeSA (0x0A#7 ++ 1#6 ++ 2#6 ++ 3#6 ++ 0#6 ++ 0#9) = some (.xor 1 2 3) ∧
    decodeSA (0x0B#7 ++ 1#6 ++ 2#6 ++ 3#6 ++ 0#6 ++ 0#9) = some (.andn 1 2 3) ∧
    decodeSA (0x0C#7 ++ 1#6 ++ 2#6 ++ 3#6 ++ 0#6 ++ 0#9) = some (.shl 1 2 (.reg 3)) ∧
    decodeSA (0x0D#7 ++ 1#6 ++ 2#6 ++ 0#6 ++ 63#6 ++ 1#9) = some (.shr 1 2 (.imm 63)) ∧
    decodeSA (0x0E#7 ++ 1#6 ++ 2#6 ++ 0#6 ++ 5#6 ++ 1#9) = some (.sar 1 2 (.imm 5)) ∧
    decodeSA (0x0F#7 ++ 1#6 ++ 2#6 ++ 3#6 ++ 0#6 ++ 0#9) = some (.rot 1 2 (.reg 3)) ∧
    decodeSA (0x10#7 ++ 1#6 ++ 2#6 ++ 0#6 ++ 0#6 ++ 0#9) = some (.clz 1 2) ∧
    decodeSA (0x11#7 ++ 1#6 ++ 2#6 ++ 0#6 ++ 0#6 ++ 0#9) = some (.ctz 1 2) ∧
    decodeSA (0x12#7 ++ 1#6 ++ 2#6 ++ 0#6 ++ 0#6 ++ 0#9) = some (.popc 1 2) := by
  refine ⟨?_, ?_, ?_, ?_, ?_, ?_, ?_, ?_, ?_, ?_, ?_, ?_, ?_, ?_, ?_, ?_, ?_, ?_⟩ <;> decide

/-- Words put together sub-field by sub-field from R78 to R88, R233 and R234. -/
theorem test_decode_integer_others :
    decodeSA (0x13#7 ++ 1#6 ++ 2#6 ++ 3#6 ++ 0#6 ++ 1#9) = some (.min true 1 2 3) ∧
    decodeSA (0x14#7 ++ 1#6 ++ 2#6 ++ 3#6 ++ 0#6 ++ 0#9) = some (.max false 1 2 3) ∧
    decodeSA (0x15#7 ++ 1#6 ++ 2#6 ++ 3#6 ++ 0#6 ++ 9#9) = some (.cmp .gen 1 2 3) ∧
    decodeSA (0x16#7 ++ 1#6 ++ 2#6 ++ 3#6 ++ 4#6 ++ 0#9) = some (.sel 1 2 3 4) ∧
    decodeSA (0x17#7 ++ 1#6 ++ 0x7FFFFFF#27) = some (.movi 1 0x7FFFFFF) ∧
    decodeSA (0x18#7 ++ 1#6 ++ 5#27) = some (.movhi 1 5) ∧
    decodeSA (0x19#7 ++ 1#6 ++ 2#6 ++ 60#6 ++ 3#6 ++ 1#9) = some (.bfx true 1 2 60 3) ∧
    decodeSA (0x1A#7 ++ 1#6 ++ 2#6 ++ 3#6 ++ 4#6 ++ 0#9) = some (.bfi 1 2 3 4) ∧
    decodeSA (0x1B#7 ++ 1#6 ++ 2#6 ++ 2#2 ++ 1#1 ++ 0x3FFFF#18) = some (.lds 1 2 2 true 0x3FFFF) ∧
    decodeSA (0x1C#7 ++ 1#6 ++ 2#6 ++ 3#2 ++ 0#1 ++ 8#18) = some (.sts 1 2 3 8) ∧
    decodeSA (0x1D#7 ++ 1#6 ++ 2#6 ++ 3#6 ++ 4#6 ++ 0x16#9) = some (.amos .cas true 1 2 3 4) := by
  refine ⟨?_, ?_, ?_, ?_, ?_, ?_, ?_, ?_, ?_, ?_, ?_⟩ <;> decide

/-- Words put together sub-field by sub-field from R78 to R88, R233 and R234. -/
theorem test_decode_scalar_floats :
    decodeSA (0x20#7 ++ 1#6 ++ 2#6 ++ 3#6 ++ 0#6 ++ 0x3#9) = some (.fadd true .rne 1 2 3) ∧
    decodeSA (0x21#7 ++ 1#6 ++ 2#6 ++ 3#6 ++ 0#6 ++ 0x4#9) = some (.fsub false .rtz 1 2 3) ∧
    decodeSA (0x22#7 ++ 1#6 ++ 2#6 ++ 3#6 ++ 0#6 ++ 0x6#9) = some (.fmul false .rup 1 2 3) ∧
    decodeSA (0x23#7 ++ 1#6 ++ 2#6 ++ 3#6 ++ 4#6 ++ 0x8#9) = some (.ffma false .rdn 1 2 3 4) ∧
    decodeSA (0x24#7 ++ 1#6 ++ 2#6 ++ 3#6 ++ 0#6 ++ 0xA#9) = some (.fdiv false .rst 1 2 3) ∧
    decodeSA (0x25#7 ++ 1#6 ++ 2#6 ++ 0#6 ++ 0#6 ++ 0x1#9) = some (.fsqrt true .rm 1 2) ∧
    decodeSA (0x26#7 ++ 1#6 ++ 2#6 ++ 3#6 ++ 0#6 ++ 0x71#9) = some (.fcmp .or true 1 2 3) ∧
    decodeSA (0x27#7 ++ 1#6 ++ 2#6 ++ 0#6 ++ 1#6 ++ 0x24#9) = some (.cvt .i32 .fp64 .rtz 1 2) := by
  refine ⟨?_, ?_, ?_, ?_, ?_, ?_, ?_, ?_⟩ <;> decide

/-- Words put together sub-field by sub-field from R78 to R88, R233 and R234. -/
theorem test_decode_registers_moved :
    decodeSA (0x28#7 ++ 1#6 ++ 0x02#8 ++ 0#19) = some (.mfc 1 2) ∧
    decodeSA (0x29#7 ++ 1#6 ++ 0x04#8 ++ 0#19) = some (.mtc 4 1) ∧
    decodeSA (0x30#7 ++ 5#6 ++ 2#6 ++ 3#6 ++ 0#6 ++ 1#9) = some (.hbind 5 2 (some 3)) ∧
    decodeSA (0x30#7 ++ 5#6 ++ 2#6 ++ 0#6 ++ 0#6 ++ 0#9) = some (.hbind 5 2 none) ∧
    decodeSA (0x31#7 ++ 5#6 ++ 6#6 ++ 0#6 ++ 0#6 ++ 0#9) = some (.hmov 5 6) ∧
    decodeSA (0x32#7 ++ 1#6 ++ 6#6 ++ 0#6 ++ 0#6 ++ 6#9) = some (.hqry .size 1 6) ∧
    decodeSA (0x33#7 ++ 7#6 ++ 2#6 ++ 0#6 ++ 6#6 ++ 0#9) = some (.gset 7 6 2) ∧
    decodeSA (0x34#7 ++ 40#6 ++ 2#6 ++ 0#6 ++ 4#6 ++ 0#9) = some (.tset 40 4 2) ∧
    decodeSA (0x35#7 ++ 7#6 ++ 2#6 ++ 0#6 ++ 0#6 ++ 0#9) = some (.mpset 7 2) := by
  refine ⟨?_, ?_, ?_, ?_, ?_, ?_, ?_, ?_, ?_⟩ <;> decide

/-- Words put together sub-field by sub-field from R78 to R88, R233 and R234. -/
theorem test_decode_vector_arithmetic :
    decodeV (0x01#7 ++ 1#9 ++ 300#9 ++ 3#9 ++ 1#3 ++ 2#3 ++ 17#5 ++ 1#1 ++ 0#1 ++ 1#1 ++ 0#4 ++ 1#3 ++ 0#1) = some (.vadd .fp32 .rne (vop 1 300 3 1 2 (some ⟨17, true, false⟩))) ∧
    decodeV (0x02#7 ++ 1#9 ++ 2#9 ++ 3#9 ++ 0#3 ++ 0#3 ++ 0#5 ++ 0#1 ++ 0#1 ++ 0#1 ++ 9#4 ++ 0#3 ++ 0#1) = some (.vsub .i16 .rm (vop 1 2 3 0 0 none)) ∧
    decodeV (0x03#7 ++ 1#9 ++ 2#9 ++ 3#9 ++ 0#3 ++ 0#3 ++ 0#5 ++ 0#1 ++ 0#1 ++ 0#1 ++ 1#4 ++ 5#3 ++ 0#1) = some (.vmul .bf16 .rst (vop 1 2 3 0 0 none)) ∧
    decodeV (0x04#7 ++ 1#9 ++ 2#9 ++ 3#9 ++ 0#3 ++ 0#3 ++ 0#5 ++ 0#1 ++ 0#1 ++ 0#1 ++ 2#4 ++ 2#3 ++ 0#1) = some (.vfma .fp16 .rtz (vop 1 2 3 0 0 none)) ∧
    decodeV (0x05#7 ++ 1#9 ++ 2#9 ++ 3#9 ++ 0#3 ++ 0#3 ++ 0#5 ++ 0#1 ++ 0#1 ++ 0#1 ++ 14#4 ++ 0#3 ++ 0#1) = some (.vmin .n8 (vop 1 2 3 0 0 none)) ∧
    decodeV (0x06#7 ++ 1#9 ++ 2#9 ++ 3#9 ++ 0#3 ++ 0#3 ++ 0#5 ++ 0#1 ++ 0#1 ++ 0#1 ++ 8#4 ++ 0#3 ++ 0#1) = some (.vmax .i32 (vop 1 2 3 0 0 none)) ∧
    decodeV (0x07#7 ++ 1#9 ++ 2#9 ++ 0#9 ++ 0#3 ++ 0#3 ++ 0#5 ++ 0#1 ++ 0#1 ++ 0#1 ++ 0#4 ++ 0#3 ++ 0#1) = some (.vabs .fp32 (vop 1 2 0 0 0 none)) ∧
    decodeV (0x08#7 ++ 1#9 ++ 2#9 ++ 0#9 ++ 0#3 ++ 0#3 ++ 0#5 ++ 0#1 ++ 0#1 ++ 0#1 ++ 10#4 ++ 0#3 ++ 0#1) = some (.vneg .i8 (vop 1 2 0 0 0 none)) ∧
    decodeV (0x09#7 ++ 1#9 ++ 2#9 ++ 3#9 ++ 0#3 ++ 0#3 ++ 0#5 ++ 0#1 ++ 0#1 ++ 0#1 ++ 13#4 ++ 0#3 ++ 0#1) = some (.vmulh .n16 (vop 1 2 3 0 0 none)) ∧
    decodeV (0x0A#7 ++ 1#9 ++ 2#9 ++ 3#9 ++ 0#3 ++ 0#3 ++ 0#5 ++ 0#1 ++ 0#1 ++ 0#1 ++ 11#4 ++ 0#3 ++ 0#1) = some (.vdot4 .i4 (vop 1 2 3 0 0 none)) ∧
    decodeV (0x10#7 ++ 1#9 ++ 2#9 ++ 3#9 ++ 0#3 ++ 0#3 ++ 0#5 ++ 0#1 ++ 0#1 ++ 0#1 ++ 0#8) = some (.vand (vop 1 2 3 0 0 none)) ∧
    decodeV (0x11#7 ++ 1#9 ++ 2#9 ++ 3#9 ++ 0#3 ++ 0#3 ++ 0#5 ++ 0#1 ++ 0#1 ++ 0#1 ++ 0#8) = some (.vor (vop 1 2 3 0 0 none)) ∧
    decodeV (0x12#7 ++ 1#9 ++ 2#9 ++ 3#9 ++ 0#3 ++ 0#3 ++ 0#5 ++ 0#1 ++ 0#1 ++ 0#1 ++ 0#8) = some (.vxor (vop 1 2 3 0 0 none)) ∧
    decodeV (0x13#7 ++ 1#9 ++ 2#9 ++ 0#9 ++ 0#3 ++ 0#3 ++ 0#5 ++ 0#1 ++ 0#1 ++ 0#1 ++ 0#8) = some (.vnot (vop 1 2 0 0 0 none)) ∧
    decodeV (0x14#7 ++ 1#9 ++ 2#9 ++ 31#9 ++ 0#3 ++ 0#3 ++ 0#5 ++ 0#1 ++ 0#1 ++ 0#1 ++ 8#4 ++ 0#3 ++ 1#1) = some (.vshl .i32 true (vop 1 2 31 0 0 none)) ∧
    decodeV (0x15#7 ++ 1#9 ++ 2#9 ++ 3#9 ++ 0#3 ++ 0#3 ++ 0#5 ++ 0#1 ++ 0#1 ++ 0#1 ++ 14#4 ++ 0#3 ++ 0#1) = some (.vshr .n8 false (vop 1 2 3 0 0 none)) ∧
    decodeV (0x16#7 ++ 1#9 ++ 2#9 ++ 3#9 ++ 0#3 ++ 0#3 ++ 0#5 ++ 0#1 ++ 0#1 ++ 0#1 ++ 9#4 ++ 0#3 ++ 1#1) = some (.vsar .i16 true (vop 1 2 3 0 0 none)) := by
  refine ⟨?_, ?_, ?_, ?_, ?_, ?_, ?_, ?_, ?_, ?_, ?_, ?_, ?_, ?_, ?_, ?_, ?_⟩ <;> decide

/-- Words put together sub-field by sub-field from R78 to R88, R233 and R234. -/
theorem test_decode_vector_compares_and_moves :
    decodeV (0x18#7 ++ 15#9 ++ 2#9 ++ 3#9 ++ 0#3 ++ 0#3 ++ 0#5 ++ 0#1 ++ 0#1 ++ 0#1 ++ 12#4 ++ 9#4) = some (.vcmp .n32 9 (vop 15 2 3 0 0 none)) ∧
    decodeV (0x19#7 ++ 3#9 ++ 2#9 ++ 3#9 ++ 0#3 ++ 0#3 ++ 0#5 ++ 0#1 ++ 0#1 ++ 0#1 ++ 0#4 ++ 5#4) = some (.vcmpt .fp32 .ge (vop 3 2 3 0 0 none)) ∧
    decodeV (0x1A#7 ++ 1#9 ++ 2#9 ++ 3#9 ++ 0#3 ++ 0#3 ++ 0#5 ++ 0#1 ++ 0#1 ++ 0#1 ++ 17#5 ++ 0#3) = some (.vsel 17 (vop 1 2 3 0 0 none)) ∧
    decodeV (0x1B#7 ++ 1#9 ++ 2#9 ++ 258#9 ++ 0#3 ++ 0#3 ++ 0#5 ++ 0#1 ++ 0#1 ++ 0#1 ++ 8#4 ++ 7#4) = some (.vcas .i32 7 (vop 1 2 258 0 0 none)) ∧
    decodeV (0x20#7 ++ 1#9 ++ 2#9 ++ 0#9 ++ 3#3 ++ 0#3 ++ 0#5 ++ 0#1 ++ 0#1 ++ 0#1 ++ 2#4 ++ 0#3 ++ 0#1) = some (.vmov .fp16 (vop 1 2 0 3 0 none)) ∧
    decodeV (0x21#7 ++ 1#9 ++ 33#9 ++ 0#9 ++ 0#3 ++ 0#3 ++ 0#5 ++ 0#1 ++ 0#1 ++ 0#1 ++ 8#4 ++ 0#3 ++ 0#1) = some (.vbcast .i32 (vop 1 33 0 0 0 none)) ∧
    decodeV (0x22#7 ++ 1#9 ++ 0#9 ++ 0#9 ++ 0#3 ++ 0#3 ++ 0#5 ++ 0#1 ++ 0#1 ++ 0#1 ++ 13#4 ++ 0#3 ++ 0#1) = some (.vidx .n16 (vop 1 0 0 0 0 none)) ∧
    decodeV (0x23#7 ++ 1#9 ++ 2#9 ++ 3#9 ++ 0#3 ++ 0#3 ++ 0#5 ++ 0#1 ++ 0#1 ++ 0#1 ++ 0#8) = some (.vperm (vop 1 2 3 0 0 none)) ∧
    decodeV (0x24#7 ++ 1#9 ++ 2#9 ++ 12#9 ++ 0#3 ++ 0#3 ++ 0#5 ++ 0#1 ++ 0#1 ++ 0#1 ++ 0#8) = some (.vshuf (vop 1 2 12 0 0 none)) ∧
    decodeV (0x25#7 ++ 1#9 ++ 2#9 ++ 511#9 ++ 0#3 ++ 0#3 ++ 0#5 ++ 0#1 ++ 0#1 ++ 0#1 ++ 1#8) = some (.vrot true (vop 1 2 511 0 0 none)) ∧
    decodeV (0x25#7 ++ 1#9 ++ 2#9 ++ 5#9 ++ 0#3 ++ 0#3 ++ 0#5 ++ 0#1 ++ 0#1 ++ 0#1 ++ 0#8) = some (.vrot false (vop 1 2 5 0 0 none)) := by
  refine ⟨?_, ?_, ?_, ?_, ?_, ?_, ?_, ?_, ?_, ?_, ?_⟩ <;> decide

/-- Words put together sub-field by sub-field from R78 to R88, R233 and R234. -/
theorem test_decode_vector_reductions_and_conversions :
    decodeV (0x28#7 ++ 1#9 ++ 2#9 ++ 0#9 ++ 0#3 ++ 0#3 ++ 0#5 ++ 0#1 ++ 0#1 ++ 0#1 ++ 0#4 ++ 1#3 ++ 0#1) = some (.vredadd .fp32 .rne (vop 1 2 0 0 0 none)) ∧
    decodeV (0x29#7 ++ 1#9 ++ 2#9 ++ 0#9 ++ 0#3 ++ 0#3 ++ 0#5 ++ 0#1 ++ 0#1 ++ 0#1 ++ 9#4 ++ 0#3 ++ 0#1) = some (.vredmax .i16 (vop 1 2 0 0 0 none)) ∧
    decodeV (0x2A#7 ++ 1#9 ++ 2#9 ++ 0#9 ++ 0#3 ++ 0#3 ++ 0#5 ++ 0#1 ++ 0#1 ++ 0#1 ++ 12#4 ++ 0#3 ++ 0#1) = some (.vredmin .n32 (vop 1 2 0 0 0 none)) ∧
    decodeV (0x30#7 ++ 1#9 ++ 2#9 ++ 0#9 ++ 0#3 ++ 0#3 ++ 0#5 ++ 0#1 ++ 0#1 ++ 0#1 ++ 0#4 ++ 0#3 ++ 0#1) = some (.vexp2 .fp32 .rm (vop 1 2 0 0 0 none)) ∧
    decodeV (0x31#7 ++ 1#9 ++ 2#9 ++ 0#9 ++ 0#3 ++ 0#3 ++ 0#5 ++ 0#1 ++ 0#1 ++ 0#1 ++ 1#4 ++ 1#3 ++ 0#1) = some (.vlog2 .bf16 .rne (vop 1 2 0 0 0 none)) ∧
    decodeV (0x32#7 ++ 1#9 ++ 2#9 ++ 0#9 ++ 0#3 ++ 0#3 ++ 0#5 ++ 0#1 ++ 0#1 ++ 0#1 ++ 2#4 ++ 2#3 ++ 0#1) = some (.vrcp .fp16 .rtz (vop 1 2 0 0 0 none)) ∧
    decodeV (0x33#7 ++ 1#9 ++ 2#9 ++ 0#9 ++ 0#3 ++ 0#3 ++ 0#5 ++ 0#1 ++ 0#1 ++ 0#1 ++ 0#4 ++ 3#3 ++ 0#1) = some (.vrsq .fp32 .rup (vop 1 2 0 0 0 none)) ∧
    decodeV (0x39#7 ++ 1#9 ++ 2#9 ++ 3#9 ++ 0#3 ++ 0#3 ++ 0#5 ++ 0#1 ++ 0#1 ++ 0#1 ++ 10#4 ++ 1#3 ++ 1#1) = some (.vqnt .i8 true .rne (vop 1 2 3 0 0 none)) ∧
    decodeV (0x3A#7 ++ 1#9 ++ 2#9 ++ 3#9 ++ 0#3 ++ 0#3 ++ 0#5 ++ 0#1 ++ 0#1 ++ 0#1 ++ 3#4 ++ 0#3 ++ 0#1) = some (.vdq .e4m3 false .rm (vop 1 2 3 0 0 none)) ∧
    decodeV (0x3B#7 ++ 1#9 ++ 2#9 ++ 0#9 ++ 0#3 ++ 0#3 ++ 0#5 ++ 0#1 ++ 0#1 ++ 0#1 ++ 14#4 ++ 0#3 ++ 0#1) = some (.vsat .n8 (vop 1 2 0 0 0 none)) ∧
    decodeV (0x3C#7 ++ 1#9 ++ 2#9 ++ 3#9 ++ 0#3 ++ 0#3 ++ 0#5 ++ 0#1 ++ 0#1 ++ 0#1 ++ 10#4 ++ 0#3 ++ 0#1) = some (.vpack .i8 (vop 1 2 3 0 0 none)) ∧
    decodeV (0x3D#7 ++ 1#9 ++ 2#9 ++ 0#9 ++ 0#3 ++ 0#3 ++ 0#5 ++ 0#1 ++ 0#1 ++ 0#1 ++ 4#4 ++ 0#3 ++ 1#1) = some (.vunpk .e5m2 true (vop 1 2 0 0 0 none)) ∧
    decodeV (0x3E#7 ++ 1#9 ++ 2#9 ++ 3#9 ++ 0#3 ++ 0#3 ++ 0#5 ++ 0#1 ++ 0#1 ++ 0#1 ++ 6#4 ++ 0#3 ++ 0#1) = some (.vlmul .l8 (vop 1 2 3 0 0 none)) ∧
    decodeV (0x3F#7 ++ 1#9 ++ 2#9 ++ 0#9 ++ 0#3 ++ 0#3 ++ 0#5 ++ 0#1 ++ 0#1 ++ 0#1 ++ 7#4 ++ 0#3 ++ 0#1) = some (.vllin .l4 (vop 1 2 0 0 0 none)) ∧
    decodeV (0x2B#7 ++ 1#9 ++ 2#9 ++ 1#9 ++ 0#3 ++ 0#3 ++ 0#5 ++ 0#1 ++ 0#1 ++ 0#1 ++ 8#4 ++ 0#3 ++ 0#1) = some (.vscan .max .i32 .rm (vop 1 2 0 0 0 none)) ∧
    decodeV (0x38#7 ++ 1#9 ++ 2#9 ++ 8#9 ++ 0#3 ++ 0#3 ++ 0#5 ++ 0#1 ++ 0#1 ++ 0#1 ++ 0#4 ++ 3#3 ++ 0#1) = some (.vcvt .fp32 .i32 .rup (vop 1 2 0 0 0 none)) := by
  refine ⟨?_, ?_, ?_, ?_, ?_, ?_, ?_, ?_, ?_, ?_, ?_, ?_, ?_, ?_, ?_, ?_⟩ <;> decide

/-- Words put together sub-field by sub-field from R78 to R88, R233 and R234. -/
theorem test_decode_vector_predicates_and_memory :
    decodeV (0x40#7 ++ 15#9 ++ 16#9 ++ 31#9 ++ 0#3 ++ 0#3 ++ 0#5 ++ 0#1 ++ 0#1 ++ 0#1 ++ 0#8) = some (.vpand (vop 15 16 31 0 0 none)) ∧
    decodeV (0x41#7 ++ 1#9 ++ 2#9 ++ 3#9 ++ 0#3 ++ 0#3 ++ 0#5 ++ 0#1 ++ 0#1 ++ 0#1 ++ 0#8) = some (.vpor (vop 1 2 3 0 0 none)) ∧
    decodeV (0x42#7 ++ 1#9 ++ 2#9 ++ 0#9 ++ 0#3 ++ 0#3 ++ 0#5 ++ 0#1 ++ 0#1 ++ 0#1 ++ 0#8) = some (.vpnot (vop 1 2 0 0 0 none)) ∧
    decodeV (0x43#7 ++ 1#9 ++ 31#9 ++ 0#9 ++ 0#3 ++ 0#3 ++ 0#5 ++ 0#1 ++ 0#1 ++ 0#1 ++ 0#8) = some (.vpcnt (vop 1 31 0 0 0 none)) ∧
    decodeV (0x44#7 ++ 1#9 ++ 2#9 ++ 0#9 ++ 0#3 ++ 0#3 ++ 0#5 ++ 0#1 ++ 0#1 ++ 0#1 ++ 0#8) = some (.vpfst (vop 1 2 0 0 0 none)) ∧
    decodeV (0x48#7 ++ 1#9 ++ 63#9 ++ 62#9 ++ 0#3 ++ 0#3 ++ 0#5 ++ 0#1 ++ 0#1 ++ 0#1 ++ 0#8) = some (.vld (vop 1 63 62 0 0 none)) ∧
    decodeV (0x49#7 ++ 1#9 ++ 2#9 ++ 3#9 ++ 0#3 ++ 0#3 ++ 0#5 ++ 0#1 ++ 0#1 ++ 0#1 ++ 0#8) = some (.vst (vop 1 2 3 0 0 none)) ∧
    decodeV (0x4A#7 ++ 1#9 ++ 2#9 ++ 3#9 ++ 0#3 ++ 0#3 ++ 0#5 ++ 0#1 ++ 0#1 ++ 0#1 ++ 9#4 ++ 0#3 ++ 0#1) = some (.vgath .i16 (vop 1 2 3 0 0 none)) ∧
    decodeV (0x4B#7 ++ 1#9 ++ 2#9 ++ 3#9 ++ 0#3 ++ 0#3 ++ 0#5 ++ 0#1 ++ 0#1 ++ 0#1 ++ 14#4 ++ 0#3 ++ 0#1) = some (.vscat .n8 (vop 1 2 3 0 0 none)) ∧
    decodeV (0x4C#7 ++ 1#9 ++ 0#9 ++ 0#9 ++ 0#3 ++ 0#3 ++ 0#5 ++ 0#1 ++ 0#1 ++ 0#1 ++ 0#8) = some (.vpop (vop 1 0 0 0 0 none)) := by
  refine ⟨?_, ?_, ?_, ?_, ?_, ?_, ?_, ?_, ?_, ?_⟩ <;> decide

/-- Words put together sub-field by sub-field from R78 to R88, R233 and R234. -/
theorem test_decode_transforms :
    decodeXF (0x01#5 ++ 0#6 ++ 3#6 ++ 15#4 ++ 2#3) = some (.xexp 3 15 2) ∧
    decodeXF (0x02#5 ++ 0x1000#16 ++ 0#3) = some (.xratio 0x1000) ∧
    decodeXF (0x03#5 ++ 2#6 ++ 3#6 ++ 0#7) = some (.xtrn 2 3) ∧
    decodeXF (0x04#5 ++ 2#6 ++ 3#6 ++ 10#4 ++ 1#3) = some (.xcvt 2 3 .i8 .rne) ∧
    decodeXF (0x05#5 ++ 2#6 ++ 3#6 ++ 3#4 ++ 0#3) = some (.xpack 2 3 .e4m3 .rm) := by
  refine ⟨?_, ?_, ?_, ?_, ?_⟩ <;> decide

/-- Words put together sub-field by sub-field from R78 to R88, R233 and R234. -/
theorem test_decode_tile_transfers :
    decodeMEM (0x01#7 ++ 5#6 ++ 3#5 ++ 4#6 ++ 6#6 ++ 2#3 ++ 1#1 ++ 7#5 ++ 3#9) = some (.ldt true true ⟨5, 3, 4, 6, 2, true, 7⟩) ∧
    decodeMEM (0x02#7 ++ 5#6 ++ 3#5 ++ 4#6 ++ 6#6 ++ 2#3 ++ 1#1 ++ 7#5 ++ 1#9) = some (.ldts true false ⟨5, 3, 4, 6, 2, true, 7⟩) ∧
    decodeMEM (0x03#7 ++ 5#6 ++ 3#5 ++ 4#6 ++ 6#6 ++ 2#3 ++ 1#1 ++ 7#5 ++ 0#9) = some (.stt ⟨5, 3, 4, 6, 2, true, 7⟩) ∧
    decodeMEM (0x05#7 ++ 5#6 ++ 3#5 ++ 4#6 ++ 6#6 ++ 2#3 ++ 1#1 ++ 7#5 ++ 0#9) = some (.pft ⟨5, 3, 4, 6, 2, true, 7⟩) ∧
    decodeMEM (0x04#7 ++ 5#6 ++ 0#5 ++ 4#6 ++ 6#6 ++ 0#18) = some (.chkpT 5 4 6) ∧
    decodeMEM (0x04#7 ++ 5#6 ++ 1#5 ++ 4#6 ++ 6#6 ++ 9#18) = some (.chkpQ 5 4 6 9) ∧
    decodeMEM (0x06#7 ++ 5#6 ++ 0#5 ++ 4#6 ++ 6#6 ++ 2#3 ++ 0#1 ++ 0#5 ++ 0#9) = some (.tmovIn 5 4 6 2) ∧
    decodeMEM (0x06#7 ++ 5#6 ++ 0#5 ++ 4#6 ++ 6#6 ++ 2#3 ++ 0#1 ++ 0#5 ++ 1#9) = some (.tmovOut 5 4 6 2) := by
  refine ⟨?_, ?_, ?_, ?_, ?_, ?_, ?_, ?_⟩ <;> decide

/-- Words put together sub-field by sub-field from R78 to R88, R233 and R234. -/
theorem test_decode_atomics_barriers_jobs_queues :
    decodeMEM (0x08#7 ++ 0x17#6 ++ 3#5 ++ 4#6 ++ 6#6 ++ 0x5003#18) = some (.amo .cas true false 3 4 6 5 3) ∧
    decodeMEM (0x09#7 ++ 4#6 ++ 3#5 ++ 0#6 ++ 6#6 ++ 0#18) = some (.relv .system 3 6) ∧
    decodeMEM (0x0A#7 ++ 1#6 ++ 3#5 ++ 0#6 ++ 6#6 ++ 0x507F#18) = some (.acqv .cluster 3 6 5 127) ∧
    decodeMEM (0x0B#7 ++ 0#6 ++ 3#5 ++ 4#6 ++ 6#6 ++ 0x1FFFF#18) = some (.bari 3 4 6 0x1FFFF) ∧
    decodeMEM (0x0C#7 ++ 1#6 ++ 3#5 ++ 4#6 ++ 6#6 ++ 0#18) = some (.bara true false 3 4 6) ∧
    decodeMEM (0x10#7 ++ 5#6 ++ 0#5 ++ 0#6 ++ 0#6 ++ 0#3 ++ 0#1 ++ 0#5 ++ 0#9) = some (.xcopy 5) ∧
    decodeMEM (0x11#7 ++ 5#6 ++ 0#5 ++ 0#6 ++ 0#6 ++ 0#3 ++ 0#1 ++ 0#5 ++ 0#9) = some (.xchain 5) ∧
    decodeMEM (0x12#7 ++ 5#6 ++ 0#5 ++ 0#6 ++ 0#6 ++ 0#3 ++ 0#1 ++ 0#5 ++ 0#9) = some (.xgath 5) ∧
    decodeMEM (0x13#7 ++ 5#6 ++ 0#5 ++ 0#6 ++ 0#6 ++ 0#3 ++ 0#1 ++ 0#5 ++ 0#9) = some (.xcoll 5) ∧
    decodeMEM (0x14#7 ++ 5#6 ++ 0#5 ++ 0#6 ++ 0#6 ++ 0#3 ++ 0#1 ++ 0#5 ++ 0#9) = some (.gstep 5) ∧
    decodeMEM (0x18#7 ++ 7#6 ++ 0#5 ++ 4#6 ++ 6#6 ++ 0#18) = some (.qput 4 6 7) ∧
    decodeMEM (0x19#7 ++ 7#6 ++ 0#5 ++ 4#6 ++ 0#6 ++ 0x3FFF8#18) = some (.qget 7 4 0x3FFF8) ∧
    decodeMEM (0x1C#7 ++ 1#1 ++ 7#3 ++ 63#6 ++ 5#6 ++ 4#6 ++ 0#10 ++ 9#9) = some (.rput true 7 63 5 4 9) ∧
    decodeMEM (0x1D#7 ++ 0#1 ++ 6#3 ++ 62#6 ++ 5#6 ++ 4#6 ++ 0#10 ++ 9#9) = some (.rtap false 6 62 5 4 9) ∧
    decodeMEM (0x1E#7 ++ 5#6 ++ 3#5 ++ 4#6 ++ 6#6 ++ 0#3 ++ 0#1 ++ 0#5 ++ 0x1FF#9) = some (.pfxlook true 255 5 3 4 6) := by
  refine ⟨?_, ?_, ?_, ?_, ?_, ?_, ?_, ?_, ?_, ?_, ?_, ?_, ?_, ?_, ?_⟩ <;> decide

/-- Words put together sub-field by sub-field from R78 to R88, R233 and R234. -/
theorem test_decode_privileged_memory :
    decodeMEM (0x40#7 ++ 6#6 ++ 0#5 ++ 4#6 ++ 6#6 ++ 9#18) = some (.tlbi 2 true 4 6 9) ∧
    decodeMEM (0x41#7 ++ 0#6 ++ 0#5 ++ 4#6 ++ 6#6 ++ 0#18) = some (.otw 4 6) ∧
    decodeMEM (0x42#7 ++ 0#6 ++ 0#5 ++ 0#6 ++ 6#6 ++ 0#18) = some (.oti 6) ∧
    decodeMEM (0x43#7 ++ 2#6 ++ 0#5 ++ 0#6 ++ 6#6 ++ 0#18) = some (.ota false true 6) ∧
    decodeMEM (0x44#7 ++ 0#6 ++ 3#5 ++ 4#6 ++ 6#6 ++ 0#18) = some (.ctxsave 3 4 6) ∧
    decodeMEM (0x45#7 ++ 0#6 ++ 3#5 ++ 4#6 ++ 6#6 ++ 0#18) = some (.ctxrest 3 4 6) ∧
    decodeMEM (0x46#7 ++ 6#6 ++ 0#5 ++ 4#6 ++ 6#6 ++ 0x3FFFF#18) = some (.ldp 6 4 6 0x3FFFF) ∧
    decodeMEM (0x47#7 ++ 0#6 ++ 0#5 ++ 4#6 ++ 6#6 ++ 8#18) = some (.stp 0 4 6 8) ∧
    decodeMEM (0x48#7 ++ 0#6 ++ 0#5 ++ 4#6 ++ 6#6 ++ 0xFFFF#18) = some (.keyw 4 6 0xFFFF) ∧
    decodeMEM (0x49#7 ++ 1#6 ++ 0#5 ++ 0#6 ++ 0#6 ++ 0#18) = some (.keyz true 0) := by
  refine ⟨?_, ?_, ?_, ?_, ?_, ?_, ?_, ?_, ?_, ?_⟩ <;> decide

/-- Words put together sub-field by sub-field from R78 to R88, R233 and R234. -/
theorem test_decode_matrix_and_fabric :
    decodeMX (0x01#5 ++ 511#9 ++ 0#6 ++ 0#12) = some (.mcall 511) ∧
    decodeMX (0x02#5 ++ 2#9 ++ 0#6 ++ 0#12) = some (.mcallw 2) ∧
    decodeMX (0x03#5 ++ 2#9 ++ 5#6 ++ 0x1FD#12) = some (.mldstore 2 5 0x1FD) ∧
    decodeFAB (0x1#4 ++ 10#6 ++ 64#12 ++ 7#6 ++ 3#4) = some (.fsend 10 64 7 3) ∧
    decodeFAB (0x2#4 ++ 10#6 ++ 4095#12 ++ 7#6 ++ 15#4) = some (.frecv 10 4095 7 15) ∧
    decodeFAB (0x3#4 ++ 10#6 ++ 64#12 ++ 7#6 ++ 0xE#4) = some (.frecva .min 10 64 7 3) ∧
    decodeFAB (0x4#4 ++ 10#6 ++ 127#12 ++ 7#6 ++ 0#4) = some (.fmark 10 127 7) ∧
    decodeFAB (0x5#4 ++ 10#6 ++ 64#12 ++ 0#6 ++ 0#4) = some (.frdv 10 64) ∧
    decodeFAB (0x6#4 ++ 0#6 ++ 9#12 ++ 7#6 ++ 0#4) = some (.fctlSync 9 7) ∧
    decodeFAB (0x6#4 ++ 0#6 ++ 9#12 ++ 7#6 ++ 1#4) = some (.fctlStat 9 7) := by
  refine ⟨?_, ?_, ?_, ?_, ?_, ?_, ?_, ?_, ?_, ?_⟩ <;> decide

/-- Words put together sub-field by sub-field from R78 to R88, R233 and R234. -/
theorem test_decode_control :
    decodeCTL (0x01#6 ++ 3#6 ++ 2#4 ++ 0xFFFFFE#24) = some (.br .lt 3 0xFFFFFE) ∧
    decodeCTL (0x02#6 ++ 17#5 ++ 1#1 ++ 0#4 ++ 9#24) = some (.brp 17 true 9) ∧
    decodeCTL (0x03#6 ++ 0#6 ++ 0#4 ++ 9#24) = some (.jmp none 9) ∧
    decodeCTL (0x03#6 ++ 29#6 ++ 1#4 ++ 0#24) = some (.jmp (some 29) 0) ∧
    decodeCTL (0x04#6 ++ 0#6 ++ 0#4 ++ 0x10#24) = some (.call none 16) ∧
    decodeCTL (0x04#6 ++ 29#6 ++ 1#4 ++ 0#24) = some (.call (some 29) 0) ∧
    decodeCTL (0x05#6 ++ 0#34) = some (.ret) ∧
    decodeCTL (0x06#6 ++ 3#6 ++ 0#10 ++ 6#18) = some (.loop 3 6) ∧
    decodeCTL (0x07#6 ++ 32#16 ++ 6#18) = some (.loopi 32 6) ∧
    decodeCTL (0x08#6 ++ 14#6 ++ 1#4 ++ 0#24) = some (.lbrk .ne 14) ∧
    decodeCTL (0x09#6 ++ 3#6 ++ 0#28) = some (.fmtset 3) ∧
    decodeCTL (0x0A#6 ++ 0#2 ++ 0x80000001#32) = some (.fmtseti 0x80000001) ∧
    decodeCTL (0x0B#6 ++ 3#5 ++ 4#6 ++ 1#1 ++ 0#22) = some (.waitb 3 4 true) ∧
    decodeCTL (0x0C#6 ++ 9#6 ++ 21#28) = some (.waitc 9 21) ∧
    decodeCTL (0x0D#6 ++ 0#34) = some (.yield) ∧
    decodeCTL (0x0E#6 ++ 0#34) = some (.halt) ∧
    decodeCTL (0x0F#6 ++ 0#2 ++ 1#32) = some (.trap 1) ∧
    decodeCTL (0x10#6 ++ 0#2 ++ 0xFFFF#32) = some (.kcall 0xFFFF) ∧
    decodeCTL (0x20#6 ++ 0#34) = some (.kret) ∧
    decodeCTL (0x21#6 ++ 0#34) = some (.wfi) ∧
    decodeCTL (0x22#6 ++ 3#6 ++ 0xFFFF#28) = some (.ipi 3 0xFFFF) ∧
    decodeCTL (0x23#6 ++ 3#6 ++ 0#28) = some (.jarm 3) := by
  refine ⟨?_, ?_, ?_, ?_, ?_, ?_, ?_, ?_, ?_, ?_, ?_, ?_, ?_, ?_, ?_, ?_, ?_, ?_, ?_, ?_, ?_, ?_⟩ <;> decide

/-- Words put together sub-field by sub-field from R78 to R88, R233 and R234. -/
theorem test_decode_micro_operations :
    decodeMicro (0x01#5 ++ 1#1 ++ 5#3 ++ 47#6 ++ 3#6 ++ 511#9 ++ 1023#10 ++ 2047#11 ++ 127#10 ++ 1#1 ++ 0#66) = some (.mma ⟨true, 5⟩ 47 3 511 1023 2047 127 true) ∧
    decodeMicro (0x02#5 ++ 0#1 ++ 0#3 ++ 1#6 ++ 3#6 ++ 5#9 ++ 32#10 ++ 64#11 ++ 31#10 ++ 0#1 ++ 7#6 ++ 9#6 ++ 0#54) = some (.mmas ⟨false, 0⟩ 1 3 5 32 64 31 false 7 9) ∧
    decodeMicro (0x03#5 ++ 0#1 ++ 0#3 ++ 0#6 ++ 3#6 ++ 5#9 ++ 2#2 ++ 1#1 ++ 127#11 ++ 0#84) = some (.mldw ⟨false, 0⟩ 3 5 2 true 127) ∧
    decodeMicro (0x04#5 ++ 0#1 ++ 0#3 ++ 47#6 ++ 0#113) = some (.mzero ⟨false, 0⟩ 47) ∧
    decodeMicro (0x05#5 ++ 0#1 ++ 0#3 ++ 1#6 ++ 25#6 ++ 0#6 ++ 8#10 ++ 1#3 ++ 1#1 ++ 1#12 ++ 1#1 ++ 0#8 ++ 27#6 ++ 0#60) = some (.mdrain ⟨false, 0⟩ 1 25 8 .rne true 1 true 27) ∧
    decodeMicro (0x06#5 ++ 0#1 ++ 0#3 ++ 1#6 ++ 3#6 ++ 0#9 ++ 0#1 ++ 0#97) = some (.msumrow ⟨false, 0⟩ false 1 3 0) ∧
    decodeMicro (0x06#5 ++ 0#1 ++ 0#3 ++ 1#6 ++ 0#6 ++ 5#9 ++ 1#1 ++ 0#97) = some (.msumrow ⟨false, 0⟩ true 1 0 5) ∧
    decodeMicro (0x07#5 ++ 0#1 ++ 0#3 ++ 1#6 ++ 0#6 ++ 0#9 ++ 0#2 ++ 0#36 ++ 2#6 ++ 0#54) = some (.macc ⟨false, 0⟩ 0 1 0 2) ∧
    decodeMicro (0x07#5 ++ 0#1 ++ 0#3 ++ 1#6 ++ 3#6 ++ 0#9 ++ 2#2 ++ 0#36 ++ 0#6 ++ 0#54) = some (.macc ⟨false, 0⟩ 2 1 3 0) ∧
    decodeMicro (0x08#5 ++ 0#1 ++ 0#3 ++ 4095#12 ++ 9#9 ++ 0#98) = some (.mloop ⟨false, 0⟩ 4095 9) ∧
    decodeMicro (0x09#5 ++ 0#1 ++ 0#3 ++ 0#6 ++ 3#6 ++ 0#9 ++ 1#7 ++ 126#7 ++ 0#84) = some (.mwaitt ⟨false, 0⟩ 3 1 126) ∧
    decodeMicro (0x0A#5 ++ 0#1 ++ 0#3 ++ 3#5 ++ 0xFFFF#16 ++ 1#1 ++ 0#97) = some (.mwaitb ⟨false, 0⟩ 3 0xFFFF true) ∧
    decodeMicro (0x0B#5 ++ 0#1 ++ 0#3 ++ 0#55 ++ 0x3F800000#32 ++ 1#32) = some (.msets ⟨false, 0⟩ 0x3F800000 1) ∧
    decodeMicro (0x0C#5 ++ 0#123) = some (.mend) := by
  refine ⟨?_, ?_, ?_, ?_, ?_, ?_, ?_, ?_, ?_, ?_, ?_, ?_, ?_, ?_⟩ <;> decide

/-! ## Ill-formed terms: one for each check (R89, R235) -/

/-- SA, SB and CTL: a field past bit 63, a comparand where none is used, a rounding where nothing rounds, an unassigned tile word and
control register, a loop body of no length, a register target with a displacement. -/
theorem test_illformed_scalar :
    ∀ i ∈ [Instr.bfx false 1 2 60 4, .bfi 1 2 63 1, .amos .add true 1 2 3 4, .cvt .fp32 .fp32 .rne 1 2, .tset 1 5 2, .mfc 1 0x0D,
      .mtc 0x1C 1, .mfc 1 0x24, .mtc 0xFF 1, .loop 3 0, .loopi 4 0, .jmp (some 3) 1, .call (some 3) 1], legal i = false := by
  decide

/-- VX and VY, arithmetic to moves: a format the instruction does not accept, a rounding of an integer form, a modifier past its
column, a used vb or mb where none is read. -/
theorem test_illformed_vector :
    ∀ i ∈ [Instr.vadd .e4m3 .rm (vop 1 2 3 0 0 none), .vsub .i32 .rne (vop 1 2 3 0 0 none), .vmul .fp32 .rm (vop 1 2 3 7 0 none),
      .vfma .i32 .rm (vop 1 2 3 0 0 none), .vmin .l8 (vop 1 2 3 0 0 none), .vmax .bf16 (vop 1 2 3 0 4 none),
      .vabs .n8 (vop 1 2 0 0 0 none), .vneg .fp32 (vop 1 2 3 0 0 none), .vmulh .fp32 (vop 1 2 3 0 0 none),
      .vdot4 .i16 (vop 1 2 3 0 0 none), .vand (vop 1 2 3 1 0 none), .vor (vop 1 2 3 0 1 none), .vxor (vop 1 2 3 1 1 none),
      .vnot (vop 1 2 3 0 0 none), .vshl .i32 true (vop 1 2 32 0 0 none), .vshr .fp32 false (vop 1 2 3 0 0 none),
      .vsar .i8 true (vop 1 2 3 0 1 none), .vcmp .i32 10 (vop 1 2 3 0 0 none), .vcmp .fp32 8 (vop 1 2 3 0 0 none),
      .vcmp .i32 0 (vop 16 2 3 0 0 none), .vcmpt .i16 .eq (vop 1 2 3 0 0 none), .vsel 0 (vop 1 2 3 1 0 none),
      .vcas .i32 0 (vop 1 1 4 0 0 none), .vcas .i32 0 (vop 1 2 5 0 0 none), .vmov .i32 (vop 1 2 3 0 0 none),
      .vbcast .i32 (vop 1 64 0 0 0 none), .vidx .fp32 (vop 1 0 0 0 0 none), .vidx .i32 (vop 1 2 0 0 0 none),
      .vperm (vop 1 2 3 1 0 none), .vrot false (vop 1 2 64 0 0 none), .vshuf (vop 1 2 13 0 0 none)], legal i = false := by
  decide

/-- VX and VY, reductions to the decoder FIFO; XF. -/
theorem test_illformed_vector_others :
    ∀ i ∈ [Instr.vredadd .i8 .rm (vop 1 2 0 0 0 none), .vredadd .i32 .rne (vop 1 2 0 0 0 none), .vredmax .i32 (vop 1 2 3 0 0 none),
      .vredmin .l4 (vop 1 2 0 0 0 none), .vscan .max .fp32 .rne (vop 1 2 0 0 0 none), .vexp2 .i32 .rm (vop 1 2 0 0 0 none),
      .vlog2 .fp32 .rm (vop 1 2 3 0 0 none), .vrcp .e5m2 .rm (vop 1 2 0 0 0 none), .vrsq .fp32 .rm (vop 1 2 0 0 1 none),
      .vcvt .fp32 .fp32 .rne (vop 1 2 0 0 0 none), .vcvt .i8 .fp32 .rm (vop 1 2 0 1 0 none), .vqnt .fp32 false .rm (vop 1 2 3 0 0 none),
      .vqnt .e4m3 true .rm (vop 1 2 3 0 0 none), .vdq .l8 true .rm (vop 1 2 3 0 0 none), .vsat .fp32 (vop 1 2 0 0 0 none),
      .vpack .i32 (vop 1 2 3 0 0 none), .vunpk .i8 false (vop 1 2 3 0 0 none), .vlmul .i8 (vop 1 2 3 0 0 none),
      .vllin .l8 (vop 1 2 0 4 0 none), .vpand (vop 16 2 3 0 0 none), .vpor (vop 1 32 3 0 0 none), .vpnot (vop 1 2 3 0 0 none),
      .vpcnt (vop 1 32 0 0 0 none), .vpfst (vop 1 2 1 0 0 none), .vld (vop 1 64 3 0 0 none), .vst (vop 1 2 64 0 0 none),
      .vgath .e2m1 (vop 1 2 3 0 0 none), .vscat .i32 (vop 1 2 3 0 0 (some ⟨0, false, true⟩)), .vpop (vop 1 2 0 0 0 none),
      .xexp 1 0 3, .xratio 0x7F, .xratio 0x1001, .xpack 3 1 .e4m3 .rm, .xpack 2 1 .fp32 .rm], legal i = false := by
  decide

/-- MEM, MX and the micro-instructions. -/
theorem test_illformed_memory_and_micro :
    ∀ i ∈ [Instr.ldt false true ⟨1, 0, 0, 0, 0, false, 0⟩, .ldts false true ⟨1, 0, 0, 0, 0, false, 0⟩,
      .amo .cas true false 1 2 3 4 5, .amo .add true true 1 2 3 4 0, .tlbi 3 false 0 0 0, .tlbi 1 false 2 3 0, .tlbi 0 false 0 3 0,
      .ldp 7 1 2 0, .stp 7 1 2 0, .keyz true 1, .mldstore 500 1 12, .mma ⟨false, 1⟩ 0 0 0 0 0 0 false, .mma ⟨false, 0⟩ 48 0 0 0 0 0 false,
      .mmas ⟨false, 0⟩ 0 0 0 0 0 0 false 0 48, .mldw ⟨false, 0⟩ 0 0 3 false 0, .mzero ⟨false, 0⟩ 63,
      .mdrain ⟨false, 0⟩ 48 0 0 .rm false 0 false 0, .msumrow ⟨false, 0⟩ false 0 0 1, .msumrow ⟨false, 0⟩ true 0 1 0,
      .macc ⟨false, 0⟩ 3 0 0 0, .macc ⟨false, 0⟩ 0 0 1 0, .macc ⟨false, 0⟩ 1 0 1 1, .mloop ⟨true, 0⟩ 1 2,
      .mwaitt ⟨false, 0⟩ 0 1 127, .mwaitb ⟨false, 7⟩ 0 0 false, .msets ⟨true, 0⟩ 1 0], legal i = false := by
  decide

/-! ## One step -/

/-- Core 0 of a package just reset, running, as f leaves it, with its slot j acting in cycle 100. -/
def onCore (j : Nat) (f : Core → Core) : State :=
  { updCore State.reset 0 (fun c => f { c with run := .running }) with
    cur := { Ctx.none with slot := j }, tick := 100, gcyc := 100 }

/-- Core 0 with scalar registers of its primary stream. -/
def withS (j : Nat) (l : List (Nat × Word)) : State :=
  onCore j fun c => { c with arch := { c.arch with pri := { c.arch.pri with s := l } } }

/-- Whether an outcome is a next state of which p holds. -/
def answers (o : Host.Outcome State Fault Refusal) (p : State → Bool) : Bool :=
  match o with
  | .next t => p t
  | _ => false

/-- The write that core 0 has on its way last: the cycle it lands in and its value. -/
def lastWrite (t : State) : Option (Nat × RegWrite) := (coreOf t 0).landing.getLast?.map fun x => (x.due, x.w)

/-- Whether i writes v to scalar register 1, l cycles after issue. -/
def writes (i : Instr) (s : State) (l : Nat) (v : Word) : Bool :=
  answers (exec i s) fun t => decide (lastWrite t = some (100 + l, .s false 1 v))

/-- Whether i at its slot asks for a precise trap. -/
def traps (i : Instr) (s : State) (cause : Nat) (i2 : Word) : Bool :=
  answers (exec i s) fun t => (coreOf t 0).ptrap.any fun p => decide (p.cause = cause) && decide (p.info2 = i2)

/-- R146's table: wraps, signs, the corners of DIV and REM. -/
theorem test_integer_corners :
    writes (.add 1 2 3) (withS 0 [(2, 0xFFFFFFFFFFFFFFFF), (3, 2)]) 1 1 = true ∧
    writes (.sub 1 2 3) (withS 0 [(3, 1)]) 1 0xFFFFFFFFFFFFFFFF = true ∧
    writes (.mulh false 1 2 3) (withS 0 [(2, 0xFFFFFFFFFFFFFFFF), (3, 2)]) 3 0xFFFFFFFFFFFFFFFF = true ∧
    writes (.mulh true 1 2 3) (withS 0 [(2, 0xFFFFFFFFFFFFFFFF), (3, 2)]) 3 1 = true ∧
    writes (.div false 1 2 3) (withS 0 [(2, 7)]) 20 0xFFFFFFFFFFFFFFFF = true ∧
    writes (.div false 1 2 3) (withS 0 [(2, 0x8000000000000000), (3, 0xFFFFFFFFFFFFFFFF)]) 20 0x8000000000000000 = true ∧
    writes (.rem false 1 2 3) (withS 0 [(2, 0xFFFFFFFFFFFFFFF9), (3, 4)]) 20 0xFFFFFFFFFFFFFFFD = true ∧
    writes (.sar 1 2 (.imm 60)) (withS 0 [(2, 0x8000000000000000)]) 1 0xFFFFFFFFFFFFFFF8 = true ∧
    writes (.rot 1 2 (.reg 3)) (withS 0 [(2, 1), (3, 0x41)]) 1 0x8000000000000000 = true ∧
    writes (.clz 1 2) (withS 0 []) 1 64 = true ∧ writes (.popc 1 2) (withS 0 [(2, 0xF0F)]) 1 8 = true ∧
    writes (.cmp .ltn 1 2 3) (withS 0 [(2, 1), (3, 0xFFFFFFFFFFFFFFFF)]) 1 1 = true ∧
    writes (.cmp .lt 1 2 3) (withS 0 [(2, 1), (3, 0xFFFFFFFFFFFFFFFF)]) 1 0 = true := by
  refine ⟨?_, ?_, ?_, ?_, ?_, ?_, ?_, ?_, ?_, ?_, ?_, ?_, ?_⟩ <;> decide +kernel

/-- R147: the three constants that build 0x123456789ABCDEF0, and R148's fields. -/
theorem test_constants_and_fields :
    writes (.movi 1 0x7FFFFFF) (withS 0 []) 1 0xFFFFFFFFFFFFFFFF = true ∧
    writes (.movhi 1 0x7C00000) (withS 0 [(1, 15)]) 1 0x7FC00000 = true ∧
    writes (.bfx true 1 2 4 3) (withS 0 [(2, 0xF0)]) 1 0xFFFFFFFFFFFFFFFF = true ∧
    writes (.bfi 1 2 8 7) (withS 0 [(1, 0xFFFFFF), (2, 0x1AB)]) 1 0xFFABFF = true := by
  refine ⟨?_, ?_, ?_, ?_⟩ <;> decide +kernel

/-- Bits of FP32 and FP64 (R112, R153): 1.5 + 2.25, 1 / 3 under rne and under rup, the root of 2, NaN compares unordered. -/
theorem test_scalar_floats :
    writes (.fadd false .rne 1 2 3) (withS 0 [(2, 0x3FC00000), (3, 0x40100000)]) 4 0x40700000 = true ∧
    writes (.fdiv false .rne 1 2 3) (withS 0 [(2, 0x3F800000), (3, 0x40400000)]) 16 0x3EAAAAAB = true ∧
    writes (.fdiv true .rtz 1 2 3) (withS 0 [(2, 0x3FF0000000000000), (3, 0x4008000000000000)]) 28 0x3FD5555555555555 = true ∧
    writes (.fsqrt false .rne 1 2) (withS 0 [(2, 0x40000000)]) 16 0x3FB504F3 = true ∧
    writes (.fcmp .ne false 1 2 3) (withS 0 [(2, 0x7FC00000), (3, 0x7FC00000)]) 2 1 = true ∧
    writes (.cvt .i32 .fp32 .rtz 1 2) (withS 0 [(2, 0xC0200000)]) 3 0xFFFFFFFFFFFFFFFE = true := by
  refine ⟨?_, ?_, ?_, ?_, ?_, ?_⟩ <;> decide +kernel

/-- R150: alignment before bound; a privileged instruction at app level (R19); HALT at kernel level. -/
theorem test_precise_traps :
    traps (.lds 1 2 3 false 0) (withS 0 [(2, 0xFFFFFFFFFFFFFFF9)]) 12 0xFFFFFFFFFFFFFFF9 = true ∧
    traps (.sts 1 2 2 0) (withS 0 [(2, 0x200000)]) 13 0x200000 = true ∧
    traps (.otw 1 2) (withS 5 []) 4 0 = true ∧ traps (.keyz true 0) (withS 5 []) 4 0 = true ∧
    traps (.lbrk .eq 1) (withS 8 []) 15 0 = true ∧ traps (.loop 1 3) (withS 8 [(1, 0x100000000)]) 16 0 = true := by
  refine ⟨?_, ?_, ?_, ?_, ?_, ?_⟩ <;> decide +kernel

/-- The step that the host's questions make: the field stands where the next step runs it. -/
theorem test_fetch :
    answers (step (State.reset.withFetchWord 40 0x0610400001)) (fun t => decide (lastWrite t = some (1, .s false 2 1))) = true ∧
    answers (step (State.reset.withFetchWord 40 0x3C00000001)) (fun t => (coreOf t 0).ptrap.any fun p => decide (p.cause = 35 ∧ p.info0 = 1)) = true ∧
    answers (step (State.reset.withFetchWord 24 0x100800)) (fun t => decide (lastWrite t = some (1, .xratio 0x100))) = true ∧
    answers (step (State.reset.withFetchWord 128 0x60000000000000000000000000000000)) (fun t =>
      decide ((coreOf t 0).arch.seq.mend = some 0)) = true := by
  refine ⟨?_, ?_, ?_, ?_⟩ <;> decide +kernel

/-! ## Vectors, the scratchpad, exceptions -/

/-- Core 0 with vector registers and predicates. -/
def withV (j : Nat) (v : List (Nat × VReg)) (p : List (Nat × PReg)) : State :=
  onCore j fun c => { c with arch := { c.arch with v := v, p := p } }

/-- Core 0 once every write on its way has landed. -/
def landed (o : Host.Outcome State Fault Refusal) : Core :=
  match o with
  | .next t => (List.range 30).foldl (fun c i => landAll c (100 + i)) (coreOf t 0)
  | _ => Core.reset

/-- The first n lanes of vector register v, once landed. -/
def lanesOf (o : Host.Outcome State Fault Refusal) (v n : Nat) : List Nat :=
  let x := (tblGet (0 : VReg) (landed o).arch.v v).toNat
  (List.range n).map fun i => elemAt 32 x i

/-- R202's table: lanes 0 to 4 of v10, v11 and px3 under px1, with v300 and v301. -/
def vcasState : State :=
  withV 2 [(10, lanes [0x40000000, 0x3F800000, 0x7FC00000, 0x80000000, 0x40C00000]),
    (11, lanes [0x40400000, 0x3F800000, 0xFF800000, 0, 0x40E00000]), (300, lanes [5, 4, 0, 1, 8]), (301, lanes [9, 2, 7, 3, 2])]
    [(1, 0xF), (3, 0x10)]

theorem test_vcas_table :
    let o := exec (.vcas .fp32 3 (vop 10 11 300 0 0 (some ⟨1, false, false⟩))) vcasState
    lanesOf o 10 5 = [0x40400000, 0x3F800000, 0xFF800000, 0x80000000, 0x40C00000] ∧
    lanesOf o 11 5 = [0x40000000, 0x3F800000, 0x7FC00000, 0, 0x40E00000] ∧
    (tblGet (0 : PReg) (landed o).arch.p 3).extractLsb' 0 5 = 0b10111#5 := by
  refine ⟨?_, ?_, ?_⟩ <;> decide +kernel

/-- R127: a generator at 1 steps to 0x40822041. -/
theorem test_xorshift : xorshiftStep 1 = 0x40822041 := by decide +kernel

/-- Elements of lanes (R183, R191): VADD.i16 does not carry between halves; VSHR by the width is 0 (R197). -/
theorem test_vector_elements :
    lanesOf (exec (.vadd .i16 .rm (vop 1 2 3 0 0 none)) (withV 2 [(2, lanes [0x0001FFFF]), (3, lanes [0x00010001])] [])) 1 1 = [0x00020000] ∧
    lanesOf (exec (.vshr .n8 true (vop 1 2 8 0 0 none)) (withV 2 [(2, lanes [0xFFFFFFFF])] [])) 1 1 = [0] ∧
    lanesOf (exec (.vredadd .i32 .rm (vop 1 2 0 0 0 none)) (withV 2 [(2, lanes [1, 2, 3, 0xFFFFFFFF])] [])) 1 2 = [5, 5] ∧
    lanesOf (exec (.vllin .l4 (vop 1 2 0 0 0 none)) (withV 2 [(2, lanes [0x0C])] [])) 1 1 = [0x40800000] := by
  refine ⟨?_, ?_, ?_, ?_⟩ <;> decide +kernel

/-- R218's example: VLMUL.l8 of 0x4D by 0x4D writes 0x009A, and VLLIN.l8 of it 0x411837F0. -/
theorem test_log_multiply :
    lanesOf (exec (.vlmul .l8 (vop 1 2 3 0 0 none)) (withV 2 [(2, lanes [0x4D]), (3, lanes [0x4D])] [])) 1 1 = [0x009A] ∧
    lanesOf (exec (.vllin .l8 (vop 1 2 0 0 0 none)) (withV 2 [(2, lanes [0x9A])] [])) 1 1 = [0x411837F0] := by
  refine ⟨?_, ?_⟩ <;> decide +kernel

/-- Core 0 with a bundle of the empty kind at offset 5 of its stream, and the word of vector v naming a stream at 0x20000. -/
def atVector (v : Nat) : State :=
  let d : Disp := { bits := 0, pri := some 5, sec := none, secMask := 0, done := 0, lit := false, secLit := false, tick := 90,
                    age := 3, entry := false, halt := false, pre := [] }
  { onCore 8 (fun c => { c with queue := [d], pos := List.replicate 9 0, ktvb := 0x10000 }) with
    cur := { Ctx.none with slot := 8, off := 5, age := 3 }
    zones := [(72, { Zone.reset with power := true })]
    mem := memWrite [] (0x10000 + 8 * v) (bytesOf (3 * 2 ^ 52 + 0x20000) 8) }

/-- The state after an instruction and then an event for core 0. -/
def after (s : State) (i : Instr) (e : Instr) : State :=
  match exec i s with
  | .next t => (match exec e { t with ev := { Ev.none with core := 0 } } with | .next u => u | _ => s)
  | _ => s

/-- TRAP 7 at offset 5 is taken at the cycle's end (R181, R313, R317): kernel level, the cause 35 with slot CTL in the frame, the code in
trapinfo0, the place in trapinfo1, decode at the vector's stream. -/
theorem test_trap_entry :
    let t := after (atVector 35) (.trap 7) .trapEntry
    let c := coreOf t 0
    c.level = 1 ∧ c.intrap = true ∧ c.ie = false ∧ (tblGet (0 : Word) c.trapinfo 0) = 7 ∧ (tblGet (0 : Word) c.trapinfo 1) = 5 ∧
    (physWord t 0x10210).extractLsb' 0 12 = 0x823#12 ∧ c.arch.pri.next = 0 ∧ c.phys = [(0x20000, 3 * 512)] := by
  refine ⟨?_, ?_, ?_, ?_, ?_, ?_, ?_, ?_⟩ <;> decide +kernel

/-- KRET from that handler goes back to app level, with s24 as the frame has it (R318, R319). -/
theorem test_kret :
    let t := after (atVector 35) (.trap 7) .trapEntry
    let u := { t with mem := memWrite t.mem 0x10300 (bytesOf 77 8), cur := { Ctx.none with slot := 8 } }
    answers (exec .kret u) (fun w => decide ((coreOf w 0).level = 0 ∧ (coreOf w 0).intrap = false ∧
      tblGet (0 : Word) (coreOf w 0).arch.pri.s 24 = 77 ∧ (coreOf w 0).issueFrom = 121)) = true := by
  decide +kernel

/-- A vector whose word holds no length is a machine check of reason 6 (R312): the core stops and a record is posted. -/
theorem test_bad_vector :
    let t := after (atVector 36) (.trap 7) .trapEntry
    (coreOf t 0).run = .machineChecked ∧ (dieOf t 0).recs.map (fun r => (r.kind, r.code)) = [(4, 6)] := by
  refine ⟨?_, ?_⟩ <;> decide +kernel

/-- AMOS performs in c + 5 (R152): the old value lands a cycle later, the sum stands in the scratchpad. -/
theorem test_amos :
    let c := { Core.reset with arch := { Arch.reset with scratch := memWrite [] 0x200 (bytesOf 5 8) } }
    let d := runStore c 105 { due := 105, group := slotGroup, order := 0, sec := false, k := .amos false 9 0x200 8 .add 2 0 106 false }
    memRead d.arch.scratch 0x200 8 = 7 ∧ d.landing.map (fun x => (x.due, x.w)) = [(106, RegWrite.s false 9 5)] := by
  refine ⟨?_, ?_⟩ <;> decide +kernel

/-- A write of the value that an unlisted byte reads as removes its entry (Memory's canonical form). -/
theorem test_memory_form : memWrite (memWrite [] 5 [1, 2, 3]) 6 [0] = [(5, 1), (7, 3)] ∧ Memory.wf [(5, 1), (5, 3)] = false ∧
    Memory.wf [(5, 0)] = false := by decide

end Sys2Proof.Machine.Tests
end

