-- ==== Sys2Proof/Tests/Witness.lean ====
section
/-! SUPPORT. States and operands that meet the hypotheses of the statements on instructions, each clause at a boundary value. -/

namespace Sys2Proof.Machine.Tests

set_option Elab.async false

/-! ## A state in which the statements' hypotheses are met

Core 0 of a package just reset, running at app level in cycle 100, with registers, tiles, a generator and a handle such that the
instructions' checks pass. -/

/-- A tile's control word: seq and exp 0, not armed. -/
def ctl (fmt rows cols base : Nat) : Word :=
  BitVec.ofNat 64 (fmt * 2 ^ 33 + (rows - 1) * 2 ^ 26 + (cols - 1) * 2 ^ 16 + base)

/-- A tile with the chunks of a map complete. -/
def tile (w : Word) (map : Nat) : Tile := { Tile.reset with ctl := w, map := BitVec.ofNat 128 map }

/-- A core with scalar registers, tiles, generator 0 over rows of 32 and handle 1 with all rights, as f leaves it. -/
def core0 (f : Core → Core) (c : Core) : Core :=
  f { c with
    run := .running
    dom := 1
    hcount := 8
    launch := some 1
    queue := [{ bits := 0, pri := some 0, sec := none, secMask := 0, done := 0, lit := false, secLit := false, tick := 90,
                age := 0, entry := false, halt := false, pre := [] }]
    pos := List.replicate 9 0
    arch := { c.arch with
      pri := { c.arch.pri with
        live := true
        s := [(2, 8), (3, 2), (4, 0x400), (5, 0xF), (6, 3), (7, 3), (8, 2 ^ 32), (9, 4196), (10, 200), (11, 96), (12, 0xFFFF)]
        g := [(1, 0x1F9), (2, 0x2000000080)] }
      v := [(2, lanes [1, 2, 3])]
      p := [(0, BitVec.allOnes 512), (2, 1)]
      h := [(1, 0x10000007), (2, 0x10000000)]
      tiles := [(1, tile (ctl 0 16 32 16) 0xF), (2, tile (ctl 0 16 32 32) 0), (3, tile (ctl 0 32 16 48) 0),
                (4, tile (ctl 3 16 32 64) 0), (5, tile (ctl 13 16 1 80) 0), (6, tile (ctl 10 16 1024 96) 0xFFFFFFFF),
                (7, { tile (ctl 0 16 32 112) 0 with prod := .fabric, ctl := ctl 0 16 32 112 ||| 0x2000000000 }),
                (8, { tile (ctl 0 16 32 128) 0xF with pois := 1 }), (9, tile (ctl 0 16 32 144 ||| 0x10000000000000) 0xF |> fun t => { t with cmp := true }),
                (10, tile (ctl 1 128 128 160) 0xFFFFFFFFFFFFFFFF), (11, tile (ctl 10 16 128 256) 0xF)]
      mp := []
      fifo := [1, 2, 3, 4] } }

/-- That state with slot j acting. -/
def rich (j : Nat) (f : Core → Core) : State :=
  { updCore State.reset 0 (core0 f) with cur := { Ctx.none with slot := j }, tick := 100, gcyc := 100 }

/-- The acting core at kernel level. -/
def kernel (c : Core) : Core := { c with level := 1 }

/-! ## Witnesses: states and operands that meet the hypotheses, clause by clause -/

theorem witness_ReadsAndLandings :
    sOwner 31 = (rich 0 id).cur.slot ∧
    (∀ x ∈ [({ due := 5, age := 0, slot := 0, sec := false, w := .s false 1 7 } : Landing)], x.due ≤ 5) ∧ (511 : Nat) < 512 := by decide +kernel

theorem witness_ConstantsAndFields :
    (63 : BitVec 6).toNat + (0 : BitVec 6).toNat + 1 ≤ 64 ∧ 64 < (63 : BitVec 6).toNat + (1 : BitVec 6).toNat + 1 ∧
    (0x7FFFFFFF : Word).toNat < 2 ^ 31 := by decide

/-- Each clause of R150 at its boundary: the last byte inside, the first outside, at an even and at an odd address. -/
theorem witness_ScratchpadFaults :
    let a := readS (withS 0 [(2, 0x1FFFFC)])
    (a 2).toNat % 8 ≠ 0 ∧ ((a 2).toNat % 4 = 0 ∧ ¬ (a 2).toNat + 4 > 2048 * 1024) ∧
    ((a 2 + 4).toNat % 4 = 0 ∧ (a 2 + 4).toNat + 4 > 2048 * 1024) ∧ (a 3).toNat % 8 = 0 := by decide +kernel

theorem witness_ScratchpadAccess :
    let s := rich 0 id
    ((readS s 2 + (0 : BitVec 18).signExtend 64).toNat % 8 = 0 ∧ (readS s 2).toNat + 8 ≤ scratchSize s.cur.core) ∧
    (∃ x : PendSample, x.k = .lds false 1 8 8 true ∧ x.held = false) ∧ (∃ x : Store, x.k = .bytes 8 [1]) ∧
    ∃ x : Store, x.k = .amos false 1 8 8 .cas 2 3 106 false := by
  refine ⟨by decide +kernel, ⟨{ due := 1, land := 2, held := false, age := 0, slot := 0, sec := false, k := _ }, rfl, rfl⟩,
    ⟨{ due := 1, group := 3, order := 0, sec := false, k := _ }, rfl⟩, ⟨{ due := 1, group := 3, order := 0, sec := false, k := _ }, rfl⟩⟩

/-- fmt.rm 4 is rst, 5 to 7 name no mode. -/
def withFmt (j : Nat) (w : Word32) : State := rich j fun c => { c with arch := { c.arch with pri := { c.arch.pri with fmt := w } } }

theorem witness_FloatResults :
    (∃ m, resolveRm .rtz (readFmt (rich 0 id)) = some m ∧ m ≠ .rst) ∧ resolveRm .rst (readFmt (rich 0 id)) = some .rst := by
  refine ⟨⟨.rtz, by decide +kernel, by decide⟩, by decide +kernel⟩

theorem witness_FloatCompareConvert :
    cvtRoundsNothing .i64 .i32 = true ∧ cvtRoundsNothing .fp32 .fp64 = false ∧ resolveRm .rne (readFmt (rich 0 id)) = some .rne ∧
    resolveRm .rm (readFmt (withFmt 0 0x38000)) = none := by decide +kernel

theorem witness_ControlRegisters :
    levelOf 0 (cc (rich 0 id)) = 0 ∧ levelOf 0 (cc (rich 0 kernel)) ≠ 0 ∧ ((0x20 : BitVec 8).toNat = 0x08 ∨ 0x20 ≤ (0x20 : BitVec 8).toNat) ∧
    ¬((0x1B : BitVec 8).toNat = 0x08 ∨ (0x1B : BitVec 8).toNat = 0x0C ∨ 0x20 ≤ (0x1B : BitVec 8).toNat) := by decide +kernel

/-- Handle 4 of core 0 names object 1 of package 1; the die's unit holds a copy of its entry, live, of generation g. -/
def holding (g : Nat) : State :=
  updDie (rich 0 fun c => { c with arch := { c.arch with h := (4, 0x10000010000007) :: c.arch.h } }) 0 fun y =>
    { y with rescache := [(2 ^ 36 + 2 ^ 24 + 1, [BitVec.ofNat 64 (2 ^ 62 + g * 2 ^ 46), 0, 0, 0, 0, 0, 0, 0])] }

/-- Where the free choice lets the unit answer, the entry it holds is of the handle's generation, or of another; else it is asked for at
its home, once. -/
theorem witness_Handles :
    levelOf 0 (cc (rich 0 kernel)) ≠ 0 ∧ (rich 0 fun c => { c with hReload := 101 }).tick < (cc (rich 0 fun c => { c with hReload := 101 })).hReload ∧
    (cc (rich 0 id)).hReload ≤ (rich 0 id).tick ∧
    (0 < (readS (rich 0 id) 3).toNat ∧ (readS (rich 0 id) 3).toNat < min (cc (rich 0 id)).hcount 256) ∧ (readS (rich 0 id) 1).toNat = 0 ∧
    min (cc (rich 0 id)).hcount 256 ≤ (readS (rich 0 id) 2).toNat ∧ hIndex (readH (rich 0 id) 3) = 0 ∧ hIndex (readH (rich 0 id) 1) ≠ 0 ∧
    (∀ g, pickBit (holding g) 0 1 = true → heldEntry (holding g) (readH (holding g) 4) =
      some [BitVec.ofNat 64 (2 ^ 62 + g * 2 ^ 46), 0, 0, 0, 0, 0, 0, 0]) ∧
    eGen [BitVec.ofNat 64 (2 ^ 62), 0, 0, 0, 0, 0, 0, 0] = hGen (readH (holding 0) 4) ∧
    eGen [BitVec.ofNat 64 (2 ^ 62 + 2 ^ 46), 0, 0, 0, 0, 0, 0, 0] ≠ hGen (readH (holding 1) 4) ∧
    (heldEntry (rich 0 id) (readH (rich 0 id) 1) = none ∧ hHome (readH (rich 0 id) 1) = (rich 0 id).pkg.toNat) ∧
    (hHome (readH (holding 0) 4) ≠ (holding 0).pkg.toNat ∧ hHome (readH (holding 0) 4) ≤ 2303 ∧ (holding 0).reqs = [] ∧
      2303 < hHome (0xFFF0000010000007 : Word)) := by
  refine ⟨?_, ?_, ?_, ?_, ?_, ?_, ?_, ?_, ?_, ?_, ?_, ?_, ?_⟩
  case refine_9 =>
    intro g h
    have e : coreDie (holding g).cur.core = 0 := by show coreDie 0 = 0; decide
    have k : cc (holding g) = cc (holding 0) := by simp only [holding, cc, coreOf, updDie, setDie]
    have t : (holding g).tick = (holding 0).tick ∧ (holding g).cur = (holding 0).cur := by simp only [holding, updDie, setDie, and_self]
    have x : readH (holding g) 4 = 0x10000010000007 := by rw [readH, crossRead, k, t.1, t.2]; decide +kernel
    have p : resKey (holding g) 0x10000010000007 = 2 ^ 36 + 2 ^ 24 + 1 := by rw [resKey, show (holding g).pkg = 0 from rfl]; decide +kernel
    have d : (dieOf (holding g) 0).rescache = [(2 ^ 36 + 2 ^ 24 + 1, [BitVec.ofNat 64 (2 ^ 62 + g * 2 ^ 46), 0, 0, 0, 0, 0, 0, 0])] := rfl
    have i : hIndex (0x10000010000007 : Word) = 1 := by decide +kernel
    have n : ¬ hHome (0x10000010000007 : Word) = (holding g).pkg.toNat := by show ¬ hHome _ = 0; decide +kernel
    rw [heldEntry, x, p, e, d, i]
    simp [h]; exact fun q => absurd q n
  all_goals decide +kernel

theorem witness_Generators :
    genBad 0x1F9 (fun d => (tblGet (0 : Word) (strmOf (cc (rich 0 id)) false).g (2 + d)).toNat % 2 ^ 32) = false ∧
    ((0 : Word).toNat % 8 = 0 ∧ (7 : Word).toNat % 8 = 7) ∧ tBusy (tileOf (cc (rich 0 id)) 7) = true ∧
    tBusy (tileOf (cc (rich 0 id)) 1) = false ∧ (descBad 0 (ctl 0 16 32 16) = false ∧ tState (ctl 0 16 32 16) ≠ 2) ∧
    descBad 0 (ctl 15 1 1 0) = true ∧ (1 : Nat) ≤ ({ base := 0, phase := 0, w1 := 0x1F9, dims := [(128, 32)] } : Gen).dims.length ∧
    (127 : Nat) < 128 := by decide +kernel

theorem witness_VectorIntegers :
    isInt .n8 = true ∧ modsChk (rich 2 id) .n8 (vop 1 2 3 7 4 none) = .ok ∧ modsChk (rich 2 id) .i32 (vop 1 2 3 6 0 none) = .ok := by
  decide +kernel

theorem witness_VectorFloats :
    isInt .fp32 = false ∧ modsChk (rich 2 id) .fp32 (vop 1 2 3 0 0 none) = .ok ∧ resolveRm .rdn (readFmt (rich 2 id)) = some .rdn ∧
    resolveRm .rst (readFmt (rich 2 id)) = some .rst ∧ roundsNothing (fmtNty .bf16) (fmtNty .fp32) = false ∧
    modChk (readFmt (rich 2 id)) .fp32 false 0 = .ok ∧ fmtWidth .fp32 = 32 ∧ fmtWidth .fp16 = 16 := by decide +kernel

theorem witness_VectorSelects :
    modsChk (rich 2 id) .i32 (vop 1 2 3 0 0 none) = .ok ∧ modChk (readFmt (rich 2 id)) .i8 true 7 = .ok := by decide +kernel

theorem witness_VectorPermutes : (12 : BitVec 9).toNat % 16 ≤ 12 ∧ fmtWidth .i8 ≠ 32 ∧ fmtWidth .e2m1 ≠ 32 := by decide

theorem witness_VectorReductions :
    modChk (readFmt (rich 2 id)) .bf16 true 3 = .ok ∧ isInt .i16 = true ∧ resolveRm .rne (readFmt (rich 2 id)) = some .rne ∧
    (CombOp.max ≠ .add) := by decide +kernel

theorem witness_VectorConversions :
    resolveRm .rup (readFmt (rich 2 id)) = some .rup ∧ modChk (readFmt (rich 2 id)) .fp16 true 3 = .ok ∧
    roundsNothing (fmtNty .i8) (fmtNty .fp32) = false ∧ roundsNothing (fmtNty .fp32) (fmtNty .fp32) = true ∧
    modsChk (rich 2 id) .fp32 (vop 1 2 3 1 2 none) = .ok ∧ isInt .n8 = true ∧ fmtNty .e4m3 = .flt .e4m3 ∧
    logPairChk (readFmt (rich 2 id)) = .ok := by decide +kernel

/-- Row 15 is the tile's last, 16 the first that it has not. -/
theorem witness_VectorMemory :
    let t (n : Nat) := tileOf (cc (rich 2 id)) n
    (15 < tRows (t 1).ctl ∧ (t 1).map &&& chunkMask (15 * 128) (16 * 128) = chunkMask (15 * 128) (16 * 128) ∧ (t 1).pois = 0) ∧
    (2 < tRows (t 2).ctl ∧ tBusy (t 2) = false ∧ (t 2).map &&& chunkMask 256 384 ≠ chunkMask 256 384) ∧ ¬ 16 < tRows (t 1).ctl ∧
    lanesChk (rich 2 id) 1 (laneAddrs (rich 2 id) (vop 1 2 2 0 0 none)) = .ok ∧ 4 ≤ (cc (rich 2 id)).arch.fifo.length ∧
    (cc (rich 2 fun c => { c with arch := { c.arch with fifo := [1, 2, 3] } })).arch.fifo.length < 4 := by decide +kernel

theorem witness_Transforms :
    let s := rich 4 id
    chkXtrn 3 1 s = .ok ∧ chkXcvt 4 1 .e4m3 .rne s = .ok ∧ xcvtRounds s 1 .e4m3 = true ∧ chkXcvt 2 1 .fp32 .rm s = .ok ∧
    chkXpack 4 1 .e4m3 .rst s = .ok ∧ chkXtrn 2 1 s ≠ .ok := by decide +kernel

/-- A full tile of 1,024 bytes zeros expands under codec 1 with rate 0x200; the scratchpad's first block of codec 2 wants 128 bytes. -/
def fifo (n : Nat) : State := rich 4 fun c => { c with arch := { c.arch with xratio := 0x200, fifo := List.replicate (n / 512) 0 } }

theorem witness_Expansion :
    srcChk (fifo 0) 11 = .ok ∧ (∃ b, expResult (fifo 0) 11 0 1 = .ok b) ∧ fifoBytes (cc (fifo 0)) + 512 * 8 ≤ 65536 ∧
    (∃ b, expResult (fifo 0) 11 0 0 = .error b) ∧ fifoBytes (cc (fifo 65536)) + 512 * 8 > 65536 ∧
    (∃ b, expResult (fifo 65536) 11 0 1 = .ok b) ∧ (511 : Nat) < 512 := by
  refine ⟨by decide +kernel, ?_, by decide +kernel, ?_, by decide +kernel, ?_, by decide⟩
  · exact ⟨_, rfl⟩
  · exact ⟨_, rfl⟩
  · exact ⟨_, rfl⟩

/-- A transform of one tile of 2,048 bytes, two beats, and an expansion of one block. -/
def beating (n : Nat) : State :=
  { rich 4 (fun c => { c with
      xfJobs := [{ key := 7, instr := .xtrn 3 1, ta := ctl 0 16 32 16, td := ctl 0 32 16 48, td1 := 0, mode := .rne, fmt := 0, seed := 1, gap := 1 }]
      expJobs := [{ key := 7, blocks := [0] }] }) with ev := { Ev.none with core := 0, id := 7, n := n } }

theorem witness_BeatsAndBlocks :
    let found (n : Nat) := (coreOf (beating n) 0).xfJobs.find? fun j => decide (j.key = (beating n).ev.id)
    (∃ j, found 0 = some j ∧ (beating 0).ev.n + 1 < (tSize j.td + 1023) / 1024) ∧
    (∃ j, found 1 = some j ∧ (tSize j.td + 1023) / 1024 ≤ (beating 1).ev.n + 1) ∧
    (∃ j b r, (coreOf (beating 0) 0).expJobs.find? (fun j => decide (j.key = (beating 0).ev.id)) = some j ∧ j.blocks = b :: r) ∧
    (coreOf (rich 4 id) 0).xfJobs.find? (fun j => decide (j.key = 0)) = none := by
  refine ⟨⟨_, rfl, by decide +kernel⟩, ⟨_, rfl, by decide +kernel⟩, ⟨_, _, _, rfl, rfl⟩, rfl⟩

/-- Operands of a tile transfer: tile t by handle 1 and generator 0 over the scalars 4 and 8 as its coordinates. -/
def op (t : BitVec 6) (h : BitVec 5) : TileOp := { td := t, hh := h, sx := 4, sy := 0, gg := 0, tr := false, cst := 0 }

theorem witness_TileTransfers :
    let s := rich 3 id
    chkLdt true false (op 2 1) s = .ok ∧ chkLdts true true (op 2 1) s = .ok ∧ handleChk (readH s 1) 0 = .ok ∧
    chkLdts false false (op 2 3) s = .ok ∧ handleChk (readH s 3) 0 ≠ .ok ∧ chkPft (op 2 1) s = .ok ∧ chkStt (op 1 1) s = .ok ∧
    (15 < tRows (ctl 0 16 32 16) ∧ 31 < tCols (ctl 0 16 32 16)) := by decide +kernel

theorem witness_TileMoves :
    let s := rich 3 id
    let x (n : Nat) := tileOf (cc s) n
    chkTmovIn 2 4 0 0 s = .ok ∧ chkTmovOut 1 4 0 0 s = .ok ∧ (readS s 0 ++ readS s 0 : BitVec 128) = 0 ∧
    chkChkpT 1 5 0 s = .ok ∧ chkChkpQ 1 5 0 0 s = .ok ∧ (readS s 0 ++ readS s 5 : BitVec 128) ≠ 0 ∧
    8 * (0x3FFFE : BitVec 18).toNat + 16 ≤ scratchSize 0 ∧
    ((x 2).map &&& (readS s 0 ++ readS s 5) ≠ readS s 0 ++ readS s 5) ∧ ((x 9).cmp = true ∧ tSeq (x 9).ctl ≠ tExp (x 9).ctl) ∧
    ((x 8).map &&& (readS s 0 ++ readS s 5) = readS s 0 ++ readS s 5 ∧ (x 8).pois &&& (readS s 0 ++ readS s 5) ≠ 0 ∧ (x 8).inSeg = false) ∧
    (tmovChk s 7 4 0 0 = .ok ∧ descBad 0 (x 7).ctl = false ∧ tBusy (x 7) = true) := by decide +kernel

/-- Scalar registers over those of core0. -/
def regs (l : List (Nat × Word)) (c : Core) : Core :=
  { c with arch := { c.arch with pri := { c.arch.pri with s := l ++ c.arch.pri.s } } }

/-- One tile over those of core0. -/
def withTile (n : Nat) (t : Tile) (c : Core) : Core := { c with arch := { c.arch with tiles := (n, t) :: c.arch.tiles } }

/-- Rows of an e2m1 tile at element 1 stand at bit 4; at element 2^32 past every scratchpad. -/
theorem witness_TileMoveRows :
    let s (v : Word) := rich 3 fun c => withTile 2 (tile (ctl 5 16 32 32) 0) (regs [(13, v)] c)
    (genChk (s 1) 0 (genOf (s 1) 0 1 0) 16 = .ok ∧ ∃ b r, tmovRows (s 1) 2 13 0 0 = b :: r ∧ b % 8 ≠ 0) ∧
    genChk (s 0x40000000) 0 (genOf (s 0x40000000) 0 0x40000000 0) 16 = .ok ∧ ∃ b r, tmovRows (s 0x40000000) 2 13 0 0 = b :: r ∧
      b % 8 = 0 ∧ (BitVec.ofInt 64 (b / 8)).toNat + 16 > 2048 * 1024 := by
  refine ⟨⟨by decide +kernel, _, _, rfl, by decide +kernel⟩, by decide +kernel, _, _, rfl, by decide +kernel, by decide +kernel⟩

/-- A gang core that has not issued its first rendezvous. -/
def inGang (c : Core) : Core := { c with gangWait := true }

theorem witness_AtomicsAndBarriers :
    let s := rich 3 (withTile 1 (tile (ctl 0 16 32 16 ||| 0x2000000000) 0xF))
    chkAmo .cas true true 1 4 2 1 0 s = .ok ∧ chkAmo .add false false 1 4 2 1 255 s = .ok ∧ chkRelv .package 1 2 s = .ok ∧
    chkAcqv .die 1 2 1 3 s = .ok ∧ chkBari 1 4 2 16 s = .ok ∧ chkBara true true 1 4 2 s = .ok ∧
    ((cc (rich 3 inGang)).gangWait = true ∧ levelOf 0 (cc (rich 3 inGang)) = 0) ∧ (cc s).gangWait = false ∧
    hIndex (readH s 2) ≠ 0 ∧ (readH s 2).getLsbD 0 = false ∧ (readH s 2).getLsbD 1 = false ∧ (readH s 2).getLsbD 2 = false ∧
    (readH s 1).getLsbD 2 = true ∧ (readS s 6).toNat % 4 ≠ 0 := by decide +kernel

/-- Queue 0 of core 0 with n entries, the oldest landed in cycle 99 or not. -/
def queued (n : Nat) (v : Option Word) : State :=
  rich 3 fun c => { c with inq := [(0, List.replicate n { ticket := 1, value := v, landed := 99, taken := none })] }

theorem witness_Queues :
    let s := queued 15 (some 7)
    ((cc s).gangWait = false ∧ (readS s 0).toNat ≤ 95 ∧ sameLaunch s 0 = true) ∧
    ((queueOf (coreOf s 0) 0).filter fun e => decide (e.taken = none) || decide (e.taken = some s.tick)).length < 16 ∧
    16 ≤ ((queueOf (coreOf (queued 16 none) 0) 0).filter fun e => decide (e.taken = none) || decide (e.taken = some 100)).length ∧
    (readS s 11).toNat > 95 ∧ sameLaunch s 2 = false ∧ ((readS s 4).toNat % 8 = 0 ∧ (readS s 4).toNat + 8 ≤ scratchSize 0) ∧
    ((queueOf (cc s) 0).find? fun e => e.taken = none) = some { ticket := 1, value := some 7, landed := 99, taken := none } ∧
    ((queueOf (cc (queued 1 none)) 0).find? fun e => e.taken = none) = some { ticket := 1, value := none, landed := 99, taken := none } := by
  decide +kernel

/-- Core 0 with register 13 holding the cycle it names, tile 12 of the ring, and a flit that reached its position in cycle 100. -/
def onRing (t : Word) : State :=
  updDie (rich 5 fun c => withTile 12 (tile (ctl 0 16 32 160 ||| 0x2000000000) 0 |> fun x => { x with prod := .ring }) (regs [(13, t)] c))
    0 fun y => { y with ring := [(ringKey 0 false 1, 15, 99, 0xABC)] }

theorem witness_Ring :
    chkRput false 0 0 1 13 15 (onRing 100) = .ok ∧ chkRtap false 1 0 12 13 0 (onRing 100) = .ok ∧
    ringFlit (dieOf (onRing 100) 0) (ringKey 0 false 1) false (ringPos 0) 100 1 = some 0xABC ∧
    chkPfxlook false 15 2 1 4 0 (rich 3 id) = .ok ∧
    chkPfxlook true 15 2 1 4 0 (rich 3 id) = .ok ∧
    128 * (15 : BitVec 9).toNat + 128 ≤ tSize (ctlOf (onRing 100) 1) ∧ ¬128 * (16 : BitVec 9).toNat + 128 ≤ tSize (ctlOf (onRing 100) 1) ∧
    (onRing 101).gcyc.toNat < namedCycle (onRing 101) (readS (onRing 101) 13 + 0) ∧
    namedCycle (onRing 99) (readS (onRing 99) 13 + 0) < (onRing 99).gcyc.toNat := by decide +kernel

/-- A copy's card: 4 elements of n8 from tile 10 to tile 2. -/
def card : List Word := [0x1000000000000000, 0xEE00000000000000, BitVec.ofNat 64 (10 * 2 ^ 58 + 2 * 2 ^ 52), 0x100000004, 0x100000000, 0, 0, 0]

/-- A job that core 0 has issued, its card sampled. -/
def accepting : State :=
  updDie (rich 3 fun c => { c with memReq := some 5 }) 0 fun y => { y with jobs := [
    { id := 5, core := 0, sec := false, off := 0, tile := 11, kind := 1, card := card, dom := 1, store := [], mode := 0, sat := false,
      ftz := false, st := .accepting, accTick := 90, edges := [], chan := 0, done := 0, pois := 0, reads := [], bads := [], step := 0, arrived := false,
      nxt := (0, 0), words := [], key := 0, sbase := 0, ibase := 0, cnt := 0, inb := [], wait := 0, woff := 0, span := (0, 0), phase := 0, det := none }] }

theorem witness_EngineJobs :
    acceptingJob (rich 3 id) = none ∧ (∀ k ∈ [1, 2, 3, 4, 5], chkJob k 11 (rich 3 id) = .ok) ∧
    (∃ j, acceptingJob accepting = some j ∧ j.kind ≠ 5 ∧ j.kind ≤ 2 ∧ cDsti j.card = 0) ∧ chkJob 1 11 accepting = .ok := by
  refine ⟨by decide +kernel, by decide +kernel, ⟨_, rfl, ?_⟩, by decide +kernel⟩
  decide +kernel

/-- Register 13 holds an identity of this package with index 1, register 14 a physical address. -/
def privileged (l : BitVec 2) : State := rich 3 fun c => { regs [(13, 0x10000000), (14, 0x100000)] c with level := l }

theorem witness_PrivilegedMemory :
    let s := privileged 1
    chkTlbi 1 true 14 13 0 s = .ok ∧ chkTlbi 0 false 0 0 0 s = .ok ∧ chkOti 13 s = .ok ∧ chkOta true false 13 s = .ok ∧
    chkCtxsave 1 0 0 s = .ok ∧ chkCtxrest 1 0 0 s = .ok ∧ chkLdp 3 14 4 0 s = .ok ∧ chkStp 7 14 4 0 s = .ok ∧ chkOtw 4 13 s = .ok ∧
    chkKeyz true 14 (privileged 3) = .ok ∧ chkKeyz false 3 (privileged 3) = .ok ∧
    chkKeyw 3 4 1 { privileged 3 with secure := { Secure.reset with lc := 2 } } = .ok ∧
    levelOf 0 (cc (privileged 0)) = 0 ∧ levelOf 0 (cc (privileged 2)) < 3 := by decide +kernel

theorem witness_MatrixCalls :
    let s := rich 4 id
    let busy := rich 4 fun c => { c with arch := { c.arch with seq := { c.arch.seq with state := 1 } } }
    chkMcall s = .ok ∧ chkMcall busy ≠ .ok ∧ chkMldstore 1 127 s = .ok ∧ tSize (ctlOf s 1) < 16 * ((128 : BitVec 9).toNat + 1) := by
  decide +kernel

/-- Port 0's even slots of cycle 0x80 on belong to core 0: a sending slot 0x40 of sub-block 0, a receiving one of sub-block 15, and a
slot 0x41 of sub-block 16. -/
def shared (t : Word) : State :=
  let e (sub : Nat) : Word := BitVec.ofNat 64 (2 ^ 62 + sub * 2 ^ 36)
  { rich 7 (regs [(13, t)]) with
    gcyc := 0x80, frame := [(frameKey 0 0 0x40, e 0), (frameKey 0 0 0x41, e 16), (frameKey 0 1 0x40, e 15), (frameKey 0 1 0x42, e 1)] }

theorem witness_FabricTransfers :
    chkFsend 13 0 1 0 (shared 0x80) = .ok ∧ chkFrecv 13 0 2 1 (shared 0x80) = .ok ∧ chkFrecva .add 13 0 1 1 (shared 0x80) = .ok ∧
    gangChk (shared 0x80) = .ok ∧ shareAt (shared 0x80) 0 0 false 0x40 ≠ [] ∧ shareAt (shared 0x80) 0 0 false 0x43 = [] ∧
    (∃ d, d % 2 = 0 ∧ (∃ x ∈ flitSlots (shared 0x80) 1 0x80 2, d < x.1)) ∧
    (∃ x ∈ flitSlots (shared 0x82) 0 0x82 1, ¬128 * fSub x.2.2 + 128 ≤ tSize (ctlOf (shared 0x82) 1)) ∧
    (∀ x ∈ flitSlots (shared 0x80) 0 0x80 1, 128 * fSub x.2.2 + 128 ≤ tSize (ctlOf (shared 0x80) 1)) := by
  refine ⟨by decide +kernel, by decide +kernel, by decide +kernel, by decide +kernel, by decide +kernel, by decide +kernel,
    ⟨0, rfl, ?_⟩, ?_, by decide +kernel⟩ <;> decide +kernel

/-- Before the slot's cycle and after it. -/
theorem witness_FabricEarlyLate :
    let early := { shared 0x80 with gcyc := 0x7F }
    let late := { shared 0x80 with gcyc := 0x81 }
    early.gcyc.toNat < namedCycle early (readS early 13 + 0) ∧ namedCycle late (readS late 13 + 0) < late.gcyc.toNat ∧
    shareAt early 0 0 false 0x40 ≠ [] ∧ shareAt late 0 0 false 0x40 ≠ [] := by decide +kernel

/-- Tile 1 armed and complete; a flit still to be acknowledged or not. -/
def marking (l : List Nat) : State :=
  rich 7 fun c => { withTile 1 (tile (ctl 0 16 32 16 ||| 0x2000000000) 0xF) (regs [(13, 2304), (14, 2303)] c) with sends := l }

theorem witness_FabricMarks :
    let s := marking []
    gangChk s = .ok ∧ (readS s 13).toNat > 2303 ∧ chkFmark 0 3 1 s = .ok ∧ (readS s 0).toNat = s.pkg.toNat ∧ chkFmark 14 3 1 s = .ok ∧
    (readS s 14).toNat ≠ s.pkg.toNat ∧ chkFrdv 0 100 (rich 7 id) = .ok ∧ (gangChk s).and (reportChk s 1 3) = .ok ∧ (cc s).sends = [] ∧
    (gangChk (marking [5])).and (reportChk (marking [5]) 1 3) = .ok ∧ (cc (marking [5])).sends ≠ [] := by decide +kernel

/-- Core 0 with n loops open. -/
def looping (n : Nat) : State := rich 8 fun c => { c with arch := { c.arch with pri := { c.arch.pri with lsp := n } } }

theorem witness_Transfers :
    let s := rich 8 id
    readP s 0 = BitVec.allOnes 512 ∧ readP s 1 = 0 ∧ (readP s 2 ≠ 0 ∧ readP s 2 ≠ BitVec.allOnes 512) ∧ readS s 3 ≠ 0 ∧ readS s 0 = 0 ∧
    (strmOf (cc (looping 0)) false).lsp = 0 ∧ (strmOf (cc (looping 1)) false).lsp ≠ 0 := by decide +kernel

/-- A bundle that CTL decides. -/
def deciding (n : Nat) (h : Hold) : State :=
  rich 8 fun c => { c with arch := { c.arch with pri := { c.arch.pri with lsp := n, hold := h } } }

theorem witness_Loops :
    let s := looping 6
    (s.cur.lit = false ∧ ¬({ s with cur := { s.cur with lit := true } }.cur.lit = false ∨ 25 ≤ (24 : BitVec 18).toNat)) ∧
    (readS s 0).toNat = 0 ∧ (0 < (readS s 3).toNat ∧ (readS s 3).toNat < 2 ^ 32) ∧ 2 ^ 32 ≤ (readS s 8).toNat ∧
    (strmOf (cc s) false).lsp = 6 ∧ ctlDecides s = false ∧ ctlDecides (deciding 5 .ctl) = true ∧ ctlDecides (deciding 6 .ctl) = true ∧
    (let x : Strm := { Strm.reset with lsp := 1, loops := [(1, 0x200000007)] }
     0 < x.lsp ∧ ((tblGet (0 : Word) x.loops 1).extractLsb' 0 32).toNat = 7 ∧ 1 < ((tblGet (0 : Word) x.loops 1).extractLsb' 32 32).toNat) := by
  decide +kernel

end Sys2Proof.Machine.Tests
end

