-- ==== Sys2Proof/Tests/Events.lean ====
section
/-! SUPPORT. States that meet the hypotheses of the statements on traps, the sequencer and events, each clause at a boundary value. -/

namespace Sys2Proof.Machine.Tests

set_option Elab.async false

/-- Physical memory words, with the zone of die 0's first memory powered, and the table of die 0 at 0x10000 of 2^10 entries. -/
def memWords (l : List (Nat × Nat)) (s : State) : State :=
  updDie { s with zones := [(72, { Zone.reset with power := true })]
                  mem := l.foldl (fun m x => memWrite m x.1 (bytesOf x.2 8)) s.mem } 0 fun y => { y with motb := 0x1000A }

/-- Object 1: n elements of one dimension in n8, identity layout, one extent of 64 KiB at 0x100000, all rights to domain 1. -/
def object (n w : Nat) (l : List (Nat × Nat)) (s : State) : State :=
  memWords ([(0x10040, 2 ^ 62 + 14 * 2 ^ 33 + 2 ^ 30), (0x10050, 65536), (0x10058, 0x20000), (0x10060, 0x1001F),
    (0x10070, (8 + 2 * 64 + 3 * 512 + 4 * 4096 + 5 * 32768) * 2 ^ 46), (0x20000, n), (0x20040, 0x30000), (0x30000, w)] ++ l) s

/-- The extent present at 0x100000. -/
def there : Nat := 2 ^ 63 + 0x100000

theorem witness_WaitOnBarrier :
    let s (l : List (Nat × Nat)) := object 65536 there l (rich 8 id)
    let sees (s : State) := barrierAt s 0 1 (readH s 1) 0 true 1
    (cc (s [])).waitReq = none ∧ hIndex (readH (s []) 1) ≠ 0 ∧ (readH (s []) 1).getLsbD 0 = true ∧ sees (s []) = .flipped ∧
    sees (s [(0x100000, 2 ^ 32)]) = .waits ∧ sees (s [(0x100000, 2 ^ 63)]) = .poisoned ∧ hIndex (readH (s []) 3) = 0 ∧
    barrierAt (s []) 0 1 (readH (s []) 1) 2048 true 1 = .fault 25 := by
  refine ⟨?_, ?_, ?_, ?_, ?_, ?_, ?_, ?_⟩ <;> decide +kernel

/-- Core 0 at level l with stop or not and pending traps. -/
def pending (l : BitVec 2) (st ie : Bool) (p : List Pend) : State :=
  rich 8 fun c => { regs [(13, 4196)] c with level := l, stopS := st, ie := ie, pend := p }

theorem witness_ControlInstructions :
    let sig : Pend := { cause := 48, info0 := 0, info2 := 0, info3 := 0 }
    (∀ (st ie : Bool), levelOf 0 (cc (pending 0 st ie [])) = 0 ∧ levelOf 0 (cc (pending 1 st ie [])) ≠ 0) ∧
    (readS (pending 1 false true []) 10 + (0 : BitVec 28).zeroExtend 64).toNat > (100 : Word).toNat ∧
    (readS (pending 1 false true []) 0 + (100 : BitVec 28).zeroExtend 64).toNat ≤ (100 : Word).toNat ∧
    ((cc (pending 1 false true [])).pend = [] ∧ (cc (pending 1 false true [])).stopS = false) ∧
    ((cc (pending 1 false true [sig])).pend ≠ [] ∧ (cc (pending 1 false true [sig])).ie = true) ∧
    ((cc (pending 1 false false [sig])).pend = [sig] ∧ (cc (pending 1 false false [sig])).ie = false) ∧
    (cc (pending 0 true true [])).stopS = true ∧
    (ipiTarget 1 = some 1 ∧ (coreOf (pending 1 false true []) 1).sigRes < 16) ∧ ipiTarget (BitVec.allOnes 64) = none ∧
    (100 : Word).toNat + 4096 ≤ (readS (pending 1 false true []) 13).toNat ∧
    (readS (pending 1 false true []) 10).toNat < (100 : Word).toNat + 4096 := by
  refine ⟨?_, ?_, ?_, ?_, ?_, ?_, ?_, ?_, ?_, ?_, ?_⟩ <;> decide +kernel

/-- Vector 35 of core 0, ktvb 0x40000: a stream at 0x50000, and a frame as it stands there. -/
def vectors (it : Bool) (l : List (Nat × Nat)) : State :=
  memWords ([(0x40000 + 8 * 35, 3 * 2 ^ 52 + 0x50000), (0x40000 + 8 * 49, 3 * 2 ^ 52 + 0x50000)] ++ l)
    (rich 8 fun c => { c with ktvb := 0x40000, intrap := it, level := if it then 1 else 0 })

/-- Whether a vector can be entered. -/
def entered (x : Except Nat Word) : Bool :=
  match x with
  | .ok _ => true
  | .error _ => false

/-- A trap of slot j. -/
def trapOf (cause j : Nat) : Trap :=
  { cause := cause, slot := j, sec := false, off := 0, info0 := 0, info1 := 0, info2 := 0, info3 := 0, late := false, rt := false, age := 0, wait := false }

theorem witness_TrapsTaken :
    let s := vectors false []
    (coreOf s 0).intrap = false ∧ entered (vectorEntry s 0 (trapOf 35 8).cause) = true ∧ (pathOf (coreOf s 0) false).length < 32 ∧
    (9 ≤ (trapOf 35 15).slot ∧ (trapOf 35 8).slot < 9 ∧ (coreOf (vectors true []) 0).intrap = true) ∧
    memReadable (rich 8 id) (0 + 8 * 35) 8 = false ∧
    (memReadable s (0x40000 + 8 * 36) 8 = true ∧ (physWord s (0x40000 + 8 * 36)).toNat / 2 ^ 52 = 0) ∧
    (memReadable { s with uncorr := [0x40210] } (0x40000 + 8 * 35) 8 = true ∧ memReadable { s with uncorr := [0x40210] } (0x40000 + 0x200) 512 = false) := by
  refine ⟨?_, ?_, ?_, ?_, ?_, ?_, ?_⟩ <;> decide +kernel

/-- The handler of a trap that core 0 has taken, its KRET next. -/
def inHandler : State :=
  { takeTrap (vectors false []) 0 (trapOf 35 8) with cur := { Ctx.none with slot := 8 } }

theorem witness_ReturnsAndSoftwareTraps :
    let f (s : State) (o : Nat) := frameAt s 0 o
    let valid (s : State) := frameOk (cc s).arch.pri (f s 0) ((f s 0x010).toNat / 2 ^ 16 % 32)
      (framePath s 0 0x060 ((f s 0x010).toNat / 2 ^ 16 % 32)) ((f s 0x008).toNat % 2 ^ 32) ((f s 0x0E8).getLsbD 63)
    let p : Pend := { cause := 48, info0 := 0, info2 := 0, info3 := 0 }
    let s := inHandler
    levelOf 0 (cc s) ≠ 0 ∧ stpPending s 0 = false ∧ memReadable s ((cc s).ktvb.toNat + 0x200) 512 = true ∧ valid s = true ∧
    (f s 0x010).toNat / 2 ^ 21 % 32 = 0 ∧ (levelOf 0 (cc (vectors true [])) ≠ 0 ∧ valid (vectors true []) = false) ∧
    ((cc s).ptrap = none ∧ (cc s).pend = []) ∧ nextTrap (cc s) = none ∧
    (let t := vectors false []
     let u := updCore t 0 fun c => { c with ptrap := some (trapOf 35 8) }
     nextTrap (coreOf u 0) = some (trapOf 35 8) ∧ (coreOf u 0).intrap = false ∧ entered (vectorEntry u 0 35) = true ∧
     (coreOf (updCore t 0 fun c => { c with pend := [p] }) 0).pend = [p]) := by
  refine ⟨?_, ?_, ?_, ?_, ?_, ?_, ?_, ?_, ?_⟩ <;> decide +kernel

/-- The sequencer at micro-address 5 with fmt as recorded, its fields by f; a panel of 128 positions of format b at granule 0. -/
def atMicro (fm : Word32) (b : Nat) (f : Sequencer → Sequencer) : State :=
  rich 6 fun c =>
    { withTile 15 (tile (ctl 13 128 4 300) 3) (withTile 14 (tile (ctl 10 16 40 310) 3) c) with
      arch := { (withTile 15 (tile (ctl 13 128 4 300) 3) (withTile 14 (tile (ctl 10 16 40 310) 3) c)).arch with
        wbuf := memWrite [] 0 (bytesOf (1 + 16 + 32 * b + 127 * 512) 8)
        seq := f { c.arch.seq with state := 1, upc := 5, fmts := fm } } }

/-- bf16 operands, unscaled and with block scales. -/
def bf (bsm : Nat) : Word32 := BitVec.ofNat 32 (2 ^ 28 + 2 ^ 24 + bsm * 2 ^ 18)

theorem witness_MatrixProducts :
    let s (k : Nat) := atMicro (bf k) 1 id
    let h := panelHdr (cc (s 0)).arch.wbuf 0
    (seqr (s 0)).loops.getLast? = none ∧ (seqr (s 0)).arrayFree ≤ 100 ∧ depends (s 0) [] [] [(0, 8)] [] false = false ∧
    depends (s 0) [3] [3] (panelReads 0 h 96 32 false) [] true = false ∧ roomWait (s 0) [3] [] [] = false ∧
    (mmaFmtChk (seqr (s 0)).fmts false = .ok ∧ mmaFmtChk (seqr (s 1)).fmts true = .ok) ∧ accChk (s 0) 3 = .ok ∧
    (tFmtCode (tileOf (cc (s 0)) 10).ctl = fmtAf (bf 0) ∧ 96 + 32 ≤ tCols (tileOf (cc (s 0)) 10).ctl) ∧
    (phV h = true ∧ phFmt h = fmtBf (bf 0) ∧ 96 + 32 ≤ phK h ∧ phForm h = 0 ∧ phSc h = true) ∧
    tileChk (s 0) 10 (colMask (tileOf (cc (s 0)) 10).ctl 128 96 32) = .ok ∧
    (tFmtCode (tileOf (cc (s 1)) 15).ctl = 13 ∧ 128 ≤ tRows (tileOf (cc (s 1)) 15).ctl ∧ 96 / 32 + 1 ≤ tCols (tileOf (cc (s 1)) 15).ctl) ∧
    tileChk (s 1) 15 (colMask (tileOf (cc (s 1)) 15).ctl 128 3 1) = .ok := by
  refine ⟨?_, ?_, ?_, ?_, ?_, ?_, ?_, ?_, ?_, ?_, ?_, ?_⟩ <;> decide +kernel

theorem witness_AccumulatorWork :
    let c : Core := cc (atMicro (bf 0) 1 id)
    let f (w : MicroWork) : Fly := { work := w, last := 7, done := 15, rAcc := [], wAcc := [], rWb := [], wWb := [], mma := false, key := 0 }
    (f (.mzero 3)).work = .mzero 3 ∧ (f (.maccA 3 4)).work = .maccA 3 4 ∧ cfInt c.arch.seq.fmts = false ∧
    cfInt (cc (atMicro 0xAA800000 10 id)).arch.seq.fmts = true ∧ (f (.maccT true 3 (ctl 1 128 128 160))).work = .maccT true 3 (ctl 1 128 128 160) ∧
    127 < tRows (ctl 1 128 128 160) ∧ ¬16 < tRows (ctl 0 16 32 16) ∧
    (f (.mma false 3 (ctl 1 128 128 160) 0 0 0 32 0 0)).work = .mma false 3 (ctl 1 128 128 160) 0 0 0 32 0 0 := by
  refine ⟨rfl, rfl, ?_, ?_, rfl, ?_, ?_, rfl⟩ <;> decide +kernel

theorem witness_MatrixTransfers :
    let s := atMicro (bf 0) 14 id
    let n := atMicro 0xEE800000 14 id
    let h := panelHdr (cc s).arch.wbuf 0
    let c (t : BitVec 6) := (tileOf (cc s) t.toNat).ctl
    (seqr s).loops.getLast? = none ∧ ((seqr s).fillFree ≤ 100 ∧ (seqr s).accFree ≤ 100 ∧ (seqr s).drainFree ≤ 100) ∧
    (roomWait s [] (granList 0 17) [] = false ∧ matFmt (fmtBf (seqr s).fmts) = true ∧ 0 + (64 + panelBytes 0 16 64 false + 1023) / 1024 ≤ 512 ∧
      panelBytes 0 16 64 false ≤ tSize (c 10) ∧ tileChk s 10 (chunkMask 0 (panelBytes 0 16 64 false)) = .ok) ∧
    (roomWait s [3] [] [] = false ∧ accChk s 3 = .ok ∧ accChk s 47 = .ok) ∧
    (roomWait s [] [] (drainGrans (c 2) 0 (drainCols (c 2) 0)) = false ∧ cfChk (seqr s).fmts = .ok ∧ rmChk .rne (seqr s).fmts = .ok ∧
      tBusy (tileOf (cc s) 2) = false) ∧
    (640 ≤ tSize (c 14) ∧ tileChk s 14 (chunkMask 0 640) = .ok) ∧
    (byteInts (tFmtCode (c 11)) = true ∧ tileChk s 11 (tMask (tileOf (cc s) 11)) = .ok) ∧
    (phV h = true ∧ byteInts (phFmt h) = true ∧ depends s [] [] [(0, 8)] [] false = false ∧ depends s [] [3] (storedReads 0 h) [] false = false) ∧
    (cfInt (seqr n).fmts = true ∧ cfChk (seqr n).fmts = .ok ∧ (fmtNty (tFmt (c 11))).isInt = true) := by
  refine ⟨?_, ?_, ?_, ?_, ?_, ?_, ?_, ?_, ?_⟩ <;> decide +kernel

theorem witness_RoutineControl :
    let loop (i : Nat) : MLoopEnt := { count := 2, index := i, stop := 5, start := 3 }
    let q (l : List MLoopEnt) := object 65536 there [] (atMicro (bf 0) 1 fun q => { q with loops := l })
    (seqr (q [])).loops.getLast? = none ∧ 512 * (3 + 0) < tSize (tileOf (cc (q [])) 1).ctl ∧ tileChk (q []) 1 (BitVec.ofNat 128 8) = .ok ∧
    ((seqr (q [])).req = none ∧ hIndex (readH (q []) 1) ≠ 0 ∧ (readH (q []) 1).getLsbD 0 = true ∧
      barrierAt (q []) 0 1 (readH (q []) 1) 0 true 0 = .flipped) ∧
    ((seqr (q [])).loops.length < 3 ∧ 3 ≤ (seqr (q [loop 0, loop 0, loop 0])).loops.length) ∧
    ((seqr (q [loop 0])).loops.getLast? = some (loop 0) ∧ (loop 0).stop = (seqr (q [loop 0])).upc ∧ (loop 0).index + 1 < (loop 0).count) ∧
    ((seqr (q [loop 1])).loops.getLast? = some (loop 1) ∧ (loop 1).count ≤ (loop 1).index + 1) := by
  refine ⟨?_, ?_, ?_, ?_, ?_, ?_, ?_⟩ <;> decide +kernel

/-- Core 0 with a stream of halfwords from offset 0, both streams at offsets of it, dictionary entry 1 with SEG, entry 2 empty. -/
def coded (l : List Nat) (sec : Bool) (a b wait : Nat) (half : Bool) : State :=
  rich 0 fun c =>
    { c with
      codeImg := l.zipIdx.foldl (fun m x => memWrite m (2 * x.2) (bytesOf x.1 2)) [], imgLen := l.length, secWait := wait
      dict := [(1, BitVec.ofNat 384 (2 ^ 382)), (2, 0)]
      arch := { c.arch with secOn := sec, pri := { c.arch.pri with next := a, half := half }, sec := { c.arch.sec with next := b, live := true } } }

/-- A literal of the empty bundle. -/
def emptyLit : List Nat := 0xFFFF :: List.replicate 24 0

theorem witness_Decode :
    let s := coded [2, 0xFFFE, 3, 0xFFFF] false 0 0 0 false
    candidate s 0 false = .ready 0 false ∧ candidate (coded emptyLit false 0 0 0 false) 0 false = .half ∧
    candidate (coded emptyLit false 0 0 0 true) 0 false = .ready 0 true ∧
    candidate (coded [3] false 0 0 0 false) 0 false = .fault { cause := 1, slot := 8, info := 3, off := 0 } ∧
    (let t := coded [2, 2] true 0 1 0 false
     candidate t 0 false = .ready 0 false ∧ candidate t 0 true = .ready 0 false ∧ mergeable 0 0 = true ∧
     (coreOf t 0).arch.pri.segNext = false ∧ (coreOf t 0).arch.sec.segNext = false) ∧
    (let t := coded [1, 2] true 0 1 64 false
     candidate t 0 false = .ready (BitVec.ofNat 384 (2 ^ 382)) false ∧ candidate t 0 true = .ready 0 false ∧
     mergeable (BitVec.ofNat 384 (2 ^ 382)) 0 = false ∧ (coreOf t 0).secWait = 64) ∧
    (slotInstr 0 8 = none ∧ stopsDecode (some (.trap 1)) = true ∧ hdrPS 0 = false ∧ atLoopEnd (coreOf s 0).arch.pri 0 = false) ∧
    (fetchHalf s 0 4 = none ∧ fetchHalf s 0 1 = some 0xFFFE ∧ fetchHalf s 0 3 = some 0xFFFF ∧ literalBits s 0 4 24 0 = none ∧
      literalBits (coded emptyLit false 0 0 0 false) 0 1 24 0 = some 0) ∧
    (indexAllowed 0 (coreOf s 0) 2 = true ∧ tblFind (coreOf s 0).dict 2 = some 0 ∧ indexAllowed 0 (coreOf s 0) 0xF00 = false) := by
  refine ⟨?_, ?_, ?_, ?_, ?_, ?_, ?_, ?_, ?_⟩ <;> decide +kernel

/-- A launch of kind k with record words l. -/
def launch (id pa : Nat) (l : List Word) : Launch :=
  { id := id, recPa := pa, words := l, cores := [(0, 0)], start := 0, loaded := false, started := false, grants := [], frames := [], finals := [] }

/-- Core 0 as f leaves it, of launch 1 with record words l, the event for it. -/
def launched (l : List Word) (f : Core → Core) (e : Ev) : State :=
  { updDie (vectors false []) 0 (fun y => { y with launches := [launch 1 0x60000 l], busyCores := [0] }) with ev := e } |>
    fun s => updCore s 0 f

/-- The halted or yielded stream of a core whose queue is empty. -/
def ended (h y so seg : Bool) (c : Core) : Core :=
  { c with queue := [], stopS := so, segOpen := seg, segAge := 0,
           arch := { c.arch with pri := { c.arch.pri with halted := h, yielded := y, hold := .ended }, tiles := [] } }

/-- That with a secondary stream that runs. -/
def withSec (c : Core) : Core := { c with arch := { c.arch with secOn := true, sec := { c.arch.sec with live := true } } }

theorem witness_CoreEvents :
    let s := launched [] id { Ev.none with n := 5 }
    let rec0 (f : Core → Core) : State := launched [] f Ev.none
    (s.ev.core < 384 ∧ launchOf s 0 = some (launch 1 0x60000 []) ∧ entered (vectorEntry s 0 49) = true ∧ (coreOf s 0).run = .running) ∧
    ((coreOf s 0).queue[nextIdx (coreOf s 0) 5]? ≠ none ∧ (coreOf s 0).ptrap = none) ∧
    ((coreOf s 1).run ≠ .running ∧ (coreOf s 1).run ≠ .yielding) ∧
    (s.ev.flag2 = false ∧ yieldReady s 0 = false ∧ retireReady s 0 false = false) ∧
    (yieldReady (rec0 (ended false true true true)) 0 = true ∧ (coreOf (rec0 (ended false true true true)) 0).segOpen = true) ∧
    (yieldReady (rec0 (ended false true true false)) 0 = true ∧ (coreOf (rec0 (ended false true true false)) 0).segOpen = false) ∧
    (retireReady (rec0 (ended true false false true)) 0 false = true ∧ endOpen (coreOf (rec0 (ended true false false true)) 0) false = true) ∧
    (retireReady (rec0 (ended true false false false)) 0 false = true ∧ endOpen (coreOf (rec0 (ended true false false false)) 0) false = false) ∧
    (let t := rec0 fun c => withSec (ended true false false false c)
     retireReady t 0 false = true ∧ endOpen (coreOf t 0) false = false ∧ (coreOf t 0).arch.secOn = true ∧ (strmOf (coreOf t 0) true).live = true) := by
  refine ⟨?_, ?_, ?_, ?_, ?_, ?_, ?_, ?_, ?_⟩ <;> decide +kernel

theorem witness_Segments :
    let c : Core := cc (rich 0 id)
    ({ c with segNew := true }.segNew = true ∧ c.segNew = false ∧ c.queue.drop 0 ≠ []) ∧
    (rewindable { c with segOpen := true } = true ∧ c.rewAsk = none ∧ rewindable c = false ∧ { c with mode := true }.mode = true ∧
      c.mode = false) ∧
    (c.noRewind = false ∧ { c with noRewind := true }.noRewind = true) ∧ 3 ≤ { c with rewinds := 3 }.rewinds ∧
    (let d := { c with rewinds := 1, place := some (5, 11) }
     0 < d.rewinds ∧ d.place = (some (5, 11) : Option (Nat × Nat)).map fun p => (BitVec.ofNat 32 p.1, p.2)) ∧
    ¬((0 < c.rewinds ∧ (none : Option (Word32 × Nat)) ≠ none ∧ c.place = none) ∨ 3 ≤ c.rewinds) := by
  refine ⟨?_, ?_, ?_, ?_, ?_, ?_⟩ <;> decide +kernel

/-- A request of core 0 on object 1. -/
def req (id : Nat) (op : ReqOp) (st : ReqSt) : Req :=
  { id := id, core := 0, sec := false, off := 0, handler := false, die := 0, dom := 1, handle := 0x10000007, op := op, w := 8, elems := [],
    data := [], left := [], want := [], ready := 100, rdAt := none, st := st, eng := none, det := none, miss := [], bad := none, asks := 0, bads := [] }

/-- Requests before the unit, the event naming request 7; object 1 with its extent as w. -/
def asking (w : Nat) (l : List (Nat × Nat)) (rs : List Req) : State := { object 65536 w l (rich 5 id) with reqs := rs, ev := { Ev.none with id := 7 } }

/-- Whether a resolution answers an object of which f holds. -/
def resolves (x : Rsv) (f : Obj → Bool) : Bool :=
  match x with
  | .ok o _ => f o
  | _ => false

theorem witness_HandleResolution :
    let amo (off : Word) := ReqOp.amo .add true false off 1 0 1 0
    let r := req 7 (amo 8) .issued
    let x := Atom.amo .add 8 8 1 0
    let s (w : Nat) := asking w [] [r]
    let ext (s : State) (o : Obj) := extChk (noteEntry s 0 1) 0 1 o true 8 [8] (reqRing r)
    (reqFind (s there) 7 = some r ∧ reqAtom r = some x ∧ reqFind (asking there [] []) 7 = none ∧ releaseAhead (s there) r = false ∧
      writeAhead (s there) r = false ∧ sendAhead (s there) r = false) ∧
    writeAhead (asking there [] [req 6 (amo 8) .issued, r]) r = true ∧
    releaseAhead (asking there [] [req 6 (.relv .system 1) .issued, r]) r = true ∧
    resolve (asking there [(0x10040, 0)] [r]) 0 1 r.handle 2 = .fault 24 ∧
    resolve (asking there [(0x10040, 2 ^ 62 + 14 * 2 ^ 33 + 2 ^ 30 + 3 * 2 ^ 28)] [r]) 0 1 r.handle 2 = .deferred ∧
    resolves (resolve (s there) 0 1 r.handle 2) (fun o => !(atomInside o (.amo .add 8 65536 1 0)) && atomInside o x &&
      decide (ext (s there) o = .ok)) = true ∧
    resolves (resolve (s 0) 0 1 r.handle 2) (fun o => decide (ext (s 0) o = .deferred 8)) = true ∧
    resolves (resolve (s (there + 2 ^ 61)) 0 1 r.handle 2) (fun o => decide (ext (s (there + 2 ^ 61)) o = .moving)) = true := by
  refine ⟨?_, ?_, ?_, ?_, ?_, ?_, ?_, ?_⟩ <;> decide +kernel

theorem witness_Atomics :
    let r (op : ReqOp) := req 7 op .atUnit
    let amo (nr : Bool) := ReqOp.amo .add true nr 8 1 0 1 0
    (∀ op ∈ [amo true, amo false, .bari 0 16 4, .bara true false 0 4], reqFind (asking there [] [r op]) 7 = some (r op) ∧
      (reqAtom (r op)).isSome = true ∧ resolves (resolve (asking there [] [r op]) 0 1 (r op).handle 2) (fun _ => true) = true ∧
      (r op).eng = none) ∧
    (0xFFFFFFFF : Nat) < 2 ^ (8 * 4) ∧
    ([2 ^ 32 + 4, 3, 16, 12] : List Nat).getD 0 0 < 2 ^ 63 ∧ (2 ^ 32 + 4) % 2 ^ 32 ≤ (3 + 1) % 2 ^ 32 ∧ 16 ≤ (12 + 4) % 2 ^ 64 ∧
    (12 + 3) % 2 ^ 64 < 16 ∧ (2 ^ 63 : Nat) / 2 ^ 63 = 1 := by
  refine ⟨?_, ?_⟩ <;> decide +kernel

/-- A dirty byte of object 1 in a die's cache. -/
def dirty : Line := { obj := 1, shard := 0, blk := 0, mask := 1, data := 5, full := false, attr := 0, lgen := 0, ent := [] }

/-- Requests, and the packages's view of object 1 held by die 1 with lines l. -/
def viewed (l : List Line) (op : ReqOp) : State :=
  updDie (updDie (asking there [] [req 7 op .atUnit]) 0 fun y => { y with pkgViews := [{ obj := 1, ver := 3, hold := 2 }] }) 1
    fun y => { y with lines := l }

/-- A grid of 4 cells in one partition with one ghost cell on each side, periodic, of one slot of 10 elements; its record's words t. -/
def gridAt (t : Nat) (s : State) : State :=
  object 10 there [(0x10040, 2 ^ 62 + 4 * 2 ^ 37 + 14 * 2 ^ 33 + 2 ^ 30), (0x20030, 0x70000), (0x70000, 2 ^ 61), (0x70008, 4), (0x70018, 1),
    (0x70020, 0x101), (0x70028, 2 ^ 32), (0x70050, 1), (0x70088, 0x10000007), (0x70098, t)] s

/-- A load of ghost cell 0 for step 0 that waits. -/
def stepping (t : Nat) : State :=
  let r : Req := { req 7 (.ldt false (some (0, false)) 2) .stepWait with elems := [(0, 0)] }
  { gridAt t (rich 5 fun c => withTile 2 ({ tile (ctl 14 1 1 32) 0 with prod := .request 7 }) c) with reqs := [r], ev := { Ev.none with id := 7 } }

theorem witness_MemoryEvents :
    let acq (sc : Scope) := ReqOp.acqv sc 3 1 0
    let u (s : State) := (acquireDies s 0 1 .package).foldl (fun u d => writeBackObj u d 1) s
    (reqFind (viewed [] (acq .die)) 7 = some (req 7 (acq .die) .atUnit) ∧ scopePkg .die = false ∧ scopePkg .package = true) ∧
    acquireDies (viewed [] (acq .package)) 0 1 .package = [1] ∧ dirtyIn (u (viewed [] (acq .package))) 1 1 = false ∧
    (let s := stepping 0
     let r : Req := { req 7 (.ldt false (some (0, false)) 2) .stepWait with elems := [(0, 0)] }
     reqFind s 7 = some r ∧ reqLive s r = true ∧ s.ev.flag2 = false ∧
     resolves (resolve s 0 1 r.handle 0) (fun o => eHas o.e 2 && (elemBit o 8 0).isSome &&
       decide (extChk (noteEntry s 0 1) 0 1 o false 8 [0] (reqRing r) = .ok) && !(writeAhead (noteEntry s 0 1) r) &&
       (match stepTest (noteEntry s 0 1) o [0] 0 with | .wait _ _ => true | _ => false)) = true) ∧
    (let s := stepping 5
     resolves (resolve s 0 1 0x10000007 0) (fun o => decide (stepTest (noteEntry s 0 1) o [0] 0 = .stale) &&
       (match stepTest (noteEntry s 0 1) o [1] 0 with | .read _ _ _ _ => true | _ => false)) = true) ∧
    (∀ d < 4, ∀ l ∈ (dieOf (rich 5 id) d).lines, l.mask = 0) := by
  refine ⟨?_, ?_, ?_, ?_, ?_, ?_⟩ <;> decide +kernel

/-- Where no sector is free a line of an indirect extent stays dirty. -/
theorem witness_DirtyStays :
    let s := updDie { object 65536 (2 ^ 63 + 2 ^ 62 + 0x200000) [] (rich 5 id) with reqs := [req 7 (.acqv .package 3 1 0) .atUnit] } 0
      fun y => { y with pkgViews := [{ obj := 1, ver := 3, hold := 2 }] }
    let t := updDie s 1 fun y => { y with lines := [dirty], motb := 0x1000A }
    acquireDies t 0 1 .package = [1] ∧ dirtyIn ([1].foldl (fun u d => writeBackObj u d 1) t) 1 1 = true := by
  refine ⟨?_, ?_⟩ <;> decide +kernel

/-- A record that the die holds for its ring. -/
def frec : FRec := { kind := 1, code := 0, unit := 0, num := 0, die := 0, handle := 0, off := 0, prog := 0, token := 9, src := 0 }

/-- A job in a state. -/
def job (st : JobSt) (card : List Word) : Job :=
  { id := 5, core := 0, sec := false, off := 0, tile := 11, kind := 1, card := card, dom := 1, store := [(1, 0x10000007), (2, 0x10000007)],
    mode := 0, sat := false, ftz := false, st := st, accTick := 90, edges := [], chan := 0, done := 0, pois := 0, reads := [], bads := [], step := 0,
    arrived := false, nxt := (0, 0), words := [], key := 0, sbase := 0, ibase := 0, cnt := 4, inb := [], wait := 0, woff := 0, span := (0, 0), phase := 0, det := none }

/-- Job j in die 0's scheduler, the event naming it. -/
def jobbing (j : Job) (e : Ev) : State :=
  updDie { object 65536 there [] (rich 5 id) with ev := { e with id := 5 } } 0 fun y => { y with jobs := [j] }

theorem witness_FaultQueue :
    let y (c : Word) : Die := { Die.reset with recs := [frec], fqctl := c, fqbase := 0x8000 }
    ((y 1).recs = frec :: [] ∧ canPost (y 1) = true ∧ canPost (y 0) = false ∧ Die.reset.recs = []) ∧
    (let r := req 7 (.ldt false none 2) (.parked 9)
     let s := { rich 5 (withTile 2 { tile (ctl 0 16 32 32) 0 with prod := .request 7 }) with reqs := [r], ev := { Ev.none with w := 9 } }
     (s.reqs.find? fun q => decide (q.st = .parked s.ev.w)) = some r ∧ r.det = none ∧ r.eng = none ∧ reqLive s r = true) ∧
    (let s := jobbing (job (.parked 9) card) { Ev.none with w := 9 }
     (s.reqs.find? fun q => decide (q.st = .parked s.ev.w)) = none ∧ jobByToken s s.ev.w = some (0, job (.parked 9) card)) := by
  refine ⟨?_, ?_, ?_⟩ <;> decide +kernel

/-- The copy's card into object handle 2. -/
def cardOut : List Word := [0x1000200000000000, 0xEE00000000000000, BitVec.ofNat 64 (10 * 2 ^ 58), 0x100000004, 0x100000000, 0, 0, 0]

/-- Whether a job's object is found. -/
def found (x : JobObj) : Bool :=
  match x with
  | .ok _ _ => true
  | _ => false

theorem witness_JobRuns :
    let start := jobbing (job .ready card) Ev.none
    let second := jobbing (job .running cardOut) { Ev.none with flag := true }
    (cE0 card = 4 ∧ cE1 card = 1 ∧ cE2 card = 1 ∧ cCvt card = false) ∧
    (jobFind start 0 5 = some (job .ready card) ∧ start.ev.flag = false ∧ start.ev.flag2 = false ∧ (job .ready card).kind ≤ 2 ∧
      tState (tileOf (coreOf start 0) (cDtile card)).ctl ≠ 2 ∧ cRnd card = 0 ∧ cSrci card = 0 ∧ cDsti card = 0 ∧ cBari card = 0) ∧
    (4 ≤ { job .ready card with mode := 4 }.mode ∧ ¬4 ≤ (job .ready card).mode) ∧
    (jobFind second 0 5 = some (job .running cardOut) ∧ second.ev.flag = true ∧ cSrci cardOut = 0 ∧ cDsti cardOut = 2 ∧
      found (jobObj second 0 (job .running cardOut) (jobH (job .running cardOut) 2) 1 (dstElems cardOut) (codeWidth (cDfmt cardOut))) = true) ∧
    (job .ready card).st ≠ .running ∧ jobFind (rich 5 id) 0 5 = none := by
  refine ⟨?_, ?_, ?_, ?_, ?_, ?_⟩ <;> decide +kernel

/-- A halo card of step st, partition 0, object handle 1. -/
def halo (st : Nat) : Job := { job .running [0x4010000000000000, BitVec.ofNat 64 st, 0, 0, 0, 0, 0, 0] with kind := 4 }

/-- The grid with its record's tags, and the job at its first delivery. -/
def haloing (st t : Nat) : State :=
  updDie { gridAt t (rich 5 id) with ev := { Ev.none with id := 5, n := 1 } } 0 fun y => { y with jobs := [halo st] }

/-- The clauses of a delivery: the receiver not far enough, a later tag, the step's own, an older one. -/
def delivers (st t : Nat) (f : State → Grid → Nat → Bool) : Bool :=
  let s := haloing st t
  match jobGrid s 0 (halo st) with
  | none => false
  | some (_, g) =>
    match (targetsOf g (hPart (halo st)))[0]? with
    | none => false
    | some q =>
      match targetOf s 0 (halo st) g q with
      | .ok _ g2 slot => f s g (recAddr g2 slot)
      | _ => false

theorem witness_JobSteps :
    jobFind (haloing 0 0) 0 5 = some (halo 0) ∧
    delivers 2 0 (fun s g a => !(mayDeliver s g a 2)) = true ∧
    delivers 0 5 (fun s g a => mayDeliver s g a 0 && decide (recTag s a (bankOf g 0) = 5)) = true ∧
    delivers 0 0 (fun s g a => mayDeliver s g a 0 && decide (recTag s a (bankOf g 0) = 0)) = true ∧
    delivers 1 0 (fun s g a => mayDeliver s g a 1 && decide (recTag s a (bankOf g 1) < 1) && decide (recRd s a (bankOf g 1) = 0)) = true ∧
    (let j := { job .running cardOut with nxt := (1, 0) }
     hIndex (jobH j 1) ≠ 0 ∧ hRights (jobH j 1) % 2 = 1 ∧ j.nxt.1 < j.cnt ∧
       found (jobObj (jobbing j Ev.none) 0 j (jobH j 1) 0 (cardElems 0) 32) = true) ∧
    (collSteps [0, 0, 0, 0x400000008, 0, 0, 0, 0] = 3 ∧ 3 ≠ (0 : Nat)) ∧
    (let w : List Word := [0, 0, 0, 0x400000008, 0, 0, 0, 0]
     let j (st : JobSt) (n : Nat) : Job := { job st w with kind := 3, inb := List.replicate n 0 }
     let e := { Ev.none with n := 1 }
     jobFind (jobbing (j .ready 8) e) 0 5 = some (j .ready 8) ∧ (j .ready 8).st ≠ .running ∧
       jobFind (jobbing (j .running 8) e) 0 5 = some (j .running 8) ∧ (j .running 8).step < (jobbing (j .running 8) e).ev.n ∧
       collNeed w ≤ (j .running 8).inb.length ∧ ¬collNeed w ≤ (j .running 7).inb.length ∧ ((j .running 0).inb ++ [1, 2]).length < collNeed w) := by
  refine ⟨?_, ?_, ?_, ?_, ?_, ?_, ?_, ?_⟩ <;> decide +kernel

/-- An image of one core in 1,024 bytes: one empty dictionary entry at 0x100, one halfword of code at 0x200. -/
def image : List (Nat × Nat) :=
  [(0x10050, 1024), (0x20000, 1024), (0x100000, 0x14E5A4958), (0x100008, 1), (0x100040, 0x100 + 2 ^ 52), (0x100048, 0x200), (0x100050, 2 ^ 32)]

/-- The words of a record of kind k for domain 1 and image 1, its first dependency of a polarity if used. -/
def record (k dep : Nat) : List Word :=
  (List.range 32).map fun i => BitVec.ofNat 64 ([k * 2 ^ 54, 0x10000007, 1, 0].getD i (if i = 15 then 0x10000007 else if i = 16 then dep else 0))

/-- Ring 0 of die 0 at 0x8000 with a record whose first word has st, of kind 0. -/
def ringed (st dep bar : Nat) : State :=
  let s := object 65536 there ([(0x8000, st * 2 ^ 60), (0x8008, 0x10000007), (0x8010, 1), (0x8078, 0x10000007), (0x8080, dep), (0x100000, bar)]) (rich 0 id)
  updDie s 0 fun y => { y with csbase := [(0, 0x8000)], csprod := [(0, 1)] }

theorem witness_Launches :
    (headOf (ringed 0 0 0) 0 0 ≠ none ∧ admitPlan (ringed 0 0 0) 0 = [24] ∧ headDo (ringed 0 0 0) 0 0 = .take) ∧
    (admitPlan (ringed 7 0 0) 0 = [16] ∧ headDo (ringed 7 0 0) 0 0 = .withdrawn) ∧
    (admitPlan (ringed 0 3 (2 ^ 63)) 0 = [8] ∧ headDo (ringed 0 3 (2 ^ 63)) 0 0 = .poisoned) ∧
    admitPlan (rich 0 id) 0 = [] ∧
    ((1 - tblGet (0 : Word) (dieOf (rich 0 id) 0).cscons 0 : Word).toNat ≤ csSize (dieOf (rich 0 id) 0) 0 ∧
      ¬(17 - tblGet (0 : Word) (dieOf (rich 0 id) 0).cscons 0 : Word).toNat ≤ csSize (dieOf (rich 0 id) 0) 0) ∧
    (96 ≤ (96 : Word).toNat % 128 ∧ (0x180 : Word).toNat % 128 < 96 ∧ (0x180 : Word).toNat / 128 % 2 = 1) ∧
    (let s := updDie (rich 0 id) 0 fun y => { y with busyCores := [0] }
     (dieOf s (coreDie 0)).busyCores.contains (coreNum 0) = true ∧ (coreOf s 0).stopS = false ∧ (coreOf s 0).run ≠ .machineChecked) ∧
    (coreOf (rich 0 fun c => { c with run := .machineChecked, stopS := true }) 0).run = .machineChecked := by
  refine ⟨?_, ?_, ?_, ?_, ?_, ?_, ?_, ?_⟩ <;> decide +kernel

/-- Launch 1 of a record, loading, the event naming it. -/
def toLoad (l : List Word) (w : Nat) (m : List (Nat × Nat)) (e : Ev) : State :=
  { updDie (object 1024 w m (rich 0 id)) 0 (fun y => { y with launches := [launch 1 0x60000 l] }) with ev := { e with id := 1 } }

/-- Whether the image is found and what its checks say. -/
def checked (x : ImgRes) (f : Img → Bool) : Bool :=
  match x with
  | .ok o => f o
  | _ => false

/-- The same record for an image of package 1, which has been read. -/
def remote : List Word := (record 1 0).set 1 0x10000010000007

/-- Launch 1 of that record: an image of one empty bundle and one halfword. -/
def fetched : State :=
  updDie (toLoad remote there [] Ev.none) 0 fun y => { y with images := [{
    words := remote, handle := 0x10000010000007, dom := 1, at_ := none, req := 5, stage := 3, bads := [], bad := false, done := true
    mem := [(0, 0x14E5A4958), (8, 1), (0x40, 0x100 + 2 ^ 52), (0x48, 0x200), (0x50, 2 ^ 32)].foldl (fun m x => memWrite m x.1 (bytesOf x.2 8)) [] }] }

theorem witness_Loading :
    (dieOf (toLoad (record 1 0) there image Ev.none) 0).launches.find? (fun x => decide (x.id = 1)) = some (launch 1 0x60000 (record 1 0)) ∧
    (lKind (record 0 0) = 0 ∧ lKind (record 1 0) = 1) ∧
    imgOf (toLoad ((record 1 0).set 1 0) there image Ev.none) 0 ((record 1 0).set 1 0) = .bad ∧
    imgOf (toLoad (record 1 0) 0 image Ev.none) 0 (record 1 0) = .wait ∧
    checked (imgOf (toLoad (record 1 0) there [(0x10050, 32), (0x20000, 32)] Ev.none) 0 (record 1 0)) (fun o =>
      decide (imgRefuse (toLoad (record 1 0) there [(0x10050, 32), (0x20000, 32)] Ev.none) 0 (record 1 0) o = some 1)) = true ∧
    checked (imgOf fetched 0 remote) (fun o => decide (imgRefuse fetched 0 remote o = none)) = true ∧ lKind remote = 1 ∧
    (coreOf (toLoad (record 1 0) there image Ev.none) 0).launch = some 1 ∧
    (toLoad (record 1 0) there image { Ev.none with flag := true }).ev.flag = true := by
  refine ⟨?_, ?_, ?_, ?_, ?_, ?_, ?_, ?_, ?_⟩ <;> decide +kernel

theorem witness_Gangs :
    let l := (record 1 0).set 7 3
    let s := updDie (rich 0 id) 0 fun y => { y with launches := [launch 1 0x60000 l] }
    let behind := updDie (rich 0 fun c => { c with nrv := some 5000, rewound := true }) 0 fun y => { y with launches := [launch 1 0x60000 (record 1 0)] }
    (gangsOf s 0 = [3] ∧ holdsNow s 0 3 = some l) ∧ gangsOf (rich 0 id) 0 = [] ∧ gangRecs s 0 3 ≠ [] ∧
    ((dieOf behind 0).launches = [launch 1 0x60000 (record 1 0)] ∧ (∃ c ∈ leftOf behind 0 (launch 1 0x60000 (record 1 0)), coreBehind behind (96 * 0 + c.1) = true) ∧
      lGang (record 1 0) = 0 ∧ lGang l ≠ 0) := by
  refine ⟨?_, ?_, ?_, ?_⟩ <;> decide +kernel

/-- A flit of class c and kind k from die 0 of package 1 to die 0 of package d, with payload words ws. -/
def flit (c : BitVec 2) (k : BitVec 4) (d : BitVec 12) (ws : List Word) : Flit :=
  sealed {
    dpkg := d, ddie := 0, dcore := 0, cls := c, kind := k, seq := 0, oslot := 50, rp := false, spkg := 1, sdie := 0, nv := true, nslot := 3,
    csrc := 2, ccnt := 1, payload := payloadOf ws, crc := 0 }

/-- A port that is up. -/
def up : Port := { Port.reset with en := true, state := 2, lat := 10, credits := [(0, 32)] }

/-- Port 0 as x, ports 1 to 3 up, core 0 as f leaves it, frame entries l, the event with a flit on port 0 in slot 50. -/
def linked (x : Port) (l : List (Nat × Word)) (f : Core → Core) (e : Ev) : State :=
  { object 65536 there [] (rich 7 f) with ports := [(0, x), (1, up), (2, up), (3, up)], frame := l, ev := { e with slot := 50 } }

/-- A receive of core 0 that expects sub-block 1 of tile 7 in cycle 100 from port 0. -/
def expecting (c : Core) : Core := { c with recvs := [{ tile := 7, slots := [{ port := 0, at_ := 100, sub := 1 }], arms := true, comb := none }] }

theorem witness_LinkArrivals :
    let f := flit 1 0 0 []
    let s (x : Port) (e : Nat) := linked x [(frameKey 0 1 50, BitVec.ofNat 64 e)] expecting { Ev.none with flit := some f }
    ((s up 0).ev.flit = some f ∧ (portOf (s up 0) 0).state = 2 ∧ f.crc = flitCrc f ∧
      { f with crc := ~~~f.crc }.crc ≠ flitCrc { f with crc := ~~~f.crc } ∧
      (portOf (s Port.reset 0) 0).state ≠ 2) ∧
    (up.badRun + 1 < 64 ∧ 64 ≤ { up with badRun := 63 }.badRun + 1) ∧ (∃ r, ctlRow 1 = some r) ∧
    ((linkIn (s up (2 ^ 63))).2 = some f ∧ logOf (s up (2 ^ 63)) 0 = some 0 ∧ fUse (frameEff (linkIn (s up (2 ^ 63))).1 (frameKey 0 1 50)) = 2) ∧
    (let u := (linkIn (s up (2 ^ 62))).1
     let e := frameEff u (frameKey 0 1 50)
     fUse e = 1 ∧ f.dpkg = u.pkg ∧ f.ddie.toNat = fDie e ∧ f.dcore.toNat = fCore e ∧ fCore e ≠ 127 ∧
      (recvOf u 0 0 50 false).map (fun x => x.1.comb) = some none ∧ recvOf u 0 0 50 true = none ∧ recvOf u 0 0 51 false = none) ∧
    fUse (frameEff (linkIn (s up 0)).1 (frameKey 0 1 50)) = 0 := by
  refine ⟨?_, ?_, ⟨_, rfl⟩, ?_, ?_, ?_⟩ <;> decide +kernel

/-- A kept flit. -/
def kept (n : Nat) (w : Bool) (o : Option (Nat × Nat)) : Kept :=
  { oslot := 50, flit := flit 1 0 1 [], sent := 90, naks := n, waiting := w, ready := 95, owner := o }

/-- A packet of die 0 for die 0 of package 1. -/
def pkt (e : Nat) (r : Option Nat) : Pkt :=
  { die := 0, dpkg := 1, ddie := 0, seq := 0, flits := [flit 2 (if r = none then 8 else 2) 1 []], sent := 50, path := 0, expiries := e, req := r, next := 1 }

theorem witness_LinkReliability :
    let s (l : List Kept) := linked { up with kept := l } [] id { Ev.none with n := 90 }
    let named (s : State) := (portOf s 0).kept.find? fun k => decide (k.oslot.toNat = s.ev.slot)
    (named (s []) = none ∧ named (s [kept 2 false none]) = some (kept 2 false none) ∧ (kept 2 false none).flit.rp = false ∧
      3 ≤ (kept 3 false none).naks ∧ (kept 2 true none).waiting = true ∧
      (let r := { kept 2 false none with flit := { flit 1 0 1 [] with rp := true } }
       r.flit.rp = true ∧ (s [r]).tick ≤ r.sent + 4 * (portOf (s [r]) 0).lat.toNat + 2)) ∧
    (replayReady (s []) 0 = none ∧ replayReady (s [kept 0 true (some (0, 5))]) 0 = some (kept 0 true (some (0, 5))) ∧
      (kept 0 true (some (0, 5))).flit.cls ≠ 3) ∧
    ((portOf (s [kept 2 false none]) 0).kept.find? (fun k => decide (k.oslot.toNat = 50) && decide (k.sent = 90) && !k.waiting)) =
      some (kept 2 false none) := by
  refine ⟨?_, ?_, ?_⟩ <;> decide +kernel

theorem witness_EndToEnd :
    let ack := flit 2 9 0 [1]
    let s (p : Pkt) := { linked up [] id { Ev.none with flag := true, flit := some ack, id := 4, n := 0 } with pkts := [p] }
    let hit (q : Pkt) : Bool := decide (q.die = ack.ddie.toNat) && decide (q.dpkg = ack.spkg) && decide (q.ddie = ack.sdie) &&
      covers ((payloadWord ack.payload 0).extractLsb' 0 24) (ack.payload.extractLsb' 64 256) q.seq
    hit (pkt 0 none) = true ∧
    (livePaths (s (pkt 0 none)) 0 = [] ∧ livePaths (s (pkt 0 none)) 1 ≠ []) ∧
    (pkt 6 none).expiries < 7 ∧ 7 ≤ (pkt 7 none).expiries ∧
    ((pkt 7 (some 7)).req.bind (reqFind { s (pkt 7 (some 7)) with reqs := [req 7 (.relv .system 1) .remote] }) = some (req 7 (.relv .system 1) .remote) ∧
      (pkt 7 (some 7)).req.bind (reqFind (s (pkt 7 (some 7)))) = none ∧
      (pkt 7 none).flits.head?.map (fun g => g.kind) = some 8 ∧ (pkt 7 (some 7)).flits.head?.map (fun g => g.kind) = some 2) ∧
    ((s (pkt 0 none)).pkts.find? fun q => decide (q.die = 0) && decide (4 * q.dpkg.toNat + q.ddie.toNat = 4) && decide (q.seq.toNat = 0) &&
      decide (q.sent = 50) && decide (q.next > 0)) = some (pkt 0 none) := by
  refine ⟨?_, ?_, ?_, ?_, ?_⟩ <;> decide +kernel

theorem witness_Markers :
    let m (a : BitVec 4) : Mark := { core := 0, tile := 7, chunk := 0, pkg := 1, upto := 9, acks := a }
    let mine (s : State) (m : Mark) : Bool := decide (coreNum m.core = s.ev.w.toNat % 128) && decide (coreDie m.core = s.ev.w.toNat / 2 ^ 7 % 4) &&
      decide (m.pkg.toNat = s.ev.w.toNat / 2 ^ 9 % 4096) && !(m.acks.getLsbD (s.ev.w.toNat / 2 ^ 21 % 4))
    let s (a : BitVec 4) := { linked up [] id { Ev.none with flag := true, id := 4, n := 2 ^ 24 - 1, w := 2 ^ 9 } with marks := [m a] }
    ((s 0).ev.flit = none ∧ (s 0).ev.flag = true ∧ minimalPaths (s 0) 1 ≠ [] ∧
      (let far : Req := { req 7 (.amo .add true false 8 1 0 1 0) .issued with handle := 0x10000010000007 }
       markAhead { s 0 with reqs := [far] } 0 1 9 true = true ∧ markAhead { s 0 with reqs := [{ far with st := .remote }] } 0 1 9 true = false ∧
       markAhead { s 0 with reqs := [{ far with st := .remote }] } 0 1 9 false = true)) ∧
    (performedTo (s 0) 0 1 0 (2 ^ 24 - 1) = true ∧ performedTo (s 0) 0 1 0 0 = false) ∧
    ((s 0).marks.find? (mine (s 0)) = some (m 0) ∧ (m 0).acks ||| BitVec.ofNat 4 1 ≠ BitVec.allOnes 4) ∧
    ((s 14).marks.find? (mine (s 14)) = some (m 14) ∧ (m 14).acks ||| BitVec.ofNat 4 1 = BitVec.allOnes 4) ∧
    (s 1).marks.find? (mine (s 1)) = none := by
  refine ⟨?_, ?_, ?_, ?_, ?_⟩ <;> decide +kernel

/-- A packet handed over to die 0: kind k, payload ws. -/
def handed (k : BitVec 4) (ws : List Word) : State :=
  linked up [] id { Ev.none with flag2 := true, flit := some (flit 2 k 0 ws), bytes := List.replicate 128 0 }

/-- Whether a remote request finds its object of which f holds. -/
def serves (x : Served) (f : Obj → Bool) : Bool :=
  match x with
  | .ok o => f o
  | _ => false

theorem witness_OpenTraffic :
    let h : Word := 0x10000007
    let s := linked up [] id { Ev.none with flit := some (flit 2 0 0 []) }
    let far := linked up [] id { Ev.none with flit := some (flit 2 0 1 []) }
    ((linkIn s).2 = some (flit 2 0 0 []) ∧ logOf (linkIn s).1 0 = some 0 ∧ openRow 0 = some .readRequest ∧ (flit 2 0 0 []).dpkg = s.pkg ∧
      (flit 1 0 0 []).cls ≠ 2 ∧ (linkIn (linked Port.reset [] id Ev.none)).2 = none) ∧
    ((flit 2 0 1 []).dpkg ≠ far.pkg ∧ (transitPort (linkIn far).1 (flit 2 0 1 [])).isSome = true) ∧
    (let y := rxOf s (flit 2 0 0 [])
     ((flit 2 0 0 []).seq - y.base).toNat = 0 ∧ y.map = 0 ∧ y.held = [] ∧ packetLen (flit 2 0 0 []) = 1 ∧
      2 ^ 23 ≤ ((BitVec.allOnes 24) - y.base).toNat ∧ 256 ≤ ((256 : BitVec 24) - y.base).toNat) ∧
    ((handed 0 [h]).ev.flag2 = true ∧ (handed 0 [h]).ev.flit = some (flit 2 0 0 [h])) := by
  refine ⟨?_, ?_, ?_, ?_⟩ <;> decide +kernel

/-- What a read and a forwarded read find: the elements; a page of another domain; poison. -/
theorem witness_OpenReads :
    let h : Word := 0x10000007
    let w (k : BitVec 4) (ws : List Word) := wireOf (flit 2 k 0 ws)
    let dom : Word := 2 ^ 48
    let q := [h, 0, 0, 512, 8, dom]
    let e := (entryOf (handed 0 q) 0 1).getD []
    let els (s : State) (x : Wire) (f : Served → Bool) : Bool :=
      serves (serveObj s x) fun o => f (serveEls s x o false (wireWidth o) (wantedEls x (wireWidth o)))
    servesEarlier (handed 0 q) (flit 2 0 0 q) (w 0 q) = false ∧
    els (handed 0 q) (w 0 q) (fun y => serves y fun _ => true) = true ∧
    els (handed 0 q) (w 0 q) (fun y => serves y fun o => !(servePoison (handed 0 q) o (wireWidth o) (wantedEls (w 0 q) (wireWidth o)))) = true ∧
    els { handed 0 q with mem := (object 65536 0 [] (rich 7 id)).mem } (w 0 q) (fun y => decide (y = .over 1 0)) = true ∧
    (let x := w 8 (q ++ [0, 0] ++ e)
     x.kind = 0 ∧ els (handed 8 (q ++ [0, 0] ++ e)) x (fun y => serves y fun _ => true) = true) ∧
    (serveObj (handed 0 [h + 4096, 0, 0, 0, 0, dom]) (w 0 [h + 4096, 0, 0, 0, 0, dom]) = .over 24 0 ∧
      serveObj (handed 0 [h, 0]) (w 0 [h, 0]) = .over 23 0) := by
  refine ⟨?_, ?_, ?_, ?_, ?_, ?_⟩ <;> decide +kernel

/-- An object whose data lies at package 1, or at one that no port leads to. -/
theorem witness_OpenPeers :
    let q : List Word := [0x10000007, 0, 0, 512, 8, 2 ^ 48]
    let at_ (p : Nat) : State := { handed 0 q with
      mem := memWrite (handed 0 q).mem 0x10040 (bytesOf (2 ^ 62 + 14 * 2 ^ 33 + 2 ^ 30 + 2 * 2 ^ 28 + p * 2 ^ 14) 8) }
    let peer (p : Nat) : Bool := match serveObj (at_ p) (wireOf (flit 2 0 0 q)) with | .peer n _ => decide (n = p) | _ => false
    peer 1 = true ∧ unreachable (at_ 1) 1 = false ∧ peer 2303 = true ∧ unreachable (at_ 2303) 2303 = true := by
  refine ⟨?_, ?_, ?_, ?_⟩ <;> decide +kernel

/-- What a write, an atomic, an acquire and a view update find. -/
theorem witness_OpenWrites :
    let h : Word := 0x10000007
    let w (k : BitVec 4) (ws : List Word) := wireOf (flit 2 k 0 ws)
    let dom : Word := 2 ^ 48
    let q := [h, 0, 0, 64, 0, dom + 2 ^ 40]
    let els (s : State) (x : Wire) (f : Obj → Served → Bool) : Bool :=
      serves (serveObj s x) fun o => f o (serveEls s x o true 8 [0, 1, 2, 3, 4, 5, 6, 7])
    let indirect (s : State) : State := { s with mem := (object 65536 (2 ^ 63 + 2 ^ 62 + 0x200000) [] (rich 7 id)).mem }
    (els (handed 2 q) (w 2 q) (fun o y => eIdentity o.e && serves y fun _ => true) = true ∧
      servesEarlier (handed 2 q) (flit 2 2 0 q) (w 2 q) = false ∧ wEng (w 2 q) = false) ∧
    servesEarlier { handed 2 q with agenda := [{ due := 200, instr := .writeBackData, ev :=
      { Ev.none with flag2 := true, flit := some (flit 2 2 0 q) } }] } (flit 2 2 0 q) (w 2 q) = true ∧
    (let s := { handed 2 q with mem := (object 65536 (there + 2 ^ 61) [] (rich 7 id)).mem }
     els s (w 2 q) (fun _ y => decide (y = .moving)) = true) ∧
    (let q := [h, 0, 0, 64, 0, dom + 2 ^ 40 + 2 ^ 42]
     let s := updDie (indirect (handed 2 q)) 1 fun y => { y with lines := [dirty], motb := 0x1000A }
     wEng (w 2 q) = true ∧
       els s (w 2 q) (fun o y => (serves y fun _ => true) &&
         blocksHeld (flushBlocks s o (elemBlocks o 8 [0, 1])) o (elemBlocks o 8 [0, 1])) = true) ∧
    (let a := [h, 8, 1, 0, 16, dom + 2 ^ 41]
     serves (serveObj (handed 3 a) (w 3 a)) (fun o => match wireAtom (w 3 a) with
       | some x => atomInside o x && decide (extChk (handed 3 a) 0 (wDom (w 3 a)) o true 8 [((atomSpan x).1 : Int)] = .ok)
       | none => false) = true ∧ wN (w 3 [h, 0, 0, 0, 1024, dom]).ws 4 = 1024) ∧
    (let a (v : Word) : List Word := [h, v, 0, 0, 0, dom]
     serves (serveObj (handed 5 (a 1)) (w 5 (a 1))) (fun _ => true) = true ∧
      (sysView (handed 5 (a 1)) (wKey (w 5 (a 1)))).ver.toNat < wN (w 5 (a 1)).ws 1 ∧
      wN (w 5 (a 0)).ws 1 ≤ (sysView (handed 5 (a 0)) (wKey (w 5 (a 0)))).ver.toNat ∧ (sysView (handed 5 (a 0)) (wKey (w 5 (a 0)))).hold = 0) := by
  refine ⟨?_, ?_, ?_, ?_, ?_, ?_⟩ <;> decide +kernel

theorem witness_OpenAnswers :
    let f := flit 2 1 0 [5, 7]
    let load : Req := { req 7 (.ldt false none 2) .remote with elems := [(0, 0)], handle := 0x10000000000007, want := [(0, 0, 8)] }
    let s (r : Req) := { handed 1 [5, 7] with reqs := [r] }
    let word (i : Nat) := payloadWord f.payload i
    (awaiting (handed 1 []) f = none ∧ awaiting (s load) f = some load ∧ load.want = [(0, 0, 8)] ∧ load.bad = none ∧
      (∀ x ∈ load.want, x.2 = (8 * (word 4).toNat + (word 5).toNat / 2 ^ 32, 8 * (word 4).toNat + (8 : Word).toNat % 2 ^ 32))) ∧
    (askedBy (handed 4 []) f (word 1) = none ∧
      (let r := req 7 (.amo .add true false 8 1 0 1 0) .remote
       askedBy (s r) f (word 1) = some r) ∧
      (let r := { req 7 (.stt 2) .remote with asks := 1 }
       askedBy (s r) f (word 1) = some r ∧ r.bad = none)) ∧
    (let g := flit 2 6 0 [0, 0, 0, 0, 0, 7]
     askedBy (s (req 7 (.acqv .system 3 1 0) .remote)) g (payloadWord g.payload 5) = some (req 7 (.acqv .system 3 1 0) .remote)) := by
  refine ⟨?_, ?_, ?_⟩ <;> decide +kernel

/-- Port 0 as x, the event with value w at a register's address. -/
def porting (x : Port) (e : Ev) : State := { rich 7 id with ports := [(0, x)], ev := e }

theorem witness_Ports :
    let training (e : Nat) : State := porting { Port.reset with en := true, state := 1 } { Ev.none with n := 10, id := e, w := 80 }
    let diff (s : State) : Word := s.ev.w + BitVec.ofNat 64 (2 * 10) - s.gcyc
    (blockAt 0xFF0004004000 = some (.port 0, 0) ∧ blockAt 0xFF0005004040 = some (.port 73, 0) ∧
      blockAt 0xFF0400006400 = some (.portMap, 0) ∧ blockAt 0xFF0400000000 = none) ∧
    ((portOf (training 1) 0).en = true ∧ (portOf (training 1) 0).state = 1 ∧ diff (training 1) = 0 ∧
      portPeer 0 0 = 1 ∧ portPeer 0 0 ≠ 2 ∧ logOf (training 1) 0 = some 0 ∧ (∀ b ∈ (training 1).lbind, b.2 ≠ 0)) ∧
    ((portOf (porting up Ev.none) 0).state = 2 ∧ (porting up Ev.none).ports = [(0, up)] ∧ logOf (porting up Ev.none) 0 = some 0 ∧
      logOf { porting up Ev.none with lmap := [(0, 143)] } 0 = none ∧ portUp (porting up Ev.none) 0 = true) ∧
    ((training 1).ports = [(0, { Port.reset with en := true, state := 1 })] ∧
      (∀ x ∈ [(0, Port.reset)], x.2.state ≠ 2 ∧ (x.2.state = 1 → x.2.en = false))) ∧
    (readyFor (training 1) (0, 5) (5, 0x33C) = true ∧ readyFor (training 1) (0, 5) (5, 0x200) = false) := by
  refine ⟨?_, ?_, ?_, ?_, ?_⟩ <;> decide +kernel

/-- Registers of the port map and the frame table. -/
theorem witness_PortTables :
    blockAt 0xFF0404000000 = none ∧ blockAt (0xFF0400000000 + 4 * 0x1000000 / 4) = none ∧
    blockAt 0xFF0400006408 = some (.portMap, 8) ∧ 143 < (0x90 : Word).toNat % 256 ∧
    (0x8F : Word).toNat % 256 ≤ 143 ∧ (0x8F : Word).toNat % 256 ≠ physOf (rich 7 id) 1 ∧
    blockAt 0xFF4000000008 = some (.frame, 8) ∧ frameSlot 0 = false ∧ frameSlot 8 = true := by
  refine ⟨?_, ?_, ?_, ?_, ?_, ?_, ?_, ?_, ?_⟩ <;> decide +kernel

/-- Die 0's manager with object 1 to move, mstat as given. -/
def moving (st mobj mdst : Word) (w : Nat) (core : Option Nat) : State :=
  updDie { object 65536 w [] (rich 3 id) with jcore := core, ev := { Ev.none with w := 4196 } } 0 fun y =>
    { y with mstat := st, mobj := mobj, mdst := mdst, msstk := 0x90001, mpstk := 0x91001 }

/-- Whether a move's object is there and f holds of it. -/
def movable (x : Option Obj) (f : Obj → Bool) : Bool :=
  match x with
  | some o => f o
  | none => false

theorem witness_ObjectManager :
    let b : Word := 0x8000000000000000
    let s := moving b 0x10000000 0x200000 there none
    ((dieOf s 0).mstat.getLsbD 63 = true ∧ (dieOf (moving 0 0 0 there none) 0).mstat.getLsbD 63 = false) ∧
    movable (moveObj s 0) (fun o => decide (moveWhy s 0 o = none)) = true ∧ moveObj (moving 0 0x20000000 0 there none) 0 = none ∧
    movable (moveObj (moving b 0x10000000 0 0 none) 0) (fun o => decide (moveWhy (moving b 0x10000000 0 0 none) 0 o = some 2)) = true ∧
    ((dieOf s 0).msfree.toNat < 2 ^ ((dieOf s 0).msstk.toNat % 64) ∧ ¬(2 : Nat) < 2 ^ ((dieOf s 0).msstk.toNat % 64)) ∧
    (s.gcyc.toNat + 4096 ≤ s.ev.w.toNat ∧ (4195 : Word).toNat < s.gcyc.toNat + 4096) ∧
    (s.jcore = none ∧ (moving b 0 0 there (some 5)).jcore = some 5) := by
  refine ⟨?_, ?_, ?_, ?_, ?_, ?_, ?_⟩ <;> decide +kernel

/-- Zone 5 as x. -/
def zoned (x : Zone) (e : Ev) : State := { rich 0 id with zones := [(5, x)], ev := { e with n := 5 } }

theorem witness_Coolant :
    let z (st : Nat) : Zone := { Zone.reset with state := st, alloc := 10, minf := 10 }
    let s (x : Zone) := zoned x { Ev.none with w := 5 }
    let fills (x : Zone) : Bool := decide ((x.state = 0 ∨ (x.state = 5 ∧ x.dstep = 8)) ∧ x.minf ≤ x.alloc ∧ 0 < x.minf)
    (fills (zoneOf (s (z 0)) 5) = true ∧ fills { z 5 with dstep := 8 } = true ∧ fills { z 0 with minf := 11 } = false ∧ fills { z 0 with minf := 0 } = false) ∧
    ((zoneOf (s (z 2)) 5).granted = 0 ∧ crossings (z 3) = [] ∧ crossings { z 3 with flolo := 1 } ≠ []) ∧
    ({ z 4 with dflt := true }.dflt = true ∧ (z 4).dflt = false ∧ (79 : Nat) < 80 ∧ (z 1).stepTick = 0) ∧
    (sluiceZone 0xFF0400010140 = 5 ∧ 16000 < allocOthers (s (z 2)) 5 + 16001 ∧ ¬16000 < allocOthers (s (z 2)) 5 + 16000 ∧
      (9 : Nat) < (z 2).minf ∧ ¬(10 : Nat) < (z 2).minf) ∧
    (parked (s (z 4)) 5 = true ∧ parked (zoned (z 4) Ev.none) 0 = false ∧ zoneOwner 12 = 1) ∧
    ({ z 4 with tst := 4 }.tst.getLsbD 2 = true ∧ (z 4).tst.getLsbD 2 = false ∧ (s (z 4)).ccore.getLsbD 6 = false ∧
      (0x40 : Word).getLsbD 6 = true) ∧
    (let y : Zone := { z 4 with dstep := 3, stepTick := 7 }
     let e := zoned y { Ev.none with slot := 3, id := 7 }
     y.state = 4 ∧ y.dflt = false ∧ e.ev.slot = y.dstep ∧ e.ev.id = y.stepTick ∧ 1 < y.dstep ∧ y.dstep < 7 ∧ e.ev.flag = false) ∧
    (let y : Zone := { z 2 with power := true, volt := 450, vset := 500 }
     y.power = true ∧ y.volt = 450 ∧ 500 ≤ y.vset.toNat) := by
  refine ⟨?_, ?_, ?_, ?_, ?_, ?_, ?_, ?_⟩ <;> decide +kernel

/-- An image body at 0x100000 of one empty dictionary entry. -/
def body : State := memWords [(0x102000, 16), (0x102008, 1), (0x100010, 64)] (rich 0 id)

/-- A boot image at 0x100000 for a stage and a target: a body of one empty dictionary entry in 64 bytes, with its digest. -/
def signed (stage target : Nat) : Mem :=
  memWrite (memWrite body.mem 0x100000 (bytesOf (0x4E5A4249 + 2 ^ 32 + stage * 2 ^ 48 + target * 2 ^ 56) 8)) 0x100030
    (bytesOf 9164979909032639682171509810502130850442999355919822923015996783122761049058075510506409999699195023912328721194995 48)

/-- The anchors are the digests of the keys that the image holds. -/
def anchored (m : Mem) : Secure :=
  { Secure.reset with bked := digestOf (sha384 (memBytes m 0x100080 32)), bkml := digestOf (sha384 (memBytes m 0x1000E0 1952)) }

/-- Where both signatures verify (Config leaves that open), the image is accepted. -/
theorem witness_ImageAccepted (stage target : Nat) (h : (stage, target) = (2, 1) ∨ (stage, target) = (1, 3)) :
    let m := signed stage target
    let hd := imgHead m 0x100000
    Config.ed25519Verify hd (memBytes m 0x100080 32) (memBytes m 0x1000A0 64) = true →
    Config.mlDsa65Verify hd (memBytes m 0x1000E0 1952) (memBytes m 0x100880 3309) = true →
    imageOk (anchored m) m 0x100000 stage target = true ∧ bodyOk 384 m 0x100000 = true ∧ bodyOk 448 m 0x100000 = true ∧
      imgBlen m 0x100000 ≤ 0xFE000 := by
  intro m hd a b
  have e : (decide (imgNum m 0x100000 0 4 = 0x4E5A4249) && decide (imgNum m 0x100000 4 2 = 1) && decide (imgNum m 0x100000 6 1 = stage) &&
      decide (imgNum m 0x100000 7 1 = target) && decide (1 ≤ imgBlen m 0x100000) && decide (imgBlen m 0x100000 ≤ 2 ^ 30)) = true ∧
      decide (popc (0 : Word) 64 ≤ imgNum m 0x100000 8 8) = true ∧
      decide (sha384 (memBytes m (0x100000 + 0x2000) (imgBlen m 0x100000)) = memBytes m (0x100000 + 0x030) 48) = true ∧
      bodyOk 384 m 0x100000 = true ∧ bodyOk 448 m 0x100000 = true ∧ imgBlen m 0x100000 ≤ 0xFE000 := by
    rcases h with h | h <;> cases h <;> decide +kernel
  refine ⟨?_, e.2.2.2.1, e.2.2.2.2.1, e.2.2.2.2.2⟩
  have x : decide (digestOf (sha384 (memBytes m (0x100000 + 0x080) 32)) = (anchored m).bked) = true := decide_eq_true rfl
  have y : decide (digestOf (sha384 (memBytes m (0x100000 + 0x0E0) 1952)) = (anchored m).bkml) = true := decide_eq_true rfl
  have z : (anchored m).thermo = 0 := rfl
  simp only [imageOk]
  rw [e.1, x, y, a, b, z, e.2.1, e.2.2.1]
  rfl

theorem witness_BringUp :
    let h : HostPort := { HostPort.reset with hprod := 5, hcons := 3, dprod := 9, dcons := 7, bmap := [(0, 1), (1, 0x800000000001)] }
    let s := { rich 0 id with host := h }
    (bodyOk 384 body.mem 0x100000 = true ∧ bodyOk 384 [] 0x100000 = false) ∧
    firstOk (rich 0 id) 0 = false ∧
    (h.hprod.toNat ≤ 259 ∧ 259 ≤ h.hcons.toNat + 256 ∧ h.hcons.toNat + 256 < 260 ∧ 4 < h.hprod.toNat ∧ h.dcons.toNat ≤ 9 ∧ 9 ≤ h.dprod.toNat) ∧
    ((bulkAt s 0).filter mapped = some 0 ∧ blockAt 0 = none ∧ (bulkAt s 0x4000000).filter mapped = none ∧ (bulkAt s 0x8000000).filter mapped = none) ∧
    (h.garm = false ∧ h.rqlen = 0 ∧ { h with rqlen := 4, waiting := [] }.rqlen ≠ 0) ∧
    (blockAt 0xFF0000001000 = some (.faultQ 0, 0) ∧ blockAt 0xFF0000000000 = none) := by
  refine ⟨?_, ?_, ?_, ?_, ?_, ?_⟩ <;> decide +kernel

theorem witness_Security :
    let x : Secure := { Secure.reset with lc := 2 }
    let s := { rich 0 id with secure := x, ev := { Ev.none with w := 0x1000 } }
    (x.busy = false ∧ { x with busy := true }.busy = true ∧ operandOk 0x1000 48 = true ∧ operandOk 0xFF0000000000 48 = false ∧
      operandOk 0 0 = true) ∧
    (x.lc ≠ 4 ∧ cSel s = 16 ∧ 1 < cSel s ∧ { x with lc := 4 }.lc = 4 ∧ cLen s = 0 ∧ cLen s ≠ 48 ∧
      cLen { s with secure := { x with len := 48 } } = 48 ∧ cLen { s with secure := { x with len := 4096 } } ≤ 4096 ∧ cDst s ≠ dnonceAt) ∧
    (x.kbusy = false ∧ { x with kbusy := true }.kbusy = true ∧ { x with mlock := 8 }.mlock.getLsbD 3 = true ∧ x.mlock.getLsbD 3 = false) ∧
    (x.lc.toNat < (3 : BitVec 3).toNat ∧ (2 : BitVec 3).toNat ≤ x.lc.toNat ∧ (x.lc = 1 ∨ x.lc = 2) ∧ x.lc ≠ 0) ∧
    (s.keys = [] ∧ tblGet (0 : BitVec 384) { x with meas := [(4, 1)], lcs := 3 }.meas 4 ≠ 0 ∧ { x with lcs := 3 }.lcs = 3) ∧
    blockAt 0x1000 = none := by
  refine ⟨?_, ?_, ?_, ?_, ?_, ?_⟩ <;> decide +kernel

/-- The package just reset with an instruction of slot SA, a micro-operation, or an event first in its work. -/
theorem witness_StepRuns :
    (let s := State.reset.withFetchWord 40 0x0610400001
     (match s.work with
      | .issue 0 0 :: _ =>
        match (coreOf s 0).queue[nextIdx (coreOf s 0) 0]? with
        | some d => !skips (coreOf s 0) d 0 && slotOn d.bits 0 && (decodeField (slotField d.bits 0)).isSome
        | none => false
      | _ => false) = true ∧ (coreOf s 0).run = .running ∧ (coreOf s 0).issueFrom ≤ s.tick) ∧
    (let m := State.reset.withFetchWord 128 0x60000000000000000000000000000000
     (match m.work with | .micro 0 :: _ => true | _ => false) = true ∧ (coreOf m 0).arch.seq.upc ≤ 511 ∧
     (decodeMicro (tblGet (0 : MicroWord) (coreOf m 0).ustore (coreOf m 0).arch.seq.upc)).isSome = true) ∧
    (takeDue 5 [{ due := 5, instr := .signalLands, ev := Ev.none }]).isSome = true := by
  refine ⟨?_, ?_, ?_⟩ <;> decide +kernel

/-- The state after reset meets the invariant of the memories, and a step from it answers. -/
theorem witness_StepsKeepMemories : MemoriesWf State.reset ∧ Memory.wf [] = true ∧ legal (.addi 1 2 3) = true ∧
    (encode (.addi 1 2 3)).isSome = true := by
  refine ⟨reset_memories, by decide, by decide, by decide +kernel⟩

end Sys2Proof.Machine.Tests
end

section
/-! PROOFS. Constants and bit fields (R147, R148), and the faults of scratchpad accesses (R150). -/

namespace Sys2Proof.Machine

/-! ## The meanings of the instructions -/

theorem exec_movi (rd : BitVec 6) (imm : BitVec 27) (s : State) :
    exec (.movi rd imm) s = scalarOp s 1 rd (imm.signExtend 64) := rfl

theorem exec_movhi (rd : BitVec 6) (imm : BitVec 27) (s : State) :
    exec (.movhi rd imm) s = scalarOp s 1 rd (readS s rd <<< 27 ||| imm.setWidth 64) := rfl

theorem exec_bfx (x : Bool) (rd ra pos len1 : BitVec 6) (s : State) :
    exec (.bfx x rd ra pos len1) s = scalarOp s 1 rd (bfxVal x (readS s ra) pos.toNat (len1.toNat + 1)) := rfl

theorem exec_bfi (rd ra pos len1 : BitVec 6) (s : State) :
    exec (.bfi rd ra pos len1) s =
      scalarOp s 1 rd (setField (readS s rd) pos.toNat (len1.toNat + 1) (readS s ra).toNat) := rfl

theorem exec_lds (rd ra : BitVec 6) (sz : BitVec 2) (sx : Bool) (disp : BitVec 18) (s : State) :
    exec (.lds rd ra sz sx disp) s =
      perform s (scratchChk s (readS s ra + disp.signExtend 64) (2 ^ sz.toNat)) fun s' => addSample s' 2 4
        (.lds s'.cur.sec rd.toNat (readS s ra + disp.signExtend 64).toNat (2 ^ sz.toNat) sx) := rfl

theorem exec_sts (rd ra : BitVec 6) (sz : BitVec 2) (disp : BitVec 18) (s : State) :
    exec (.sts rd ra sz disp) s =
      perform s (scratchChk s (readS s ra + disp.signExtend 64) (2 ^ sz.toNat)) fun s' => addStore s' 5 slotGroup
        (.bytes (readS s ra + disp.signExtend 64).toNat (bytesOf (readS s rd).toNat (2 ^ sz.toNat))) := rfl

theorem exec_amos (op : AmosOp) (w64 : Bool) (rd ra rb rc : BitVec 6) (s : State) :
    exec (.amos op w64 rd ra rb rc) s =
      perform s (scratchChk s (readS s ra) (if w64 then 8 else 4)) fun s' => addStore s' 5 slotGroup
        (.amos s'.cur.sec rd.toNat (readS s ra).toNat (if w64 then 8 else 4) op (readS s rb) (readS s rc) (s'.tick + 6)
          false) := rfl

/-! ## Constants (R147) -/

/-- A MOVHI whose immediate is bits k + 26 to k of x puts them below what the register held. -/
theorem getLsbD_movhi (x y : Word) (k : Nat) {i : Nat} (hi : i < 64) :
    (y <<< 27 ||| (x.extractLsb' k 27).setWidth 64).getLsbD i =
      if i < 27 then x.getLsbD (k + i) else y.getLsbD (i - 27) := by
  rw [BitVec.getLsbD_or, BitVec.getLsbD_shiftLeft, BitVec.getLsbD_setWidth, BitVec.getLsbD_extractLsb']
  by_cases h : i < 27 <;> simp [h, hi]

/-- A MOVI of bits 31:27 and a MOVHI of bits 26:0 build x: bits from 31 on are clear, and so is the sign of the MOVI immediate. -/
theorem movi_movhi_eq_of_lt (x : Word) (hx : x.toNat < 2 ^ 31) :
    (((x.extractLsb' 27 5).setWidth 27).signExtend 64) <<< 27 ||| (x.extractLsb' 0 27).setWidth 64 = x := by
  have high (j : Nat) (hj : 31 ≤ j) : x.getLsbD j = false :=
    Nat.testBit_lt_two_pow (Nat.lt_of_lt_of_le hx (Nat.pow_le_pow_right (by decide) hj))
  refine BitVec.eq_of_getLsbD_eq fun i hi => ?_
  rw [getLsbD_movhi x _ 0 hi]
  by_cases low : i < 27
  · simp [low]
  · have top : ((x.extractLsb' 27 5).setWidth 27).msb = false := by
      rw [BitVec.msb_setWidth, BitVec.getLsbD_of_ge _ _ (by decide), Bool.and_false]
    rw [if_neg low, BitVec.getLsbD_signExtend, top, BitVec.getLsbD_setWidth, BitVec.getLsbD_extractLsb',
      show 27 + (i - 27) = i by omega]
    by_cases field : i < 31
    · simp [show i - 27 < 5 by omega, show i - 27 < 27 by omega, show i - 27 < 64 by omega]
    · simp [high i (by omega)]

/-- A MOVI of bits 63:54 and MOVHIs of bits 53:27 and 26:0 build x: no bit of the sign reaches the ten bits at the top. -/
theorem movi_movhi_movhi_eq (x : Word) :
    ((((x.extractLsb' 54 10).signExtend 27).signExtend 64) <<< 27 ||| (x.extractLsb' 27 27).setWidth 64) <<< 27 |||
      (x.extractLsb' 0 27).setWidth 64 = x := by
  refine BitVec.eq_of_getLsbD_eq fun i hi => ?_
  rw [getLsbD_movhi x _ 0 hi]
  by_cases low : i < 27
  · simp [low]
  · rw [if_neg low, getLsbD_movhi x _ 27 (by omega)]
    by_cases mid : i - 27 < 27
    · rw [if_pos mid, show 27 + (i - 27) = i by omega]
    · have top : i - 27 - 27 < 10 := by omega
      have place : 54 + (i - 27 - 27) = i := by omega
      rw [if_neg mid, BitVec.getLsbD_signExtend, BitVec.getLsbD_signExtend, BitVec.getLsbD_extractLsb', place]
      simp [top, show i - 27 - 27 < 27 by omega, show i - 27 - 27 < 64 by omega]

/-! ## Bit fields (R148) -/

/-- BFX is the extracted field, extended by zeros. -/
theorem bfxVal_false (a : Word) (p n : Nat) : bfxVal false a p n = (a.extractLsb' p n).setWidth 64 := by
  refine BitVec.eq_of_toNat_eq ?_
  simp [bfxVal, Nat.shiftRight_eq_div_pow]

/-- BFX.s is the extracted field, extended by its sign. -/
theorem bfxVal_true (a : Word) (p : Nat) {n : Nat} (hn : 0 < n) : bfxVal true a p n = (a.extractLsb' p n).signExtend 64 := by
  have half : 2 * 2 ^ (n - 1) = 2 ^ n := by rw [← Nat.pow_succ', Nat.succ_eq_add_one, Nat.sub_add_cancel hn]
  have field : (a.extractLsb' p n).toNat = a.toNat / 2 ^ p % 2 ^ n := by simp [Nat.shiftRight_eq_div_pow]
  rw [BitVec.signExtend, BitVec.toInt_eq_toNat_cond, field]
  by_cases neg : a.toNat / 2 ^ p % 2 ^ n ≥ 2 ^ (n - 1)
  · rw [if_neg (by omega)]
    simp [bfxVal, neg]
  · rw [if_pos (by omega)]
    simp only [bfxVal, neg, decide_false, Bool.and_false, Bool.false_eq_true, if_false, BitVec.ofInt_natCast]

/-- The bits of the number that setField writes: the field between the low and the high bits of the old word. -/
theorem testBit_field (x v lo n i : Nat) :
    (x % 2 ^ lo + v % 2 ^ n * 2 ^ lo + x / 2 ^ (lo + n) * 2 ^ (lo + n)).testBit i =
      if lo ≤ i ∧ i < lo + n then v.testBit (i - lo) else x.testBit i := by
  have nested : x % 2 ^ lo + v % 2 ^ n * 2 ^ lo + x / 2 ^ (lo + n) * 2 ^ (lo + n) =
      2 ^ lo * (2 ^ n * (x / 2 ^ (lo + n)) + v % 2 ^ n) + x % 2 ^ lo := by
    rw [Nat.pow_add, Nat.mul_add, Nat.mul_comm (2 ^ lo) (v % 2 ^ n), Nat.mul_comm (x / _), Nat.mul_assoc]
    omega
  rw [nested, Nat.testBit_two_pow_mul_add _ (Nat.mod_lt _ (Nat.two_pow_pos lo)),
    Nat.testBit_two_pow_mul_add _ (Nat.mod_lt _ (Nat.two_pow_pos n)), Nat.testBit_mod_two_pow, Nat.testBit_mod_two_pow,
    Nat.testBit_div_two_pow]
  by_cases below : i < lo
  · simp [below, Nat.not_le.2 below]
  · by_cases within : i < lo + n
    · simp [below, within, Nat.not_lt.1 below, show i - lo < n by omega]
    · simp [below, within, show ¬ i - lo < n by omega, show i - lo - n + (lo + n) = i by omega]

theorem getLsbD_setField (w : Word) (lo n v : Nat) {i : Nat} (hi : i < 64) :
    (setField w lo n v).getLsbD i = if lo ≤ i ∧ i < lo + n then v.testBit (i - lo) else w.getLsbD i := by
  rw [setField, BitVec.getLsbD_ofNat, testBit_field]
  simp [hi, BitVec.getLsbD]

theorem landsS_bfx_zero (s : State) (rd ra pos len1 : BitVec 6) :
    ∃ v, LandsS (.bfx false rd ra pos len1) s 1 rd v ∧ ∀ i < 64, v.getLsbD i =
      if i < len1.toNat + 1 then (readS s ra).getLsbD (pos.toNat + i) else false := by
  refine ⟨_, landsS_of_scalarOp (exec_bfx false rd ra pos len1 s), fun i hi => ?_⟩
  rw [bfxVal_false, BitVec.getLsbD_setWidth, BitVec.getLsbD_extractLsb']
  simp [hi]

theorem landsS_bfx_sign (s : State) (rd ra pos len1 : BitVec 6) :
    ∃ v, LandsS (.bfx true rd ra pos len1) s 1 rd v ∧ ∀ i < 64, v.getLsbD i =
      if i < len1.toNat + 1 then (readS s ra).getLsbD (pos.toNat + i) else
        (readS s ra).getLsbD (pos.toNat + (len1.toNat + 1) - 1) := by
  refine ⟨_, landsS_of_scalarOp (exec_bfx true rd ra pos len1 s), fun i hi => ?_⟩
  rw [bfxVal_true _ _ (Nat.succ_pos _), BitVec.getLsbD_signExtend, BitVec.msb_eq_getLsbD_last, BitVec.getLsbD_extractLsb',
    BitVec.getLsbD_extractLsb', Nat.add_sub_assoc (Nat.succ_pos _)]
  by_cases within : i < len1.toNat + 1 <;> simp [within, hi]

theorem landsS_bfi (s : State) (rd ra pos len1 : BitVec 6) :
    ∃ v, LandsS (.bfi rd ra pos len1) s 1 rd v ∧ ∀ i < 64, v.getLsbD i =
      if pos.toNat ≤ i ∧ i < pos.toNat + (len1.toNat + 1) then (readS s ra).getLsbD (i - pos.toNat)
      else (readS s rd).getLsbD i :=
  ⟨_, landsS_of_scalarOp (exec_bfi rd ra pos len1 s), fun _ hi => getLsbD_setField _ _ _ _ hi⟩

theorem legal_bfx (x : Bool) (rd ra pos len1 : BitVec 6) :
    legal (.bfx x rd ra pos len1) = decide (pos.toNat + len1.toNat + 1 ≤ 64) := rfl

theorem legal_bfi (rd ra pos len1 : BitVec 6) :
    legal (.bfi rd ra pos len1) = decide (pos.toNat + len1.toNat + 1 ≤ 64) := rfl

/-- Settles O3: bit by bit, with each result's bits given by a lemma about its value. -/
theorem constantsAndFields : Obligations.ConstantsAndFields := by
  unfold Obligations.ConstantsAndFields
  refine ⟨⟨fun s rd imm => ⟨landsS_of_scalarOp (exec_movi rd imm s), landsS_of_scalarOp (exec_movhi rd imm s)⟩,
    movi_movhi_eq_of_lt, movi_movhi_movhi_eq⟩, fun x rd ra pos len1 h => ?_, fun s rd ra pos len1 _ =>
    ⟨landsS_bfx_zero s rd ra pos len1, landsS_bfx_sign s rd ra pos len1, landsS_bfi s rd ra pos len1⟩⟩
  rw [legal_bfx, legal_bfi, decide_eq_false (Nat.not_le.2 h)]
  exact ⟨rfl, rfl⟩

/-! ## The checks of scratchpad accesses (R150) -/

theorem scratchChk_misaligned (s : State) {a : Word} {nb : Nat} (h : a.toNat % nb ≠ 0) :
    scratchChk s a nb = .fault 12 a 0 := by
  simp [scratchChk, faultIf, Chk.and, h]

theorem scratchChk_past_end {s : State} {a : Word} {nb : Nat} (h : a.toNat % nb = 0)
    (h' : a.toNat + nb > scratchSize s.cur.core) : scratchChk s a nb = .fault 13 a 0 := by
  simp [scratchChk, faultIf, Chk.and, h, h']

/-- Settles O4: each access performs under the two checks of R150, and the first that fails gives the trap. -/
theorem scratchpadFaults : Obligations.ScratchpadFaults := by
  unfold Obligations.ScratchpadFaults
  intro s rd ra rb rc sz sx w64 disp op size a nb b mb
  have lds {c x y} (h : scratchChk s a nb = .fault c x y) : Faults (.lds rd ra sz sx disp) s c x y :=
    faults_of_perform (exec_lds rd ra sz sx disp s) h
  have sts {c x y} (h : scratchChk s a nb = .fault c x y) : Faults (.sts rd ra sz disp) s c x y :=
    faults_of_perform (exec_sts rd ra sz disp s) h
  have amos {c x y} (h : scratchChk s b mb = .fault c x y) : Faults (.amos op w64 rd ra rb rc) s c x y :=
    faults_of_perform (exec_amos op w64 rd ra rb rc s) h
  refine ⟨fun h => ?_, fun h h' => ?_, fun h => amos (scratchChk_misaligned s h),
    fun h h' => amos (scratchChk_past_end h h')⟩
  · exact ⟨lds (scratchChk_misaligned s h), sts (scratchChk_misaligned s h)⟩
  · exact ⟨lds (scratchChk_past_end h h'), sts (scratchChk_past_end h h')⟩

end Sys2Proof.Machine
end
